-- ==== Sys2Proof/Word.lean ====
section
/-!
DEFINITION. The word types of the Valzer machine (02 R20, R21) and the type of sparse tables that hold everything indexed.
-/

namespace Sys2Proof

/-- A 32-bit register value, R20. -/
abbrev Word := BitVec 32
/-- A 64-bit value: a pair by R21, a PC, a latch, an address. -/
abbrev DWord := BitVec 64
/-- One byte of memory. -/
abbrev Byte := BitVec 8
/-- A set of lanes: bit L is lane L. -/
abbrev Mask := BitVec 32
/-- A sparse table: pairs of an index and a value, sorted by index; an unlisted index reads as the table's default. -/
abbrev Tab (α : Type) := List (Nat × α)

end Sys2Proof
end

