-- ==== Sys2Proof/Config.lean ====
section
/-!
DEFINITION. What the manual leaves to the device and gives no value: constants without a body, so that no proof can use a value of one
(assumptions 10 and 12). Each says where the manual leaves it open.
-/

namespace Sys2Proof

/-- The next free value: random keys, the choice of an evicted line, whatever the manual names and gives no value. -/
opaque Config.freeValue : Nat → BitVec 64
/-- The number of the system core that Signet names for a die (18 R324): which of the 32. -/
opaque Config.namedCore : Nat → Nat
/-- The device's Falcon-1024 signature of a digest, and its public key (23 R391). -/
opaque Config.sign : List (BitVec 8) → List (BitVec 8)
opaque Config.publicKey : List (BitVec 8)
/-- What stands in an image of 23 R376, whose layout the manual does not give: the Signet section, the system-firmware section, the security version,
the key and the Falcon-1024 signature, and where the two sections start. -/
opaque Config.signetPart : List (BitVec 8) → List (BitVec 8)
opaque Config.firmwarePart : List (BitVec 8) → List (BitVec 8)
opaque Config.imageVersion : List (BitVec 8) → Nat
opaque Config.imageKey : List (BitVec 8) → List (BitVec 8)
opaque Config.imageSignature : List (BitVec 8) → List (BitVec 8)
opaque Config.signetEntry : List (BitVec 8) → BitVec 64
opaque Config.firmwareEntry : List (BitVec 8) → BitVec 64
/-- A signature of a digest under a key is a Falcon-1024 signature: the manual names the function (23 R376). -/
opaque Config.falconVerify : List (BitVec 8) → List (BitVec 8) → List (BitVec 8) → Bool
/-- The digest of the Umiholt key, and the least security version, in the fuses (23 R376). -/
opaque Config.fusedKey : List (BitVec 8)
opaque Config.fusedVersion : Nat
/-- The evidence of each Rhadin switch on a world's routes: identity key digest and measurement, 128 bytes (23 R391). -/
opaque Config.switches : Nat → List (List (BitVec 8))
/-- A 256 MiB block of the CXL range holds a device (11 R205, 16 R308), and the port the device is behind. -/
opaque Config.cxlAssigned : Nat → Bool
opaque Config.cxlPort : Nat → Nat
/-- The device behind a 256-byte sector of CXL memory answers a read of it with poison (16 R308); the second number tells one read from the next. -/
opaque Config.poisoned : Nat → Nat → Bool
/-- How many corrected errors a read meets in what it reads: memory and its caches, or registers and accumulators (24 R398, 18 R334); the second number
tells one read from the next. -/
opaque Config.corrected : Nat → Nat → Nat
/-- What a store to the configuration space of a link's root ports leaves set (16 R299): into how many root ports the link is bifurcated, the bus numbers
that ACS source validation accepts, whether downstream port containment holds; from the offset in ECAM, the value stored and what was set before. -/
opaque Config.rootPorts : Nat → Nat → Nat → Nat
opaque Config.sourceBuses : Nat → Nat → Option (Nat × Nat) → Option (Nat × Nat)
opaque Config.contains : Nat → Nat → Bool → Bool
/-- An enabled function behind a port answers at an address of the port's window (16 R300). -/
opaque Config.responds : Nat → Nat → Bool
/-- The channel, 0 to 31, of a die's HBM4E that holds an address (11 R218). -/
opaque Config.channelOf : Nat → Nat
/-- The row of HBM4E that holds an address (11 R219): the manual gives no geometry. -/
opaque Config.rowOf : Nat → Nat

end Sys2Proof
end

