-- ==== Sys2Proof/Machine/Bits.lean ====
section
/-!
DEFINITION. Bit fields, lane sets, sign extension and byte order (00 R6, 01 R13): the helpers every later file shares.
-/

namespace Sys2Proof

/-- Bits `[hi:lo]` of a number, as a number. -/
def bitsOf (x hi lo : Nat) : Nat := (x / 2 ^ lo) % 2 ^ (hi + 1 - lo)

/-- Bits `[hi:lo]` of a number with the value `v` put in. -/
def putBits (x hi lo v : Nat) : Nat :=
  (x / 2 ^ (hi + 1)) * 2 ^ (hi + 1) + (v % 2 ^ (hi + 1 - lo)) * 2 ^ lo + x % 2 ^ lo

/-- Bit `i` of a number. -/
def bitAt (x i : Nat) : Bool := x.testBit i

/-- The signed reading of the low `w` bits of `x`. -/
def toSigned (w x : Nat) : Int :=
  let y := x % 2 ^ w
  if w ≠ 0 ∧ y.testBit (w - 1) then (y : Int) - 2 ^ w else (y : Int)

/-- The low `w` bits of an integer, as a number. -/
def wrapInt (w : Nat) (x : Int) : Nat := (x % (2 ^ w : Int)).toNat

/-- An integer as a 32-bit word, modulo 2^32. -/
def wordOfInt (x : Int) : Word := BitVec.ofInt 32 x

/-- The numbers of the lanes of a group. -/
def laneList : List Nat := List.range 32

/-- Lane `l` belongs to the set. -/
def Mask.has (m : Mask) (l : Nat) : Bool := m.getLsbD l

/-- The set of the lanes that satisfy `p`. -/
def maskOf (p : Nat → Bool) : Mask :=
  laneList.foldr (fun l m => if p l then m ||| (1#32 <<< l) else m) 0#32

/-- The lanes of a set in ascending order. -/
def Mask.lanes (m : Mask) : List Nat := laneList.filter (fun l => m.getLsbD l)

/-- The lowest-numbered lane of a set. -/
def Mask.first (m : Mask) : Option Nat := laneList.find? (fun l => m.getLsbD l)

/-- The bytes of `x`, `n` of them, least significant first (R13). -/
def bytesLE : Nat → Nat → List Byte
  | 0, _ => []
  | n + 1, x => BitVec.ofNat 8 x :: bytesLE n (x / 256)

/-- The number that little-endian bytes spell (R13). -/
def ofBytesLE : List Byte → Nat
  | [] => 0
  | b :: bs => b.toNat + 256 * ofBytesLE bs

/-- Every element of a list is the same. -/
def allSame {α : Type} [DecidableEq α] : List α → Bool
  | [] => true
  | x :: xs => xs.all (fun y => decide (y = x))

/-- The smallest number of bits that holds `x`: 0 for 0. -/
def bitLen (x : Nat) : Nat := if x = 0 then 0 else Nat.log2 x + 1

/-- Round up to a multiple of `m`. -/
def roundUp (x m : Nat) : Nat := ((x + m - 1) / m) * m

end Sys2Proof
end

