-- ==== Sys2Proof/Syntax.lean ====
section
/-!
DEFINITION. The instructions and steps of the Sceud 3200: one constructor of `Instr` for each row of the opcode table.
A base word and its extended or literal form are two rows and two constructors (01 R11, 03 R49).
A row that is a step of an engine, a home, a distributor, an I/O die, Signet or a clock is a constructor without an encoding.
-/

namespace Sys2Proof

/-- The special sources, in the order of 01 R9: codes 0xD0 to 0xDF. -/
inductive SpecialReg where
  | lane | quad | item | itemy | itemz | grp | wg | gang | core | die | clk | clkh | amask | pcv | gen | zero
  deriving DecidableEq, Repr

/-- An operand field, 01 R9. In a field whose role is a predicate or a tile, `v n` stands for predicate or tile n (03 R40, R48). -/
inductive Opnd where
  /-- 0x00 to 0xBF: a vector register, the low register of a pair or quad, a predicate or a tile by role. -/
  | v (n : Fin 192)
  /-- 0xC0 to 0xC7: an operand-cache slot. -/
  | oc (n : Fin 8)
  /-- 0xC8 to 0xCB: a last-result latch. -/
  | la (n : Fin 4)
  /-- 0xCC to 0xCF: a loop counter. -/
  | lc (n : Fin 4)
  /-- 0xD0 to 0xDF: a special source. -/
  | sp (r : SpecialReg)
  /-- 0xE0 to 0xEF: the small constant code - 0xE8; `k` holds the low four bits of the code. -/
  | imm (k : Fin 16)
  /-- 0xFE: no register, or an unused field. -/
  | none
  /-- 0xFF: the trailing literal. -/
  | lit
  deriving DecidableEq, Repr

/-- The type codes of layout T, 03 R44; `dflt` is code 0. -/
inductive Ty where
  | dflt | s8 | u8 | s16 | u16 | s32 | u32 | s64 | u64 | f64 | f32 | f16 | bf16 | e4m3 | e5m2
  deriving DecidableEq, Repr

/-- The rounding modes of 04 R60. -/
inductive Rnd where
  | rne | rtz | rup | rdn | rna | rsr | rodd | dyn
  deriving DecidableEq, Repr

/-- Access widths of layout M, 03 R46. -/
inductive Wid where
  | b32 | b8 | b16 | b64 | b128
  deriving DecidableEq, Repr

/-- Cache classes of layout M, 03 R46. On an atomic the field carries the operand type (13 R254). -/
inductive Cls where
  | ca | cb | vg
  deriving DecidableEq, Repr

/-- Orders of layout M, 03 R46; in FENCE code 0 is .sc. -/
inductive Ord where
  | rlx | acq | rel | ar
  deriving DecidableEq, Repr

/-- Declared uses of relaxed atomics, 12 R241. -/
inductive Use where
  | none | unp | com | nord | qnt | spec
  deriving DecidableEq, Repr

/-- Scopes, 12 R227, in the order of their codes (03 R46). -/
inductive Scope where
  | grp | qd | wg | core | gang | qdr | die | row | pkg | sys | part | pod
  deriving DecidableEq, Repr

/-- Word 2 in its four layouts, 03 R43 to R47. -/
inductive W2 where
  /-- Layout T: IMM, STY, DTY, RSRC. -/
  | t (imm : BitVec 16) (sty dty : Ty) (rsrc : Opnd)
  /-- Layout W: one 32-bit value. -/
  | w (val : BitVec 32)
  /-- Layout M: SCOPE, USE, ORD, CLS, WID, OFF. -/
  | m (scope : Scope) (use : Use) (ord : Ord) (cls : Cls) (wid : Wid) (off : BitVec 18)
  /-- Layout X: WSL, AG, BS, SA, SB, AFM, BFM, SCA, SCW. -/
  | x (wsl : Fin 32) (ag bs sa sb afm bfm : Bool) (sca scw : Opnd)
  deriving DecidableEq, Repr

/-- The fields of an extended or literal form, 03 R37 to R39. -/
structure Ext where
  /-- LEN 01: a base word with a literal, whose Word 1 is the implied one of 01 R12. -/
  short : Bool
  d : Opnd
  a : Opnd
  b : Opnd
  c : Opnd
  /-- Empty policies, 02 R29. -/
  fa : Bool
  fb : Bool
  fc : Bool
  /-- Dead bits, 02 R30. -/
  da : Bool
  db : Bool
  dc : Bool
  uni : Bool
  sat : Bool
  rnd : Rnd
  /-- The guard predicate PRED and its inversion PNEG. -/
  pred : Fin 8
  pneg : Bool
  w2 : W2
  /-- The literal: present exactly in LEN 01 and 11. -/
  lit : Option (BitVec 64)
  deriving DecidableEq, Repr

/-- A request an endpoint sends below a root port (16 R299 to R307): port, requester, PASID, translated, IDE-protected, address. -/
structure Tlp where
  port : Nat
  rid : BitVec 16
  pasid : Option (BitVec 12)
  translated : Bool
  protectedIde : Option Nat
  addr : DWord
  deriving DecidableEq, Repr

/-- A remote write of another package (21 R370): Rhadin port, source package, window, offset, generation, partition. -/
structure RemoteTlp where
  port : Nat
  pkg : Nat
  win : Nat
  off : Nat
  gen : BitVec 10
  part : BitVec 8
  deriving DecidableEq, Repr

/-- What a channel does about refresh (11 R218): a refresh becomes due, is issued, or is pulled in ahead. -/
inductive RefreshAct where
  | due | issue | pullIn
  deriving DecidableEq, Repr

/-- What the scrub finds in a sector (23 R390). -/
inductive ScrubResult where
  | clean | corrected | uncorrectable
  deriving DecidableEq, Repr

/-- What a boot meets: the image as the boot ROM of the west and of the east I/O die reads it (23 R376), and a failure to bring up a die, with its cause
(24 R392 step 4). -/
structure Boot where
  west : List (BitVec 8)
  east : List (BitVec 8)
  failure : Option (BitVec 8 × BitVec 5)
  deriving DecidableEq, Repr

/-- The rows of the opcode table. -/
inductive Instr where
  /-- NOP, R106. -/
  | nop
  /-- NOP.x, R106. -/
  | nopX (x : Ext)
  /-- YIELD, R106. -/
  | yield (x : Ext)
  /-- MOV, R80. -/
  | mov (d a : Opnd)
  /-- MOV.x, R80. -/
  | movX (x : Ext)
  /-- SEL, R80. -/
  | sel (x : Ext)
  /-- MOV64, R80. -/
  | mov64 (x : Ext)
  /-- MOVX, R82. -/
  | movx (x : Ext)
  /-- MOVXW, R82. -/
  | movxw (x : Ext)
  /-- IADD, R84. -/
  | iadd (d a b : Opnd)
  /-- IADD.x, R84. -/
  | iaddX (x : Ext)
  /-- IADD64, R84. -/
  | iadd64 (x : Ext)
  /-- LEA, R86. -/
  | lea (x : Ext)
  /-- IADDC, R85. -/
  | iaddc (x : Ext)
  /-- ISUBB, R85. -/
  | isubb (x : Ext)
  /-- ISUB, R84. -/
  | isub (d a b : Opnd)
  /-- ISUB.x, R84. -/
  | isubX (x : Ext)
  /-- ISUB64, R84. -/
  | isub64 (x : Ext)
  /-- INEG, R84. -/
  | ineg (x : Ext)
  /-- IABS, R84. -/
  | iabs (x : Ext)
  /-- IMUL, R84. -/
  | imul (d a b : Opnd)
  /-- IMUL.x, R84. -/
  | imulX (x : Ext)
  /-- IMULH, R84. -/
  | imulh (x : Ext)
  /-- IMULW, R84. -/
  | imulw (x : Ext)
  /-- IMAD, R84. -/
  | imad (x : Ext)
  /-- IMADW, R84. -/
  | imadw (x : Ext)
  /-- IMAD64, R84. -/
  | imad64 (x : Ext)
  /-- IMIN, R84. -/
  | imin (d a b : Opnd)
  /-- IMIN.x, R84. -/
  | iminX (x : Ext)
  /-- IMAX, R84. -/
  | imax (x : Ext)
  /-- AND, R87. -/
  | and (d a b : Opnd)
  /-- AND.x, R87. -/
  | andX (x : Ext)
  /-- ANDN, R87. -/
  | andn (x : Ext)
  /-- BFUN, R87. -/
  | bfun (x : Ext)
  /-- OR, R87. -/
  | or (d a b : Opnd)
  /-- OR.x, R87. -/
  | orX (x : Ext)
  /-- XOR, R87. -/
  | xor (d a b : Opnd)
  /-- XOR.x, R87. -/
  | xorX (x : Ext)
  /-- NOT, R87. -/
  | not (x : Ext)
  /-- SHL, R87. -/
  | shl (d a b : Opnd)
  /-- SHL.x, R87. -/
  | shlX (x : Ext)
  /-- SHL64, R87. -/
  | shl64 (x : Ext)
  /-- SHR, R87. -/
  | shr (d a b : Opnd)
  /-- SHR.x, R87. -/
  | shrX (x : Ext)
  /-- SAR, R87. -/
  | sar (x : Ext)
  /-- SHR64, R87. -/
  | shr64 (x : Ext)
  /-- SAR64, R87. -/
  | sar64 (x : Ext)
  /-- ROTL, R87. -/
  | rotl (x : Ext)
  /-- FSHL, R87. -/
  | fshl (x : Ext)
  /-- FSHR, R87. -/
  | fshr (x : Ext)
  /-- BFX, R88. -/
  | bfx (d a b : Opnd)
  /-- BFX.x, R88. -/
  | bfxX (x : Ext)
  /-- BFI, R88. -/
  | bfi (x : Ext)
  /-- BMSK, R88. -/
  | bmsk (x : Ext)
  /-- POPC, R87. -/
  | popc (d a : Opnd)
  /-- POPC.x, R87. -/
  | popcX (x : Ext)
  /-- CLZ, R87. -/
  | clz (x : Ext)
  /-- CTZ, R87. -/
  | ctz (x : Ext)
  /-- BREV, R87. -/
  | brev (x : Ext)
  /-- BYTEP, R89. -/
  | bytep (x : Ext)
  /-- ICMP, R90. -/
  | icmp (d a b : Opnd)
  /-- ICMP.x, R90. -/
  | icmpX (x : Ext)
  /-- ICMP64, R90. -/
  | icmp64 (x : Ext)
  /-- PLOP, R90. -/
  | plop (x : Ext)
  /-- CVTI, R91. -/
  | cvti (x : Ext)
  /-- FADD, R93. -/
  | fadd (d a b : Opnd)
  /-- FADD.x, R93. -/
  | faddX (x : Ext)
  /-- FSUB, R93. -/
  | fsub (x : Ext)
  /-- FMUL, R93. -/
  | fmul (d a b : Opnd)
  /-- FMUL.x, R93. -/
  | fmulX (x : Ext)
  /-- FFMA, R93. -/
  | ffma (d a b : Opnd)
  /-- FFMA.x, R93. -/
  | ffmaX (x : Ext)
  /-- FMIN, R94. -/
  | fmin (d a b : Opnd)
  /-- FMIN.x, R94. -/
  | fminX (x : Ext)
  /-- FMAX, R94. -/
  | fmax (x : Ext)
  /-- FMINN, R94. -/
  | fminn (x : Ext)
  /-- FMAXN, R94. -/
  | fmaxn (x : Ext)
  /-- FCMP, R95. -/
  | fcmp (d a b : Opnd)
  /-- FCMP.x, R95. -/
  | fcmpX (x : Ext)
  /-- FCLASS, R96. -/
  | fclass (x : Ext)
  /-- FCVT, R97. -/
  | fcvt (x : Ext)
  /-- FCVTI, R97. -/
  | fcvti (x : Ext)
  /-- ICVTF, R97. -/
  | icvtf (x : Ext)
  /-- FRND, R97. -/
  | frnd (x : Ext)
  /-- FSCALE, R97. -/
  | fscale (x : Ext)
  /-- FRCP, R98. -/
  | frcp (d a : Opnd)
  /-- FRCP.x, R98. -/
  | frcpX (x : Ext)
  /-- FRSQ, R98. -/
  | frsq (x : Ext)
  /-- FSQRT, R98. -/
  | fsqrt (x : Ext)
  /-- FEX2, R98. -/
  | fex2 (x : Ext)
  /-- FLG2, R98. -/
  | flg2 (x : Ext)
  /-- FSIN, R98. -/
  | fsin (x : Ext)
  /-- FCOS, R98. -/
  | fcos (x : Ext)
  /-- FTANH, R98. -/
  | ftanh (x : Ext)
  /-- FDOT2, R99. -/
  | fdot2 (x : Ext)
  /-- FMA2, R99. -/
  | fma2 (x : Ext)
  /-- FADD2, R99. -/
  | fadd2 (x : Ext)
  /-- FMUL2, R99. -/
  | fmul2 (x : Ext)
  /-- DOT4, R99. -/
  | dot4 (x : Ext)
  /-- BRA, R101. -/
  | bra (off : BitVec 16)
  /-- BRA.x, R101. -/
  | braX (x : Ext)
  /-- BRC, R101. -/
  | brc (d : Opnd) (off : BitVec 16)
  /-- BRC.x, R101. -/
  | brcX (x : Ext)
  /-- BRU, R101. -/
  | bru (d : Opnd) (off : BitVec 16)
  /-- BRU.x, R101. -/
  | bruX (x : Ext)
  /-- CALL, R102. -/
  | call (d : Opnd) (off : BitVec 16)
  /-- CALL.x, R102. -/
  | callX (x : Ext)
  /-- CALLI, R102. -/
  | calli (x : Ext)
  /-- RET, R102. -/
  | ret (x : Ext)
  /-- JMPI, R102. -/
  | jmpi (x : Ext)
  /-- LOOP, R104. -/
  | loop (x : Ext)
  /-- BRKL, R104. -/
  | brkl (x : Ext)
  /-- EXIT, R106. -/
  | exit
  /-- EXIT.x, R106. -/
  | exitX (x : Ext)
  /-- RFL, R129. -/
  | rfl (x : Ext)
  /-- SLEEP, R107. -/
  | sleep (a : Opnd)
  /-- SLEEP.x, R107. -/
  | sleepX (x : Ext)
  /-- SLEEPD, R107. -/
  | sleepd (x : Ext)
  /-- SLEEP_WAKE, R107. -/
  | sleepWake (gid : Nat)
  /-- TRAP, R108. -/
  | trap
  /-- TRAP.x, R108. -/
  | trapX (x : Ext)
  /-- TFENCE, R108. -/
  | tfence (x : Ext)
  /-- BKPT, R108. -/
  | bkpt (x : Ext)
  /-- RETT, R325. -/
  | rett (x : Ext)
  /-- MFS, R110. -/
  | mfs (d : Opnd)
  /-- MFS.x, R110. -/
  | mfsX (x : Ext)
  /-- MTS, R110. -/
  | mts (x : Ext)
  /-- IPF, R112. -/
  | ipf (a : Opnd)
  /-- IPF.x, R112. -/
  | ipfX (x : Ext)
  /-- FENCEI, R112. -/
  | fencei (x : Ext)
  /-- WFI, R113. -/
  | wfi (a : Opnd)
  /-- WFI.x, R113. -/
  | wfiX (x : Ext)
  /-- WFI_DEADLINE, R113. -/
  | wfiDeadline (gid : Nat)
  /-- TLBI, R114. -/
  | tlbi (a b : Opnd)
  /-- TLBI.x, R114. -/
  | tlbiX (x : Ext)
  /-- GENB, R114. -/
  | genb (x : Ext)
  /-- XACQ, R155. -/
  | xacq (d a : Opnd)
  /-- XACQ.x, R155. -/
  | xacqX (x : Ext)
  /-- XACQ_GRANT, R155. -/
  | xacqGrant (gid : Nat)
  /-- XREL, R156. -/
  | xrel (x : Ext)
  /-- XSHR, R156. -/
  | xshr (x : Ext)
  /-- OCLD, R157. -/
  | ocld (x : Ext)
  /-- OCINV, R157. -/
  | ocinv (x : Ext)
  /-- FESET, R158. -/
  | feset (x : Ext)
  /-- FECLR, R158. -/
  | feclr (x : Ext)
  /-- FEWAIT, R158. -/
  | fewait (x : Ext)
  /-- QXCH, R149. -/
  | qxch (d a : Opnd)
  /-- QXCH.x, R149. -/
  | qxchX (x : Ext)
  /-- QBC, R149. -/
  | qbc (x : Ext)
  /-- GSHF, R150. -/
  | gshf (d a b : Opnd)
  /-- GSHF.x, R150. -/
  | gshfX (x : Ext)
  /-- GSHFX, R150. -/
  | gshfx (x : Ext)
  /-- GSHFUP, R150. -/
  | gshfup (x : Ext)
  /-- GSHFDN, R150. -/
  | gshfdn (x : Ext)
  /-- GVOTE, R151. -/
  | gvote (d a : Opnd)
  /-- GVOTE.x, R151. -/
  | gvoteX (x : Ext)
  /-- GMATCH, R151. -/
  | gmatch (x : Ext)
  /-- GBCAST, R150. -/
  | gbcast (x : Ext)
  /-- GRED, R153. -/
  | gred (d a : Opnd)
  /-- GRED.x, R153. -/
  | gredX (x : Ext)
  /-- GSCAN, R153. -/
  | gscan (x : Ext)
  /-- GBAR, R160. -/
  | gbar
  /-- GBAR.x, R160. -/
  | gbarX (x : Ext)
  /-- GBARA, R160. -/
  | gbara (x : Ext)
  /-- GBARW, R160. -/
  | gbarw (x : Ext)
  /-- PHASE_COMPLETE, R161. -/
  | phaseComplete (die w : Nat)
  /-- BINIT, R164. -/
  | binit (a b : Opnd)
  /-- BINIT.x, R164. -/
  | binitX (x : Ext)
  /-- BARV, R164. -/
  | barv (x : Ext)
  /-- BWAIT, R165. -/
  | bwait (x : Ext)
  /-- BARW, R164. -/
  | barw (x : Ext)
  /-- BTEST, R164. -/
  | btest (x : Ext)
  /-- LD, R118. -/
  | ld (d a : Opnd)
  /-- LD.x, R118. -/
  | ldX (x : Ext)
  /-- LDS, R117. -/
  | lds (x : Ext)
  /-- LDW, R120. -/
  | ldw (x : Ext)
  /-- ST, R118. -/
  | st (a b : Opnd)
  /-- ST.x, R118. -/
  | stX (x : Ext)
  /-- STS, R117. -/
  | sts (x : Ext)
  /-- STW, R120. -/
  | stw (x : Ext)
  /-- LOAD_RETURN, R28. -/
  | loadReturn (id : Nat) (dev : Option (BitVec 128))
  /-- STORE_ACK, R230. -/
  | storeAck (id : Nat)
  /-- AADD, R253. -/
  | aadd (d a b : Opnd)
  /-- AADD.x, R253. -/
  | aaddX (x : Ext)
  /-- AMIN, R253. -/
  | amin (x : Ext)
  /-- AMAX, R253. -/
  | amax (x : Ext)
  /-- AAND, R253. -/
  | aand (x : Ext)
  /-- AOR, R253. -/
  | aor (x : Ext)
  /-- AXOR, R253. -/
  | axor (x : Ext)
  /-- AXCH, R253. -/
  | axch (x : Ext)
  /-- ACAS, R253. -/
  | acas (x : Ext)
  /-- AINC, R253. -/
  | ainc (x : Ext)
  /-- ADEC, R253. -/
  | adec (x : Ext)
  /-- AFADD, R253. -/
  | afadd (x : Ext)
  /-- AFMIN, R253. -/
  | afmin (x : Ext)
  /-- AFMAX, R253. -/
  | afmax (x : Ext)
  /-- ATOMIC_RETURN, R256. -/
  | atomicReturn (id : Nat)
  /-- QNT_APPLY, R242. -/
  | qntApply (id : Nat)
  /-- FENCE, R262. -/
  | fence
  /-- FENCE.x, R262. -/
  | fenceX (x : Ext)
  /-- PREF, R264. -/
  | pref (x : Ext)
  /-- CINV, R265. -/
  | cinv (x : Ext)
  /-- CWB, R266. -/
  | cwb (x : Ext)
  /-- CPIN, R267. -/
  | cpin (x : Ext)
  /-- CUNPIN, R268. -/
  | cunpin (x : Ext)
  /-- LOCKET_FADE, R221. -/
  | locketFade (die w : Nat)
  /-- MMA, R176. -/
  | mma (x : Ext)
  /-- MMAQ, R176. -/
  | mmaq (x : Ext)
  /-- MMAI, R176. -/
  | mmai (x : Ext)
  /-- PASS_START, R181. -/
  | passStart (id : Nat)
  /-- ACZ, R183. -/
  | acz (x : Ext)
  /-- ACLD, R183. -/
  | acld (x : Ext)
  /-- ACMOV, R183. -/
  | acmov (x : Ext)
  /-- ACST, R187. -/
  | acst (x : Ext)
  /-- ALUT, R185. -/
  | alut (x : Ext)
  /-- OSOPEN, R191. -/
  | osopen (d a b : Opnd)
  /-- OSOPEN.x, R191. -/
  | osopenX (x : Ext)
  /-- OSSUB, R191. -/
  | ossub (x : Ext)
  /-- OSCLOSE, R191. -/
  | osclose (x : Ext)
  /-- STREAM_TILE_READ, R193. -/
  | streamTileRead (die slot t : Nat)
  /-- ASPILL, R194. -/
  | aspill (x : Ext)
  /-- AFILL, R194. -/
  | afill (x : Ext)
  /-- AOWN, R194. -/
  | aown (x : Ext)
  /-- CQADV, R282. -/
  | cqadv (d a b : Opnd)
  /-- CQADV.x, R282. -/
  | cqadvX (x : Ext)
  /-- BATCH_DECISION, R282. -/
  | batchDecision (cid q : Nat)
  /-- CQWAIT, R289. -/
  | cqwait (x : Ext)
  /-- CQSEQ, R289. -/
  | cqseq (x : Ext)
  /-- DCWAIT, R290. -/
  | dcwait (x : Ext)
  /-- TREADY, R292. -/
  | tready (x : Ext)
  /-- CQPUT, R281. -/
  | cqput (x : Ext)
  /-- ENTRY_BEGIN, R291. -/
  | entryBegin (cid q : Nat)
  /-- ENTRY_COMPLETE, R288. -/
  | entryComplete (cid q : Nat)
  /-- ENGINE_WINDOW_WRITE, R294. -/
  | engineWindowWrite (cid q : Nat)
  /-- QUEUE_HALT, R298. -/
  | queueHalt (cid q : Nat) (cause : BitVec 8) (addr : DWord)
  /-- PROMISE_MISS, R296. -/
  | promiseMiss (cid q : Nat)
  /-- QSTAT_CLRC, R276. -/
  | qstatClrc (cid q : Nat)
  /-- QSTAT_HALT_CLEAR, R276. -/
  | qstatHaltClear (cid q : Nat)
  /-- DEFERRED_REPORT, R328. -/
  | deferredReport (gid : Nat)
  /-- STEP, R335. -/
  | step (gid : Nat)
  /-- PROMISE_MISSED, R296. -/
  | promiseMissed (gid : Nat)
  /-- WATCHDOG, R337. -/
  | watchdog (gid : Nat)
  /-- PREEMPT, R352. -/
  | preempt (gid : Nat)
  /-- BREAKPOINT, R336. -/
  | breakpoint (gid : Nat)
  /-- INTEGRITY, R388. -/
  | integrity (gid : Nat) (pa : DWord)
  /-- WALK_RESULT, R331. -/
  | walkResult (die idx : Nat)
  /-- HOME_PERFORM, R238. -/
  | homePerform (id : Nat)
  /-- STAMP_ANNOUNCEMENT, R238. -/
  | stampAnnouncement (src dst : Nat)
  /-- REFRESH, R218. -/
  | refresh (die ch : Nat) (act : RefreshAct)
  /-- HOT_ROW_WINDOW_END, R219. -/
  | hotRowWindowEnd (die : Nat)
  /-- CLEAR_SWEEP, R225. -/
  | clearSweep (die line : Nat)
  /-- SCRUB, R390. -/
  | scrub (die : Nat) (pa : DWord) (res : ScrubResult)
  /-- FLIT_RETRY, R359. -/
  | flitRetry (die port : Nat)
  /-- LINK_FAILOVER, R364. -/
  | linkFailover (die port : Nat)
  /-- WRITE_ACK, R363. -/
  | writeAck (src home : Nat) (num : BitVec 24)
  /-- INBOUND_POSTED_WRITE, R365. -/
  | inboundPostedWrite (q : Tlp) (data : List Byte)
  /-- INBOUND_READ, R366. -/
  | inboundRead (q : Tlp) (len : Nat)
  /-- ATS_TRANSLATION_REQUEST, R305. -/
  | atsTranslationRequest (q : Tlp)
  /-- ATS_INVALIDATION_COMPLETION, R306. -/
  | atsInvalidationCompletion (port : Nat) (rid : BitVec 16)
  /-- ATS_INVALIDATION_TIMEOUT, R306. -/
  | atsInvalidationTimeout (port : Nat) (rid : BitVec 16)
  /-- PAGE_REQUEST, R307. -/
  | pageRequest (q : Tlp) (rd wr last : Bool) (prg : BitVec 9)
  /-- PRGRSP, R307. -/
  | prgrsp (io : Nat) (v : DWord)
  /-- COMPLETION_TIMEOUT, R301. -/
  | completionTimeout (id : Nat)
  /-- INTX_MESSAGE, R299. -/
  | intxMessage (port : Nat)
  /-- PTM_REQUEST, R318. -/
  | ptmRequest (port : Nat)
  /-- IDE_CHECK_FAILURE, R318. -/
  | ideCheckFailure (q : Tlp)
  /-- SURPRISE_REMOVAL, R311. -/
  | surpriseRemoval (port : Nat)
  /-- BEZEL_STORE, R310. -/
  | bezelStore (id : Nat)
  /-- CLASP_BARRIER_ARRIVAL, R313. -/
  | claspBarrierArrival (io : Nat)
  /-- CLASP_COUNTER_ADD, R313. -/
  | claspCounterAdd (io : Nat)
  /-- CLASP_INTERRUPT, R313. -/
  | claspInterrupt (io : Nat)
  /-- WAKE, R317. -/
  | wake (cid : Nat)
  /-- REMOTE_WRITE, R370. -/
  | remoteWrite (r : RemoteTlp) (data : List Byte)
  /-- REMOTE_WRITE_ACK, R370. -/
  | remoteWriteAck (id : Nat) (ok : Bool)
  /-- RWREV, R371. -/
  | rwrev (io : Nat) (w : BitVec 12)
  /-- REDUCTION_CONTRIBUTION, R372. -/
  | reductionContribution (r : RemoteTlp) (data : List Byte)
  /-- REDUCTION_TIMEOUT, R372. -/
  | reductionTimeout (idx : Nat)
  /-- LAUNCH, R344. -/
  | launch (cid : Nat) (tail : DWord)
  /-- LAUNCH_COPY, R344. -/
  | launchCopy (vdev : Nat)
  /-- DEPENDENCE_POLL, R345. -/
  | dependencePoll (seq : Nat)
  /-- PLACE_GANG, R347. -/
  | placeGang (die seq : Nat)
  /-- CHUNK_ARRIVAL, R127. -/
  | chunkArrival (wg : Nat)
  /-- STEAL_MESSAGE, R346. -/
  | stealMessage (seq asker : Nat)
  /-- STEAL_ANSWER, R346. -/
  | stealAnswer (seq asker : Nat)
  /-- GROUP_RELEASE, R134. -/
  | groupRelease (gid : Nat)
  /-- LAUNCH_COMPLETE, R345. -/
  | launchComplete (seq : Nat)
  /-- TURN_END, R348. -/
  | turnEnd (die : Nat)
  /-- GANG_SAVE, R350. -/
  | gangSave (gang : Nat)
  /-- GANG_RESTORE, R351. -/
  | gangRestore (gang : Nat)
  /-- VDRESET, R355. -/
  | vdreset (die v : Nat)
  /-- CLRSIZE, R225. -/
  | clrsize (die : Nat) (size : DWord)
  /-- CECNT_READ, R398. -/
  | cecntRead (die off width : Nat)
  /-- REGISTER_WRITE, R400. -/
  | registerWrite (addr : DWord) (width : Nat) (val : BitVec 128) (level : Nat)
  /-- CREATE, R380. -/
  | create
  /-- ADMIT, R384. -/
  | admitCall
  /-- RELEASE, R379. -/
  | release
  /-- WAYS, R386. -/
  | ways
  /-- ATTEST, R391. -/
  | attest
  /-- DESTROY, R380. -/
  | destroy
  /-- IDEKEY, R379. -/
  | idekey
  /-- ENTER, R381. -/
  | enter
  /-- COLD_RESET, R392. -/
  | coldReset (r : Boot)
  /-- WARM_RESET, R393. -/
  | warmReset (r : Boot)
  /-- THROTTLE_CHECK, R396. -/
  | throttleCheck (die power junction stack : Nat)
  /-- THERMAL_TRIP, R397. -/
  | thermalTrip (die : Nat)
  /-- PTM_CORRECTION, R394. -/
  | ptmCorrection (ahead : Int)
  /-- STANDBY_SUPPLY_APPLIED, R398. -/
  | standbySupplyApplied (die : Nat)
  /-- GENB_COMPLETION, R223. -/
  | genbCompletion (gid : Nat)
  /-- DISTRIBUTOR_REPLY, R190. -/
  | distributorReply (id : Nat)
  deriving DecidableEq, Repr

end Sys2Proof
end

