-- ==== Sys2Proof/Machine/Legal.lean ====
section
/-!
DEFINITION. Which field values an instruction accepts: operand roles (03 R40, R48), types and immediates (R44 and the form tables of
each chapter), rounding, saturation, policy and dead bits (R41, R42, R51).
A form is named by its major and minor opcode; the rules are stated on the extended form, since a base word is one (01 R12).
-/

namespace Sys2Proof

/-- The code of a special source, 01 R9. -/
def SpecialReg.code : SpecialReg → Nat
  | .lane => 0xD0 | .quad => 0xD1 | .item => 0xD2 | .itemy => 0xD3 | .itemz => 0xD4 | .grp => 0xD5 | .wg => 0xD6 | .gang => 0xD7
  | .core => 0xD8 | .die => 0xD9 | .clk => 0xDA | .clkh => 0xDB | .amask => 0xDC | .pcv => 0xDD | .gen => 0xDE | .zero => 0xDF

/-- The special source of a code 0xD0 to 0xDF. -/
def SpecialReg.ofCode : Nat → SpecialReg
  | 0xD0 => .lane | 0xD1 => .quad | 0xD2 => .item | 0xD3 => .itemy | 0xD4 => .itemz | 0xD5 => .grp | 0xD6 => .wg | 0xD7 => .gang
  | 0xD8 => .core | 0xD9 => .die | 0xDA => .clk | 0xDB => .clkh | 0xDC => .amask | 0xDD => .pcv | 0xDE => .gen | _ => .zero

/-- The specifier code of an operand, 01 R9. -/
def Opnd.code : Opnd → Nat
  | .v n => n.val
  | .oc n => 0xC0 + n.val
  | .la n => 0xC8 + n.val
  | .lc n => 0xCC + n.val
  | .sp r => r.code
  | .imm k => 0xE0 + k.val
  | .none => 0xFE
  | .lit => 0xFF

/-- The operand of a specifier code; 0xF0 to 0xFD name none (R51 item 4). -/
def Opnd.ofCode (c : Nat) : Option Opnd :=
  if h : c < 192 then some (.v ⟨c, h⟩)
  else if c < 0xC8 then some (.oc (Fin.ofNat 8 (c - 0xC0)))
  else if c < 0xCC then some (.la (Fin.ofNat 4 (c - 0xC8)))
  else if c < 0xD0 then some (.lc (Fin.ofNat 4 (c - 0xCC)))
  else if c < 0xE0 then some (.sp (SpecialReg.ofCode c))
  else if c < 0xF0 then some (.imm (Fin.ofNat 16 (c - 0xE0)))
  else if c = 0xFE then some .none
  else if c = 0xFF then some .lit
  else Option.none

/-- The value of a small constant: code - 0xE8, 01 R9. -/
def immValue (k : Fin 16) : Int := (k.val : Int) - 8

/-- The roles of R40, with the narrower ones the form tables name. -/
inductive Role where
  /-- unused: 0xFE. -/
  | un
  /-- 32-bit and 64-bit source. -/
  | s32 | s64
  /-- 32-bit and 64-bit destination. -/
  | d32 | d64
  /-- register quad. -/
  | quad
  /-- predicate. -/
  | pr
  /-- a tile, 0x00 or 0x01. -/
  | tile
  /-- a register number that is not read, 0x00 to 0xBF. -/
  | reg
  /-- a vector register that is read whole or through an index. -/
  | vreg
  /-- lane source of 32 or 64 bits, 08 R145. -/
  | l32 | l64
  /-- an operand-cache slot; or 0xFE. -/
  | slot | slotN
  /-- a loop counter. -/
  | ctr
  /-- a 32-bit source or 0xFE. -/
  | s32N
  deriving DecidableEq, Repr

/-- The operands a role accepts, R40. -/
def Role.ok : Role → Opnd → Bool
  | .un, .none => true
  | .s32, .none => false
  | .s32, _ => true
  | .s32N, _ => true
  | .s64, .v n => n.val % 2 == 0
  | .s64, .la _ | .s64, .sp _ | .s64, .imm _ | .s64, .lit => true
  | .d32, .v _ | .d32, .lc _ | .d32, .none => true
  | .d64, .v n => n.val % 2 == 0
  | .d64, .none => true
  | .quad, .v n => n.val % 4 == 0
  | .pr, .v n => decide (n.val < 8)
  | .tile, .v n => decide (n.val < 2)
  | .reg, .v _ | .vreg, .v _ => true
  | .l32, .v _ | .l32, .oc _ => true
  | .l64, .v n => n.val % 2 == 0
  | .slot, .oc _ => true
  | .slotN, .oc _ | .slotN, .none => true
  | .ctr, .lc _ => true
  | _, _ => false

/-- The role reads a vector register when its operand names one: policy and dead bits stand only there (R29, R30). -/
def Role.reads : Role → Bool
  | .s32 | .s64 | .quad | .vreg | .l32 | .l64 | .s32N => true
  | _ => false

/-- The registers that an operand of a role names when it names one. -/
def Role.regs : Role → Nat
  | .s64 | .l64 | .d64 => 2
  | .quad => 4
  | .s32 | .s32N | .l32 | .d32 | .vreg => 1
  | _ => 0

/-- A type of 64 bits, R76. -/
def Ty.wide : Ty → Bool
  | .s64 | .u64 | .f64 => true
  | _ => false
def Ty.isInt : Ty → Bool
  | .s8 | .u8 | .s16 | .u16 | .s32 | .u32 | .s64 | .u64 => true
  | _ => false
def Ty.isFloat : Ty → Bool
  | .f64 | .f32 | .f16 | .bf16 | .e4m3 | .e5m2 => true
  | _ => false

/-- The source or destination role of a type's width. -/
def Ty.src (t : Ty) : Role := if t.wide then .s64 else .s32
def Ty.dst (t : Ty) : Role := if t.wide then .d64 else .d32
/-- The roles of an access width, R48. -/
def Wid.src : Wid → Role
  | .b64 => .s64 | .b128 => .quad | _ => .s32
def Wid.dst : Wid → Role
  | .b64 => .d64 | .b128 => .quad | _ => .d32
/-- The bytes of a width, R46. -/
def Wid.bytes : Wid → Nat
  | .b8 => 1 | .b16 => 2 | .b32 => 4 | .b64 => 8 | .b128 => 16

/-- Which rounding modes a form accepts, R41. -/
inductive RndOk where
  | rneOnly | all | sfu
  deriving DecidableEq, Repr

/-- What a form accepts: the roles of D, A, B, C, rounding and saturation (R41), and the verdict on Word 2. -/
structure Form where
  d : Role
  a : Role
  b : Role
  c : Role
  rnd : RndOk
  sat : Bool
  w2 : Bool
  deriving DecidableEq, Repr

/-- The types of 05 R83 called 8-32, with code 0. -/
def tyInt32 : Ty → Bool
  | .dflt | .s8 | .u8 | .s16 | .u16 | .s32 | .u32 => true
  | _ => false
/-- Code 0, .s32 and .u32. -/
def tyS32U32 : Ty → Bool
  | .dflt | .s32 | .u32 => true
  | _ => false
/-- Code 0 and the signed types of at most 32 bits. -/
def tySigned : Ty → Bool
  | .dflt | .s8 | .s16 | .s32 => true
  | _ => false
/-- Code 0 and the four wide formats of 05 R92. -/
def tyFloat : Ty → Bool
  | .dflt | .f64 | .f32 | .f16 | .bf16 => true
  | _ => false
/-- Code 0 and every format. -/
def tyFloatAny (t : Ty) : Bool := t == .dflt || t.isFloat

/-- The forms of layout T, by major and minor opcode: roles and the verdict on IMM, DTY and STY. -/
def formT (maj min : Nat) (c : Opnd) (imm : Nat) (sty dty : Ty) : Option Form :=
  let z := dty == .dflt && sty == .dflt
  let i0 := imm == 0
  let f (d a b cc : Role) (w2 : Bool) : Option Form := some ⟨d, a, b, cc, .rneOnly, false, w2⟩
  let fs (d a b cc : Role) (w2 : Bool) : Option Form := some ⟨d, a, b, cc, .rneOnly, true, w2⟩
  let fr (d a b cc : Role) (w2 : Bool) : Option Form := some ⟨d, a, b, cc, .all, false, w2⟩
  let frs (d a b cc : Role) (w2 : Bool) : Option Form := some ⟨d, a, b, cc, .all, true, w2⟩
  let lane : Role := if dty.wide then .l64 else .l32
  let u64 := (dty == .dflt || dty == .s32 || dty == .u64) && sty == .dflt
  let sp : Role := if bitAt imm 4 then .s32 else .s64
  match maj, min with
  | 0x01, 0 | 0x01, 1 => f .un .un .un .un (z && i0)
  | 0x02, 0 => f .d32 .s32 .un .un (z && i0)
  | 0x02, 1 => f .d32 .s32 .s32 .un (z && decide (imm < 16))
  | 0x02, 2 => f .d64 .s64 .un .un (z && i0)
  | 0x02, 3 => f .d32 .vreg .s32 .un (z && i0)
  | 0x02, 4 => f .reg .s32 .s32 .un (z && i0)
  | 0x03, 0 | 0x04, 0 => fs .d32 .s32 .s32 .un (tyInt32 dty && sty == .dflt && i0)
  | 0x03, 1 | 0x04, 1 => f .d64 .s64 .s64 .un (z && i0)
  | 0x03, 2 => f .d64 .s64 .s32 .un (tyS32U32 dty && sty == .dflt && decide (imm < 8))
  | 0x03, 3 | 0x03, 4 => fs .d32 .s32 .s32 .un (z && decide (imm < 128) && (!bitAt imm 3 || imm % 8 == 0))
  | 0x04, 2 | 0x04, 3 => f .d32 .s32 .un .un (tySigned dty && sty == .dflt && i0)
  | 0x05, 0 | 0x06, 0 | 0x06, 1 => f .d32 .s32 .s32 .un (tyInt32 dty && sty == .dflt && i0)
  | 0x05, 1 => f .d32 .s32 .s32 .un (tyS32U32 dty && sty == .dflt && i0)
  | 0x05, 2 => f .d64 .s32 .s32 .un (tyS32U32 dty && sty == .dflt && i0)
  | 0x05, 3 => fs .d32 .s32 .s32 .s32 (tyInt32 dty && sty == .dflt && i0)
  | 0x05, 4 => f .d64 .s32 .s32 .s64 (tyS32U32 dty && sty == .dflt && i0)
  | 0x05, 5 => f .d64 .s64 .s64 .s64 (z && i0)
  | 0x07, 0 | 0x07, 1 | 0x08, 0 | 0x09, 0 | 0x0A, 0 | 0x0B, 0 | 0x0B, 1 | 0x0B, 4 => f .d32 .s32 .s32 .un (z && i0)
  | 0x07, 2 => f .d32 .s32 .s32 .s32 (z && decide (imm < 256))
  | 0x09, 1 | 0x0C, 2 | 0x0D, 0 | 0x0D, 1 | 0x0D, 2 | 0x0D, 3 => f .d32 .s32 .un .un (z && i0)
  | 0x0A, 1 | 0x0B, 2 | 0x0B, 3 => f .d64 .s64 .s32 .un (z && i0)
  | 0x0B, 5 | 0x0B, 6 | 0x0C, 1 | 0x0D, 4 => f .d32 .s32 .s32 .s32 (z && i0)
  | 0x0C, 0 => f .d32 .s32 .s32 .un ((dty == .dflt || dty == .u32) && sty == .dflt && i0)
  | 0x0E, 0 => f .pr .s32 .s32 .un (tyInt32 dty && sty == .dflt && decide (imm < 6))
  | 0x0E, 1 => f .pr .s64 .s64 .un ((dty == .dflt || dty == .s64 || dty == .u64) && sty == .dflt && decide (imm < 6))
  | 0x0E, 2 => f .pr .pr .pr .pr (z && decide (imm < 256))
  | 0x0F, 0 => fs dty.dst sty.src .un .un (dty.isInt && sty.isInt && i0)
  | 0x10, 0 | 0x10, 1 | 0x11, 0 => fr dty.dst dty.src dty.src .un (tyFloat dty && sty == .dflt && i0)
  | 0x12, 0 => fr dty.dst dty.src dty.src (if c == .none then .un else dty.src) (tyFloat dty && sty == .dflt && i0)
  | 0x13, 0 | 0x13, 1 | 0x13, 2 | 0x13, 3 => f dty.dst dty.src dty.src .un (tyFloat dty && sty == .dflt && i0)
  | 0x14, 0 => f .pr dty.src dty.src .un (tyFloatAny dty && sty == .dflt && decide (imm < 6))
  | 0x14, 1 => f .pr dty.src .s32 .un (tyFloatAny dty && sty == .dflt && i0)
  | 0x15, 0 => frs dty.dst sty.src .un .un (dty.isFloat && sty.isFloat && i0)
  | 0x15, 1 => frs dty.dst sty.src .un .un (dty.isInt && sty.isFloat && i0)
  | 0x15, 2 => frs dty.dst sty.src .un .un (dty.isFloat && sty.isInt && i0)
  | 0x15, 3 => frs dty.dst dty.src .un .un (tyFloat dty && sty == .dflt && i0)
  | 0x15, 4 => frs dty.dst dty.src .s32 .un (tyFloat dty && sty == .dflt && i0)
  | 0x16, 0 | 0x16, 1 | 0x16, 2 | 0x16, 3 | 0x16, 4 | 0x16, 5 | 0x16, 6 | 0x16, 7 =>
    some ⟨.d32, .s32, .un, .un, .sfu, false, (dty == .dflt || dty == .f32) && sty == .dflt && i0⟩
  | 0x17, 0 => fr .d32 .s32 .s32 .s32 ((dty == .dflt || dty == .f32) && (sty == .bf16 || sty == .f16) && i0)
  | 0x17, 1 => fr .d32 .s32 .s32 .s32 ((dty == .dflt || dty == .bf16 || dty == .f16) && sty == .dflt && i0)
  | 0x17, 2 | 0x17, 3 => fr .d32 .s32 .s32 .un ((dty == .dflt || dty == .bf16 || dty == .f16) && sty == .dflt && i0)
  | 0x18, 0 => fs .d32 .s32 .s32 .s32 ((dty == .dflt || dty == .s32) && sty == .dflt && decide (imm < 4))
  | 0x25, 0 | 0x25, 1 => f .un .un .un .un (z && i0)
  | 0x26, 0 => f .un .s32 .un .un (z && i0)
  | 0x26, 1 => f .un .s64 .un .un (z && i0)
  | 0x27, 0 | 0x27, 2 => f .un .un .un .un z
  | 0x27, 1 | 0x27, 3 => f .un .un .un .un (z && i0)
  | 0x29, 0 => f .un .s64 .un .un (z && decide (imm < 3))
  | 0x29, 1 => f .un .un .un .un (z && i0)
  | 0x2A, 0 => f .un .s64 .un .un (z && i0)
  | 0x2B, 0 => f .un (if imm == 0 then .s64 else .un) .s32 .un (z && decide (imm < 3))
  | 0x2B, 1 => f .d32 .s32 .un .un (z && i0)
  | 0x2C, 0 | 0x2C, 2 => f .d32 .s32 .un .un (z && i0)
  | 0x2C, 1 => f .un .un .un .un (z && i0)
  | 0x2C, 3 => f .slot .vreg .un .un (z && i0)
  | 0x2C, 4 => f .slotN .un .un .un (z && i0)
  | 0x2C, 5 | 0x2C, 6 | 0x2C, 7 => f .reg .un .un .un (z && decide (imm < 64))
  | 0x30, 0 => f dty.dst lane .un .un (u64 && decide (imm < 256))
  | 0x30, 1 => f dty.dst lane .s32 .un (u64 && i0)
  | 0x31, 0 | 0x31, 1 | 0x31, 2 | 0x31, 3 | 0x32, 2 => f dty.dst lane .s32 .s32N (u64 && i0)
  | 0x32, 0 => f .d32 .s32 .un .s32N (z && decide (imm < 4))
  | 0x32, 1 => f .d32 dty.src .un .s32N (u64 && i0)
  | 0x33, 0 | 0x33, 1 =>
    f dty.dst dty.src .un .s32N (sty == .dflt && (((dty == .dflt || dty.isInt) && decide (imm < 6)) ||
      ((dty == .f64 || dty == .f32 || dty == .f16 || dty == .bf16) && decide (imm < 3))))
  | 0x34, 0 | 0x34, 1 | 0x34, 2 => f .un .un .un .un (z && i0)
  | 0x35, 0 => f .un .s32 (if imm == 1 then .un else .s32) .un (z && decide (imm < 2))
  | 0x35, 1 | 0x35, 3 | 0x35, 4 => f .d32 .s32 .s32 .un (z && i0)
  | 0x35, 2 => f .un .s32 .s32 .un (z && i0)
  | 0x3C, 3 => f .tile .un .un .un ((dty == .dflt || dty == .f32 || dty == .s32) && sty == .dflt && i0)
  | 0x3C, 4 => f .tile sp .un .un ((dty == .dflt || dty == .f32 || dty == .s32) && sty == .dflt && (i0 || imm == 16))
  | 0x3C, 5 =>
    frs .tile sp (if dty == .dflt then .un else .s32) (if bitAt imm 0 then .l32 else .un)
      ((dty == .dflt || dty == .e4m3 || dty == .e5m2 || dty == .bf16 || dty == .f16 || dty == .s8 || dty == .u8 || dty == .f32)
        && sty == .dflt && imm / 64 % 4 == 0 && (!(dty == .dflt) || decide (imm < 256)))
  | 0x3C, 6 => f .un .s64 .un .un (z && decide (imm < 4))
  | 0x3C, 7 => f .reg .tile .un .un (z && decide (imm < 1024) && decide (imm % 32 + (imm / 32 + 1) ≤ 32))
  | 0x3D, 0 => f .d32 .s64 .s32 .un (z && i0)
  | 0x3D, 1 => f .d32 .s32 (if bitAt imm 4 then .s32 else .un) .un (z && decide (imm ≤ 16))
  | 0x3D, 2 => f .un .s32 .un .un (z && decide (imm < 2))
  | 0x3D, 3 | 0x3D, 4 => f .un .s64 .s32 .un (z && i0)
  | 0x3D, 5 => f .un .s32 .un .un (z && decide (imm < 2))
  | 0x3E, 0 => f .d64 .s32 .s32 .un (z && decide (imm < 8))
  | 0x3E, 1 => f .d64 .s32 .s32 .un (z && i0)
  | 0x3E, 2 => f .d64 .s32 .un .un (z && decide (imm < 2))
  | 0x3E, 3 => f .un .s32 .un .un (z && decide (imm < 4))
  | 0x3E, 4 => f .un .s32 .un .un (z && decide (imm < 2))
  | 0x3E, 5 => f .un .s32 .s64 .quad (z && i0)
  | _, _ => none

/-- The system-register numbers the manual assigns; any other traps ILLEGAL (06 R110). -/
def sysregAssigned (n : Nat) : Bool :=
  n ≤ 1 || (0x10 ≤ n && n ≤ 0x1A) || (0x20 ≤ n && n ≤ 0x23) || (0x30 ≤ n && n ≤ 0x33) || n == 0x38 || n == 0x39 ||
  (0x100 ≤ n && n ≤ 0x14B) || n == 0x150 || n == 0x160 || n == 0x170 || n == 0x180 || n == 0x1A0 || (0x1C0 ≤ n && n ≤ 0x201) ||
  (0x208 ≤ n && n ≤ 0x20F)

/-- The forms of layout W. `l3`, `l1`: the instruction is five words long, or has a literal behind a base word. -/
def formW (maj min : Nat) (hasLit : Bool) (val : Nat) : Option Form :=
  let f (d a : Role) (w2 : Bool) : Option Form := some ⟨d, a, .un, .un, .rneOnly, false, w2⟩
  let rel := !hasLit || val == 0
  match maj, min with
  | 0x20, 0 => f .un .un rel
  | 0x21, 0 | 0x22, 0 => f .s32 .un rel
  | 0x23, 0 => f .d64 .un rel
  | 0x23, 1 => f .d64 .s64 (val == 0)
  | 0x23, 2 | 0x23, 3 => f .un .s64 (val == 0)
  | 0x24, 0 => f .ctr .s32 (!hasLit && decide (3 ≤ toSigned 32 val))
  | 0x24, 1 => f .ctr .un rel
  | 0x28, 0 => f .d64 .un (sysregAssigned val)
  | 0x28, 1 => f .un .s64 (sysregAssigned val)
  | _, _ => none

/-- The types of an atomic: WID and CLS together, 13 R254. -/
def atomTy (min : Nat) (wid : Wid) (cls : Cls) : Option Ty :=
  if min ≤ 7 then
    match wid, cls with
    | .b32, .ca => some .s32 | .b32, .cb => some .u32 | .b64, .ca => some .s64 | .b64, .cb => some .u64 | _, _ => none
  else if min ≤ 9 then
    match wid, cls with
    | .b32, .cb => some .u32 | .b64, .cb => some .u64 | _, _ => none
  else
    match wid, cls with
    | .b32, .ca => some .f32 | .b64, .ca => some .f64 | .b16, .ca => some .bf16 | .b16, .cb => some .f16 | _, _ => none

/-- The operations that accept a declared use, 12 R241. -/
def useOk (min : Nat) (d : Opnd) : Use → Bool
  | .none | .unp | .nord => true
  | .com => min ≤ 5 || decide (10 ≤ min)
  | .qnt => (min ≤ 5 || decide (10 ≤ min)) && d == .none
  | .spec => (1 ≤ min && min ≤ 4) || decide (11 ≤ min)

/-- The scopes of LDS and STS, 06 R117. -/
def scopeLocal : Scope → Bool
  | .grp | .qd | .wg | .core | .gang => true
  | _ => false

/-- The forms of layout M. -/
def formM (maj min : Nat) (d : Opnd) (scope : Scope) (use : Use) (ord : Ord) (cls : Cls) (wid : Wid) (off : BitVec 18) : Option Form :=
  let f (dd a b c : Role) (w2 : Bool) : Option Form := some ⟨dd, a, b, c, .rneOnly, false, w2⟩
  let ld := use == .none && (ord == .rlx || ord == .acq)
  let st := use == .none && (ord == .rlx || ord == .rel)
  let plain := use == .none && ord == .rlx && wid == .b32
  match maj, min with
  | 0x38, 0 => f wid.dst .s64 .un .un ld
  | 0x38, 1 => f wid.dst .s32 .un .un (ld && cls == .ca && scopeLocal scope)
  | 0x38, 2 => f wid.dst .s64 .un .un (ld && cls == .ca)
  | 0x39, 0 => f .un .s64 wid.src .un st
  | 0x39, 1 => f .un .s32 wid.src .un (st && cls == .ca && scopeLocal scope)
  | 0x39, 2 => f .un .s64 wid.src .un (st && cls == .ca)
  | 0x3A, m =>
    if m ≤ 12 then
      f wid.dst .s64 wid.src (if m == 7 then wid.src else .un)
        ((atomTy m wid cls).isSome && (use == .none || ord == .rlx) && useOk m d use)
    else none
  | 0x3B, 0 => f .un .un .un .un (use == .none && wid == .b32 && cls == .ca && off == 0)
  | 0x3B, 1 => f .un .s64 .un .un (plain && scope == .grp)
  | 0x3B, 2 =>
    f .un .s64 .un .un (plain && cls == .ca &&
      (scope == .core || scope == .gang || scope == .qdr || scope == .die || scope == .row || scope == .pkg))
  | 0x3B, 3 => f .un .s64 .un .un (plain && cls == .ca && (scope == .die || scope == .sys))
  | 0x3B, 4 => f .d32 .s64 .s32 .un (plain && cls == .ca && scope == .grp)
  | 0x3B, 5 => f .un .s32 .un .un (plain && cls == .ca && scope == .grp && off == 0)
  | _, _ => none

/-- A scale register of MMAQ: a vector register or a slot (R47). -/
def scaleOk : Opnd → Bool
  | .v _ | .oc _ => true
  | _ => false

/-- The forms of layout X. -/
def formX (min : Nat) (wsl : Fin 32) (bs sa sb afm bfm : Bool) (sca scw : Opnd) : Option Form :=
  let b : Role := if bs then .s32 else .s64
  let z := wsl == 0 && sca == .v 0 && scw == .v 0
  match min with
  | 0 => some ⟨.tile, .s64, b, .s32, .all, false, z && !sa && !sb⟩
  | 1 => some ⟨.tile, .s64, b, .s32, .all, false, !sa && !sb && scaleOk sca && scaleOk scw⟩
  | 2 => some ⟨.tile, .s64, b, .s32, .rneOnly, true, z && !afm && !bfm⟩
  | _ => none

/-- The form of an instruction, or none where its layout is not the one of R43 or the opcode is not assigned (R49). -/
def formOf (maj min : Nat) (x : Ext) : Option Form :=
  match x.w2 with
  | .t imm sty dty _ => formT maj min x.c imm.toNat sty dty
  | .w val => formW maj min x.lit.isSome val.toNat
  | .m scope use ord cls wid off => formM maj min x.d scope use ord cls wid off
  | .x wsl _ bs sa sb afm bfm sca scw => if maj = 0x3C then formX min wsl bs sa sb afm bfm sca scw else none

/-- The relative branches, whose literal is their offset (R39, R45). -/
def relBranch (maj min : Nat) : Bool :=
  maj == 0x20 || maj == 0x21 || maj == 0x22 || (maj == 0x23 && min == 0) || (maj == 0x24 && min == 1)

/-- MAJ has a base form, R50. -/
def hasBase (maj : Nat) : Bool :=
  !(maj == 0x0F || maj == 0x15 || maj == 0x17 || maj == 0x18 || maj == 0x24 || maj == 0x3C)

/-- RSRC, which is v0 unless RND takes random bits (R44). -/
def rsrcOk (x : Ext) : Bool :=
  match x.w2 with
  | .t _ _ _ r => if x.rnd == .rsr || x.rnd == .dyn then Role.s32.ok r else r == .v 0
  | _ => true

/-- A field reads the literal, R39. -/
def readsLit (x : Ext) : Bool :=
  x.d == .lit || x.a == .lit || x.b == .lit || x.c == .lit || (match x.w2 with | .t _ _ _ r => r == .lit | _ => false)

/-- The literal is present exactly when something reads it or it is a branch offset; then its low bits are 0 (R39, R45). -/
def litOk (maj min : Nat) (x : Ext) : Bool :=
  match x.lit with
  | none => !readsLit x && !x.short
  | some l => if relBranch maj min then !readsLit x && l.toNat % 4 == 0 else readsLit x

/-- A policy or dead bit stands only on a field that names a vector register (R29, R30). -/
def bitOk (b : Bool) (r : Role) (o : Opnd) : Bool :=
  !b || (r.reads && (match o with | .v _ => true | _ => false))

/-- A form behind a base word (LEN 01) has the implied Word 1 of 01 R12 and a Word 2 of zero. -/
def shortOk (maj min : Nat) (x : Ext) : Bool :=
  !x.short || (hasBase maj && min == 0 && x.c == .none && !x.fa && !x.fb && !x.fc && !x.da && !x.db && !x.dc && !x.uni && !x.sat &&
    x.rnd == .rne && x.pred == 7 && !x.pneg &&
    (match x.w2 with
     | .t imm sty dty r => imm == 0 && sty == .dflt && dty == .dflt && r == .v 0
     | .w v => v == 0
     | .m s u o c w off => s == .grp && u == .none && o == .rlx && c == .ca && w == .b32 && off == 0
     | .x .. => false))

/-- The whole of R51 on an extended or literal form. -/
def legalExt (maj min : Nat) (x : Ext) : Bool :=
  match formOf maj min x with
  | none => false
  | some f =>
    f.w2 && f.d.ok x.d && f.a.ok x.a && f.b.ok x.b && f.c.ok x.c &&
    bitOk x.fa f.a x.a && bitOk x.fb f.b x.b && bitOk x.fc f.c x.c && bitOk x.da f.a x.a && bitOk x.db f.b x.b && bitOk x.dc f.c x.c &&
    (!x.uni || (0x20 ≤ maj && maj ≤ 0x23)) &&
    (match f.rnd with | .rneOnly => x.rnd == .rne | .all => true | .sfu => x.rnd == .rne || x.rnd == .dyn) &&
    (!x.sat || f.sat) && rsrcOk x && litOk maj min x && shortOk maj min x &&
    (!(maj == 0x02 && min == 3) || !x.da) &&
    (!(maj == 0x12 && x.c == .none) || !(x.d == .none)) &&
    (!(maj == 0x3C && min == 5 && (match x.w2 with | .t _ _ dty _ => dty == .dflt | _ => false)) || (x.rnd == .rne && !x.sat))

/-- The Word 2 of zero in the layout of a base form (R43, R50). -/
def zeroW2 (maj : Nat) : W2 :=
  if (0x20 ≤ maj ∧ maj ≤ 0x24) ∨ maj = 0x28 then .w 0
  else if 0x38 ≤ maj ∧ maj ≤ 0x3B then .m .grp .none .rlx .ca .b32 0
  else .t 0 .dflt .dflt (.v 0)

/-- A base word as the extended form it equals, 01 R12. -/
def Ext.ofBase (maj : Nat) (d a b : Opnd) : Ext :=
  { short := false, d := d, a := a, b := b, c := .none, fa := false, fb := false, fc := false, da := false, db := false, dc := false,
    uni := false, sat := false, rnd := .rne, pred := 7, pneg := false, w2 := zeroW2 maj, lit := none }

end Sys2Proof
end

