-- ==== Sys2Proof/Machine/Forms.lean ====
section
/-!
DEFINITION. The major and minor opcode and the extended form of every instruction (03 R49, R50, 01 R12), and back.
-/

namespace Sys2Proof

/-- An instruction's place in the opcode map: MAJ, MIN, whether it is a base word (LEN 00), and its fields as an extended form. -/
structure Parts where
  maj : Nat
  min : Nat
  base : Bool
  x : Ext
  deriving DecidableEq, Repr

/-- A base-form branch: its 16-bit offset as the 32-bit word offset it stands for (R45). -/
def branchBase (maj : Nat) (d : Opnd) (off : BitVec 16) : Ext := { Ext.ofBase maj d .none .none with w2 := .w (off.signExtend 32) }

/-- The parts of an instruction; a step without an encoding has none. -/
def Instr.parts : Instr → Option Parts
  | .nop => some ⟨0x01, 0, true, Ext.ofBase 0x01 .none .none .none⟩
  | .nopX x => some ⟨0x01, 0, false, x⟩
  | .yield x => some ⟨0x01, 1, false, x⟩
  | .mov d a => some ⟨0x02, 0, true, Ext.ofBase 0x02 d a .none⟩
  | .movX x => some ⟨0x02, 0, false, x⟩
  | .sel x => some ⟨0x02, 1, false, x⟩
  | .mov64 x => some ⟨0x02, 2, false, x⟩
  | .movx x => some ⟨0x02, 3, false, x⟩
  | .movxw x => some ⟨0x02, 4, false, x⟩
  | .iadd d a b => some ⟨0x03, 0, true, Ext.ofBase 0x03 d a b⟩
  | .iaddX x => some ⟨0x03, 0, false, x⟩
  | .iadd64 x => some ⟨0x03, 1, false, x⟩
  | .lea x => some ⟨0x03, 2, false, x⟩
  | .iaddc x => some ⟨0x03, 3, false, x⟩
  | .isubb x => some ⟨0x03, 4, false, x⟩
  | .isub d a b => some ⟨0x04, 0, true, Ext.ofBase 0x04 d a b⟩
  | .isubX x => some ⟨0x04, 0, false, x⟩
  | .isub64 x => some ⟨0x04, 1, false, x⟩
  | .ineg x => some ⟨0x04, 2, false, x⟩
  | .iabs x => some ⟨0x04, 3, false, x⟩
  | .imul d a b => some ⟨0x05, 0, true, Ext.ofBase 0x05 d a b⟩
  | .imulX x => some ⟨0x05, 0, false, x⟩
  | .imulh x => some ⟨0x05, 1, false, x⟩
  | .imulw x => some ⟨0x05, 2, false, x⟩
  | .imad x => some ⟨0x05, 3, false, x⟩
  | .imadw x => some ⟨0x05, 4, false, x⟩
  | .imad64 x => some ⟨0x05, 5, false, x⟩
  | .imin d a b => some ⟨0x06, 0, true, Ext.ofBase 0x06 d a b⟩
  | .iminX x => some ⟨0x06, 0, false, x⟩
  | .imax x => some ⟨0x06, 1, false, x⟩
  | .and d a b => some ⟨0x07, 0, true, Ext.ofBase 0x07 d a b⟩
  | .andX x => some ⟨0x07, 0, false, x⟩
  | .andn x => some ⟨0x07, 1, false, x⟩
  | .bfun x => some ⟨0x07, 2, false, x⟩
  | .or d a b => some ⟨0x08, 0, true, Ext.ofBase 0x08 d a b⟩
  | .orX x => some ⟨0x08, 0, false, x⟩
  | .xor d a b => some ⟨0x09, 0, true, Ext.ofBase 0x09 d a b⟩
  | .xorX x => some ⟨0x09, 0, false, x⟩
  | .not x => some ⟨0x09, 1, false, x⟩
  | .shl d a b => some ⟨0x0A, 0, true, Ext.ofBase 0x0A d a b⟩
  | .shlX x => some ⟨0x0A, 0, false, x⟩
  | .shl64 x => some ⟨0x0A, 1, false, x⟩
  | .shr d a b => some ⟨0x0B, 0, true, Ext.ofBase 0x0B d a b⟩
  | .shrX x => some ⟨0x0B, 0, false, x⟩
  | .sar x => some ⟨0x0B, 1, false, x⟩
  | .shr64 x => some ⟨0x0B, 2, false, x⟩
  | .sar64 x => some ⟨0x0B, 3, false, x⟩
  | .rotl x => some ⟨0x0B, 4, false, x⟩
  | .fshl x => some ⟨0x0B, 5, false, x⟩
  | .fshr x => some ⟨0x0B, 6, false, x⟩
  | .bfx d a b => some ⟨0x0C, 0, true, Ext.ofBase 0x0C d a b⟩
  | .bfxX x => some ⟨0x0C, 0, false, x⟩
  | .bfi x => some ⟨0x0C, 1, false, x⟩
  | .bmsk x => some ⟨0x0C, 2, false, x⟩
  | .popc d a => some ⟨0x0D, 0, true, Ext.ofBase 0x0D d a .none⟩
  | .popcX x => some ⟨0x0D, 0, false, x⟩
  | .clz x => some ⟨0x0D, 1, false, x⟩
  | .ctz x => some ⟨0x0D, 2, false, x⟩
  | .brev x => some ⟨0x0D, 3, false, x⟩
  | .bytep x => some ⟨0x0D, 4, false, x⟩
  | .icmp d a b => some ⟨0x0E, 0, true, Ext.ofBase 0x0E d a b⟩
  | .icmpX x => some ⟨0x0E, 0, false, x⟩
  | .icmp64 x => some ⟨0x0E, 1, false, x⟩
  | .plop x => some ⟨0x0E, 2, false, x⟩
  | .cvti x => some ⟨0x0F, 0, false, x⟩
  | .fadd d a b => some ⟨0x10, 0, true, Ext.ofBase 0x10 d a b⟩
  | .faddX x => some ⟨0x10, 0, false, x⟩
  | .fsub x => some ⟨0x10, 1, false, x⟩
  | .fmul d a b => some ⟨0x11, 0, true, Ext.ofBase 0x11 d a b⟩
  | .fmulX x => some ⟨0x11, 0, false, x⟩
  | .ffma d a b => some ⟨0x12, 0, true, Ext.ofBase 0x12 d a b⟩
  | .ffmaX x => some ⟨0x12, 0, false, x⟩
  | .fmin d a b => some ⟨0x13, 0, true, Ext.ofBase 0x13 d a b⟩
  | .fminX x => some ⟨0x13, 0, false, x⟩
  | .fmax x => some ⟨0x13, 1, false, x⟩
  | .fminn x => some ⟨0x13, 2, false, x⟩
  | .fmaxn x => some ⟨0x13, 3, false, x⟩
  | .fcmp d a b => some ⟨0x14, 0, true, Ext.ofBase 0x14 d a b⟩
  | .fcmpX x => some ⟨0x14, 0, false, x⟩
  | .fclass x => some ⟨0x14, 1, false, x⟩
  | .fcvt x => some ⟨0x15, 0, false, x⟩
  | .fcvti x => some ⟨0x15, 1, false, x⟩
  | .icvtf x => some ⟨0x15, 2, false, x⟩
  | .frnd x => some ⟨0x15, 3, false, x⟩
  | .fscale x => some ⟨0x15, 4, false, x⟩
  | .frcp d a => some ⟨0x16, 0, true, Ext.ofBase 0x16 d a .none⟩
  | .frcpX x => some ⟨0x16, 0, false, x⟩
  | .frsq x => some ⟨0x16, 1, false, x⟩
  | .fsqrt x => some ⟨0x16, 2, false, x⟩
  | .fex2 x => some ⟨0x16, 3, false, x⟩
  | .flg2 x => some ⟨0x16, 4, false, x⟩
  | .fsin x => some ⟨0x16, 5, false, x⟩
  | .fcos x => some ⟨0x16, 6, false, x⟩
  | .ftanh x => some ⟨0x16, 7, false, x⟩
  | .fdot2 x => some ⟨0x17, 0, false, x⟩
  | .fma2 x => some ⟨0x17, 1, false, x⟩
  | .fadd2 x => some ⟨0x17, 2, false, x⟩
  | .fmul2 x => some ⟨0x17, 3, false, x⟩
  | .dot4 x => some ⟨0x18, 0, false, x⟩
  | .bra off => some ⟨0x20, 0, true, branchBase 0x20 .none off⟩
  | .braX x => some ⟨0x20, 0, false, x⟩
  | .brc d off => some ⟨0x21, 0, true, branchBase 0x21 d off⟩
  | .brcX x => some ⟨0x21, 0, false, x⟩
  | .bru d off => some ⟨0x22, 0, true, branchBase 0x22 d off⟩
  | .bruX x => some ⟨0x22, 0, false, x⟩
  | .call d off => some ⟨0x23, 0, true, branchBase 0x23 d off⟩
  | .callX x => some ⟨0x23, 0, false, x⟩
  | .calli x => some ⟨0x23, 1, false, x⟩
  | .ret x => some ⟨0x23, 2, false, x⟩
  | .jmpi x => some ⟨0x23, 3, false, x⟩
  | .loop x => some ⟨0x24, 0, false, x⟩
  | .brkl x => some ⟨0x24, 1, false, x⟩
  | .exit => some ⟨0x25, 0, true, Ext.ofBase 0x25 .none .none .none⟩
  | .exitX x => some ⟨0x25, 0, false, x⟩
  | .rfl x => some ⟨0x25, 1, false, x⟩
  | .sleep a => some ⟨0x26, 0, true, Ext.ofBase 0x26 .none a .none⟩
  | .sleepX x => some ⟨0x26, 0, false, x⟩
  | .sleepd x => some ⟨0x26, 1, false, x⟩
  | .trap => some ⟨0x27, 0, true, Ext.ofBase 0x27 .none .none .none⟩
  | .trapX x => some ⟨0x27, 0, false, x⟩
  | .tfence x => some ⟨0x27, 1, false, x⟩
  | .bkpt x => some ⟨0x27, 2, false, x⟩
  | .rett x => some ⟨0x27, 3, false, x⟩
  | .mfs d => some ⟨0x28, 0, true, Ext.ofBase 0x28 d .none .none⟩
  | .mfsX x => some ⟨0x28, 0, false, x⟩
  | .mts x => some ⟨0x28, 1, false, x⟩
  | .ipf a => some ⟨0x29, 0, true, Ext.ofBase 0x29 .none a .none⟩
  | .ipfX x => some ⟨0x29, 0, false, x⟩
  | .fencei x => some ⟨0x29, 1, false, x⟩
  | .wfi a => some ⟨0x2A, 0, true, Ext.ofBase 0x2A .none a .none⟩
  | .wfiX x => some ⟨0x2A, 0, false, x⟩
  | .tlbi a b => some ⟨0x2B, 0, true, Ext.ofBase 0x2B .none a b⟩
  | .tlbiX x => some ⟨0x2B, 0, false, x⟩
  | .genb x => some ⟨0x2B, 1, false, x⟩
  | .xacq d a => some ⟨0x2C, 0, true, Ext.ofBase 0x2C d a .none⟩
  | .xacqX x => some ⟨0x2C, 0, false, x⟩
  | .xrel x => some ⟨0x2C, 1, false, x⟩
  | .xshr x => some ⟨0x2C, 2, false, x⟩
  | .ocld x => some ⟨0x2C, 3, false, x⟩
  | .ocinv x => some ⟨0x2C, 4, false, x⟩
  | .feset x => some ⟨0x2C, 5, false, x⟩
  | .feclr x => some ⟨0x2C, 6, false, x⟩
  | .fewait x => some ⟨0x2C, 7, false, x⟩
  | .qxch d a => some ⟨0x30, 0, true, Ext.ofBase 0x30 d a .none⟩
  | .qxchX x => some ⟨0x30, 0, false, x⟩
  | .qbc x => some ⟨0x30, 1, false, x⟩
  | .gshf d a b => some ⟨0x31, 0, true, Ext.ofBase 0x31 d a b⟩
  | .gshfX x => some ⟨0x31, 0, false, x⟩
  | .gshfx x => some ⟨0x31, 1, false, x⟩
  | .gshfup x => some ⟨0x31, 2, false, x⟩
  | .gshfdn x => some ⟨0x31, 3, false, x⟩
  | .gvote d a => some ⟨0x32, 0, true, Ext.ofBase 0x32 d a .none⟩
  | .gvoteX x => some ⟨0x32, 0, false, x⟩
  | .gmatch x => some ⟨0x32, 1, false, x⟩
  | .gbcast x => some ⟨0x32, 2, false, x⟩
  | .gred d a => some ⟨0x33, 0, true, Ext.ofBase 0x33 d a .none⟩
  | .gredX x => some ⟨0x33, 0, false, x⟩
  | .gscan x => some ⟨0x33, 1, false, x⟩
  | .gbar => some ⟨0x34, 0, true, Ext.ofBase 0x34 .none .none .none⟩
  | .gbarX x => some ⟨0x34, 0, false, x⟩
  | .gbara x => some ⟨0x34, 1, false, x⟩
  | .gbarw x => some ⟨0x34, 2, false, x⟩
  | .binit a b => some ⟨0x35, 0, true, Ext.ofBase 0x35 .none a b⟩
  | .binitX x => some ⟨0x35, 0, false, x⟩
  | .barv x => some ⟨0x35, 1, false, x⟩
  | .bwait x => some ⟨0x35, 2, false, x⟩
  | .barw x => some ⟨0x35, 3, false, x⟩
  | .btest x => some ⟨0x35, 4, false, x⟩
  | .ld d a => some ⟨0x38, 0, true, Ext.ofBase 0x38 d a .none⟩
  | .ldX x => some ⟨0x38, 0, false, x⟩
  | .lds x => some ⟨0x38, 1, false, x⟩
  | .ldw x => some ⟨0x38, 2, false, x⟩
  | .st a b => some ⟨0x39, 0, true, Ext.ofBase 0x39 .none a b⟩
  | .stX x => some ⟨0x39, 0, false, x⟩
  | .sts x => some ⟨0x39, 1, false, x⟩
  | .stw x => some ⟨0x39, 2, false, x⟩
  | .aadd d a b => some ⟨0x3A, 0, true, Ext.ofBase 0x3A d a b⟩
  | .aaddX x => some ⟨0x3A, 0, false, x⟩
  | .amin x => some ⟨0x3A, 1, false, x⟩
  | .amax x => some ⟨0x3A, 2, false, x⟩
  | .aand x => some ⟨0x3A, 3, false, x⟩
  | .aor x => some ⟨0x3A, 4, false, x⟩
  | .axor x => some ⟨0x3A, 5, false, x⟩
  | .axch x => some ⟨0x3A, 6, false, x⟩
  | .acas x => some ⟨0x3A, 7, false, x⟩
  | .ainc x => some ⟨0x3A, 8, false, x⟩
  | .adec x => some ⟨0x3A, 9, false, x⟩
  | .afadd x => some ⟨0x3A, 10, false, x⟩
  | .afmin x => some ⟨0x3A, 11, false, x⟩
  | .afmax x => some ⟨0x3A, 12, false, x⟩
  | .fence => some ⟨0x3B, 0, true, Ext.ofBase 0x3B .none .none .none⟩
  | .fenceX x => some ⟨0x3B, 0, false, x⟩
  | .pref x => some ⟨0x3B, 1, false, x⟩
  | .cinv x => some ⟨0x3B, 2, false, x⟩
  | .cwb x => some ⟨0x3B, 3, false, x⟩
  | .cpin x => some ⟨0x3B, 4, false, x⟩
  | .cunpin x => some ⟨0x3B, 5, false, x⟩
  | .mma x => some ⟨0x3C, 0, false, x⟩
  | .mmaq x => some ⟨0x3C, 1, false, x⟩
  | .mmai x => some ⟨0x3C, 2, false, x⟩
  | .acz x => some ⟨0x3C, 3, false, x⟩
  | .acld x => some ⟨0x3C, 4, false, x⟩
  | .acmov x => some ⟨0x3C, 7, false, x⟩
  | .acst x => some ⟨0x3C, 5, false, x⟩
  | .alut x => some ⟨0x3C, 6, false, x⟩
  | .osopen d a b => some ⟨0x3D, 0, true, Ext.ofBase 0x3D d a b⟩
  | .osopenX x => some ⟨0x3D, 0, false, x⟩
  | .ossub x => some ⟨0x3D, 1, false, x⟩
  | .osclose x => some ⟨0x3D, 2, false, x⟩
  | .aspill x => some ⟨0x3D, 3, false, x⟩
  | .afill x => some ⟨0x3D, 4, false, x⟩
  | .aown x => some ⟨0x3D, 5, false, x⟩
  | .cqadv d a b => some ⟨0x3E, 0, true, Ext.ofBase 0x3E d a b⟩
  | .cqadvX x => some ⟨0x3E, 0, false, x⟩
  | .cqwait x => some ⟨0x3E, 1, false, x⟩
  | .cqseq x => some ⟨0x3E, 2, false, x⟩
  | .dcwait x => some ⟨0x3E, 3, false, x⟩
  | .tready x => some ⟨0x3E, 4, false, x⟩
  | .cqput x => some ⟨0x3E, 5, false, x⟩
  | .sleepWake _ => none
  | .wfiDeadline _ => none
  | .xacqGrant _ => none
  | .phaseComplete _ _ => none
  | .loadReturn _ _ => none
  | .storeAck _ => none
  | .atomicReturn _ => none
  | .qntApply _ => none
  | .locketFade _ _ => none
  | .passStart _ => none
  | .streamTileRead _ _ _ => none
  | .batchDecision _ _ => none
  | .entryBegin _ _ => none
  | .entryComplete _ _ => none
  | .engineWindowWrite _ _ => none
  | .queueHalt _ _ _ _ => none
  | .promiseMiss _ _ => none
  | .qstatClrc _ _ => none
  | .qstatHaltClear _ _ => none
  | .deferredReport _ => none
  | .step _ => none
  | .promiseMissed _ => none
  | .watchdog _ => none
  | .preempt _ => none
  | .breakpoint _ => none
  | .integrity _ _ => none
  | .walkResult _ _ => none
  | .homePerform _ => none
  | .stampAnnouncement _ _ => none
  | .refresh _ _ _ => none
  | .hotRowWindowEnd _ => none
  | .clearSweep _ _ => none
  | .scrub _ _ _ => none
  | .flitRetry _ _ => none
  | .linkFailover _ _ => none
  | .writeAck _ _ _ => none
  | .inboundPostedWrite _ _ => none
  | .inboundRead _ _ => none
  | .atsTranslationRequest _ => none
  | .atsInvalidationCompletion _ _ => none
  | .atsInvalidationTimeout _ _ => none
  | .pageRequest _ _ _ _ _ => none
  | .prgrsp _ _ => none
  | .completionTimeout _ => none
  | .intxMessage _ => none
  | .ptmRequest _ => none
  | .ideCheckFailure _ => none
  | .surpriseRemoval _ => none
  | .bezelStore _ => none
  | .claspBarrierArrival _ => none
  | .claspCounterAdd _ => none
  | .claspInterrupt _ => none
  | .wake _ => none
  | .remoteWrite _ _ => none
  | .remoteWriteAck _ _ => none
  | .rwrev _ _ => none
  | .reductionContribution _ _ => none
  | .reductionTimeout _ => none
  | .launch _ _ => none
  | .launchCopy _ => none
  | .dependencePoll _ => none
  | .placeGang _ _ => none
  | .chunkArrival _ => none
  | .stealMessage _ _ => none
  | .stealAnswer _ _ => none
  | .groupRelease _ => none
  | .launchComplete _ => none
  | .turnEnd _ => none
  | .gangSave _ => none
  | .gangRestore _ => none
  | .vdreset _ _ => none
  | .clrsize _ _ => none
  | .cecntRead _ _ _ => none
  | .registerWrite _ _ _ _ => none
  | .create => none
  | .admitCall => none
  | .release => none
  | .ways => none
  | .attest => none
  | .destroy => none
  | .idekey => none
  | .enter => none
  | .coldReset _ => none
  | .warmReset _ => none
  | .throttleCheck _ _ _ _ => none
  | .thermalTrip _ => none
  | .ptmCorrection _ => none
  | .standbySupplyApplied _ => none
  | .genbCompletion _ => none
  | .distributorReply _ => none

/-- The instruction of an extended or literal form, R49. -/
def Instr.ofExt (maj min : Nat) (x : Ext) : Option Instr :=
  match maj, min with
  | 0x01, 0 => some (.nopX x)
  | 0x01, 1 => some (.yield x)
  | 0x02, 0 => some (.movX x)
  | 0x02, 1 => some (.sel x)
  | 0x02, 2 => some (.mov64 x)
  | 0x02, 3 => some (.movx x)
  | 0x02, 4 => some (.movxw x)
  | 0x03, 0 => some (.iaddX x)
  | 0x03, 1 => some (.iadd64 x)
  | 0x03, 2 => some (.lea x)
  | 0x03, 3 => some (.iaddc x)
  | 0x03, 4 => some (.isubb x)
  | 0x04, 0 => some (.isubX x)
  | 0x04, 1 => some (.isub64 x)
  | 0x04, 2 => some (.ineg x)
  | 0x04, 3 => some (.iabs x)
  | 0x05, 0 => some (.imulX x)
  | 0x05, 1 => some (.imulh x)
  | 0x05, 2 => some (.imulw x)
  | 0x05, 3 => some (.imad x)
  | 0x05, 4 => some (.imadw x)
  | 0x05, 5 => some (.imad64 x)
  | 0x06, 0 => some (.iminX x)
  | 0x06, 1 => some (.imax x)
  | 0x07, 0 => some (.andX x)
  | 0x07, 1 => some (.andn x)
  | 0x07, 2 => some (.bfun x)
  | 0x08, 0 => some (.orX x)
  | 0x09, 0 => some (.xorX x)
  | 0x09, 1 => some (.not x)
  | 0x0A, 0 => some (.shlX x)
  | 0x0A, 1 => some (.shl64 x)
  | 0x0B, 0 => some (.shrX x)
  | 0x0B, 1 => some (.sar x)
  | 0x0B, 2 => some (.shr64 x)
  | 0x0B, 3 => some (.sar64 x)
  | 0x0B, 4 => some (.rotl x)
  | 0x0B, 5 => some (.fshl x)
  | 0x0B, 6 => some (.fshr x)
  | 0x0C, 0 => some (.bfxX x)
  | 0x0C, 1 => some (.bfi x)
  | 0x0C, 2 => some (.bmsk x)
  | 0x0D, 0 => some (.popcX x)
  | 0x0D, 1 => some (.clz x)
  | 0x0D, 2 => some (.ctz x)
  | 0x0D, 3 => some (.brev x)
  | 0x0D, 4 => some (.bytep x)
  | 0x0E, 0 => some (.icmpX x)
  | 0x0E, 1 => some (.icmp64 x)
  | 0x0E, 2 => some (.plop x)
  | 0x0F, 0 => some (.cvti x)
  | 0x10, 0 => some (.faddX x)
  | 0x10, 1 => some (.fsub x)
  | 0x11, 0 => some (.fmulX x)
  | 0x12, 0 => some (.ffmaX x)
  | 0x13, 0 => some (.fminX x)
  | 0x13, 1 => some (.fmax x)
  | 0x13, 2 => some (.fminn x)
  | 0x13, 3 => some (.fmaxn x)
  | 0x14, 0 => some (.fcmpX x)
  | 0x14, 1 => some (.fclass x)
  | 0x15, 0 => some (.fcvt x)
  | 0x15, 1 => some (.fcvti x)
  | 0x15, 2 => some (.icvtf x)
  | 0x15, 3 => some (.frnd x)
  | 0x15, 4 => some (.fscale x)
  | 0x16, 0 => some (.frcpX x)
  | 0x16, 1 => some (.frsq x)
  | 0x16, 2 => some (.fsqrt x)
  | 0x16, 3 => some (.fex2 x)
  | 0x16, 4 => some (.flg2 x)
  | 0x16, 5 => some (.fsin x)
  | 0x16, 6 => some (.fcos x)
  | 0x16, 7 => some (.ftanh x)
  | 0x17, 0 => some (.fdot2 x)
  | 0x17, 1 => some (.fma2 x)
  | 0x17, 2 => some (.fadd2 x)
  | 0x17, 3 => some (.fmul2 x)
  | 0x18, 0 => some (.dot4 x)
  | 0x20, 0 => some (.braX x)
  | 0x21, 0 => some (.brcX x)
  | 0x22, 0 => some (.bruX x)
  | 0x23, 0 => some (.callX x)
  | 0x23, 1 => some (.calli x)
  | 0x23, 2 => some (.ret x)
  | 0x23, 3 => some (.jmpi x)
  | 0x24, 0 => some (.loop x)
  | 0x24, 1 => some (.brkl x)
  | 0x25, 0 => some (.exitX x)
  | 0x25, 1 => some (.rfl x)
  | 0x26, 0 => some (.sleepX x)
  | 0x26, 1 => some (.sleepd x)
  | 0x27, 0 => some (.trapX x)
  | 0x27, 1 => some (.tfence x)
  | 0x27, 2 => some (.bkpt x)
  | 0x27, 3 => some (.rett x)
  | 0x28, 0 => some (.mfsX x)
  | 0x28, 1 => some (.mts x)
  | 0x29, 0 => some (.ipfX x)
  | 0x29, 1 => some (.fencei x)
  | 0x2A, 0 => some (.wfiX x)
  | 0x2B, 0 => some (.tlbiX x)
  | 0x2B, 1 => some (.genb x)
  | 0x2C, 0 => some (.xacqX x)
  | 0x2C, 1 => some (.xrel x)
  | 0x2C, 2 => some (.xshr x)
  | 0x2C, 3 => some (.ocld x)
  | 0x2C, 4 => some (.ocinv x)
  | 0x2C, 5 => some (.feset x)
  | 0x2C, 6 => some (.feclr x)
  | 0x2C, 7 => some (.fewait x)
  | 0x30, 0 => some (.qxchX x)
  | 0x30, 1 => some (.qbc x)
  | 0x31, 0 => some (.gshfX x)
  | 0x31, 1 => some (.gshfx x)
  | 0x31, 2 => some (.gshfup x)
  | 0x31, 3 => some (.gshfdn x)
  | 0x32, 0 => some (.gvoteX x)
  | 0x32, 1 => some (.gmatch x)
  | 0x32, 2 => some (.gbcast x)
  | 0x33, 0 => some (.gredX x)
  | 0x33, 1 => some (.gscan x)
  | 0x34, 0 => some (.gbarX x)
  | 0x34, 1 => some (.gbara x)
  | 0x34, 2 => some (.gbarw x)
  | 0x35, 0 => some (.binitX x)
  | 0x35, 1 => some (.barv x)
  | 0x35, 2 => some (.bwait x)
  | 0x35, 3 => some (.barw x)
  | 0x35, 4 => some (.btest x)
  | 0x38, 0 => some (.ldX x)
  | 0x38, 1 => some (.lds x)
  | 0x38, 2 => some (.ldw x)
  | 0x39, 0 => some (.stX x)
  | 0x39, 1 => some (.sts x)
  | 0x39, 2 => some (.stw x)
  | 0x3A, 0 => some (.aaddX x)
  | 0x3A, 1 => some (.amin x)
  | 0x3A, 2 => some (.amax x)
  | 0x3A, 3 => some (.aand x)
  | 0x3A, 4 => some (.aor x)
  | 0x3A, 5 => some (.axor x)
  | 0x3A, 6 => some (.axch x)
  | 0x3A, 7 => some (.acas x)
  | 0x3A, 8 => some (.ainc x)
  | 0x3A, 9 => some (.adec x)
  | 0x3A, 10 => some (.afadd x)
  | 0x3A, 11 => some (.afmin x)
  | 0x3A, 12 => some (.afmax x)
  | 0x3B, 0 => some (.fenceX x)
  | 0x3B, 1 => some (.pref x)
  | 0x3B, 2 => some (.cinv x)
  | 0x3B, 3 => some (.cwb x)
  | 0x3B, 4 => some (.cpin x)
  | 0x3B, 5 => some (.cunpin x)
  | 0x3C, 0 => some (.mma x)
  | 0x3C, 1 => some (.mmaq x)
  | 0x3C, 2 => some (.mmai x)
  | 0x3C, 3 => some (.acz x)
  | 0x3C, 4 => some (.acld x)
  | 0x3C, 5 => some (.acst x)
  | 0x3C, 6 => some (.alut x)
  | 0x3C, 7 => some (.acmov x)
  | 0x3D, 0 => some (.osopenX x)
  | 0x3D, 1 => some (.ossub x)
  | 0x3D, 2 => some (.osclose x)
  | 0x3D, 3 => some (.aspill x)
  | 0x3D, 4 => some (.afill x)
  | 0x3D, 5 => some (.aown x)
  | 0x3E, 0 => some (.cqadvX x)
  | 0x3E, 1 => some (.cqwait x)
  | 0x3E, 2 => some (.cqseq x)
  | 0x3E, 3 => some (.dcwait x)
  | 0x3E, 4 => some (.tready x)
  | 0x3E, 5 => some (.cqput x)
  | _, _ => none

/-- The instruction of a base word, R50; `off` is the offset A:B of a branch. A field the form does not use is checked by its role. -/
def Instr.ofBase (maj : Nat) (d a b : Opnd) : Option Instr :=
  match maj with
  | 0x01 => if d = .none ∧ a = .none ∧ b = .none then some (.nop) else none
  | 0x02 => if b = .none then some (.mov d a) else none
  | 0x03 => some (.iadd d a b)
  | 0x04 => some (.isub d a b)
  | 0x05 => some (.imul d a b)
  | 0x06 => some (.imin d a b)
  | 0x07 => some (.and d a b)
  | 0x08 => some (.or d a b)
  | 0x09 => some (.xor d a b)
  | 0x0A => some (.shl d a b)
  | 0x0B => some (.shr d a b)
  | 0x0C => some (.bfx d a b)
  | 0x0D => if b = .none then some (.popc d a) else none
  | 0x0E => some (.icmp d a b)
  | 0x10 => some (.fadd d a b)
  | 0x11 => some (.fmul d a b)
  | 0x12 => some (.ffma d a b)
  | 0x13 => some (.fmin d a b)
  | 0x14 => some (.fcmp d a b)
  | 0x16 => if b = .none then some (.frcp d a) else none
  | 0x25 => if d = .none ∧ a = .none ∧ b = .none then some (.exit) else none
  | 0x26 => if d = .none ∧ b = .none then some (.sleep a) else none
  | 0x27 => if d = .none ∧ a = .none ∧ b = .none then some (.trap) else none
  | 0x28 => if a = .none ∧ b = .none then some (.mfs d) else none
  | 0x29 => if d = .none ∧ b = .none then some (.ipf a) else none
  | 0x2A => if d = .none ∧ b = .none then some (.wfi a) else none
  | 0x2B => if d = .none then some (.tlbi a b) else none
  | 0x2C => if b = .none then some (.xacq d a) else none
  | 0x30 => if b = .none then some (.qxch d a) else none
  | 0x31 => some (.gshf d a b)
  | 0x32 => if b = .none then some (.gvote d a) else none
  | 0x33 => if b = .none then some (.gred d a) else none
  | 0x34 => if d = .none ∧ a = .none ∧ b = .none then some (.gbar) else none
  | 0x35 => if d = .none then some (.binit a b) else none
  | 0x38 => if b = .none then some (.ld d a) else none
  | 0x39 => if d = .none then some (.st a b) else none
  | 0x3A => some (.aadd d a b)
  | 0x3B => if d = .none ∧ a = .none ∧ b = .none then some (.fence) else none
  | 0x3D => some (.osopen d a b)
  | 0x3E => some (.cqadv d a b)
  | _ => none

/-- The instruction of a base-form branch. -/
def Instr.ofBranch (maj : Nat) (d : Opnd) (off : BitVec 16) : Option Instr :=
  match maj with
  | 0x20 => if d = .none then some (.bra off) else none
  | 0x21 => some (.brc d off)
  | 0x22 => some (.bru d off)
  | 0x23 => some (.call d off)
  | _ => none

/-- The length in bytes of a form, R36. -/
def Parts.len (p : Parts) : Nat := if p.base then 4 else if p.x.short then 12 else if p.x.lit.isSome then 20 else 12

/-- The length of an instruction in bytes; 0 for a step that is no instruction. -/
def Instr.len (i : Instr) : Nat := match i.parts with | some p => p.len | none => 0

/-- Every field holds what its form accepts, R51. -/
def Parts.legal (p : Parts) : Bool :=
  legalExt p.maj p.min p.x && (!p.base || (hasBase p.maj && p.min == 0 && p.x.lit.isNone && !p.x.short &&
    (if 0x20 ≤ p.maj ∧ p.maj ≤ 0x23 then
      match p.x.w2 with
      | .w v => p.x == branchBase p.maj p.x.d (v.truncate 16)
      | _ => false
     else p.x == Ext.ofBase p.maj p.x.d p.x.a p.x.b)))

end Sys2Proof
end

