-- ==== Sys2Proof/WellFormed.lean ====
section
/-!
DEFINITION. Well-formed instructions: every field holds what the form accepts (03 R51). A step without an encoding is always well formed.
-/

namespace Sys2Proof

/-- The instruction has an encoding whose every field is legal, or is a step that is no instruction. -/
def WellFormed (i : Instr) : Bool :=
  match i.parts with
  | some p => p.legal
  | none => true

/-- The row is an instruction with an encoding. -/
def Instr.encodes (i : Instr) : Bool := i.parts.isSome

end Sys2Proof
end

