-- ==== Sys2Proof/Decode.lean ====
section
/-!
DEFINITION. Decoding (03 R36 to R53), total on any bytes and rejecting by name; after it the encoder, from the same tables;
and the words of a few instructions written out from the spec.
-/

namespace Sys2Proof

/-- Why bytes are no instruction. All but `short` are ILLEGAL of R51. -/
inductive Reject where
  /-- There are too few bytes for the length that LEN gives. -/
  | short
  /-- Items 1 and 2: the major or minor opcode is not assigned, or the major has no base form. -/
  | opcode
  /-- Item 3: Word 1 bit 31 is 1. -/
  | reservedBit
  /-- Item 4: a specifier 0xF0 to 0xFD. -/
  | specifier
  /-- Item 8: a reserved code in Word 2. -/
  | word2
  /-- Items 5 to 8: a literal, role, policy, dead, UNI, RND, SAT or immediate the form does not accept. -/
  | field
  deriving DecidableEq, Repr

def Rnd.ofCode : Nat → Rnd
  | 0 => .rne | 1 => .rtz | 2 => .rup | 3 => .rdn | 4 => .rna | 5 => .rsr | 6 => .rodd | _ => .dyn
def Rnd.code : Rnd → Nat
  | .rne => 0 | .rtz => 1 | .rup => 2 | .rdn => 3 | .rna => 4 | .rsr => 5 | .rodd => 6 | .dyn => 7
def Ty.ofCode : Nat → Option Ty
  | 0 => some .dflt | 1 => some .s8 | 2 => some .u8 | 3 => some .s16 | 4 => some .u16 | 5 => some .s32 | 6 => some .u32 | 7 => some .s64
  | 8 => some .u64 | 9 => some .f64 | 10 => some .f32 | 11 => some .f16 | 12 => some .bf16 | 13 => some .e4m3 | 14 => some .e5m2 | _ => none
def Ty.code : Ty → Nat
  | .dflt => 0 | .s8 => 1 | .u8 => 2 | .s16 => 3 | .u16 => 4 | .s32 => 5 | .u32 => 6 | .s64 => 7 | .u64 => 8 | .f64 => 9 | .f32 => 10
  | .f16 => 11 | .bf16 => 12 | .e4m3 => 13 | .e5m2 => 14
def Wid.ofCode : Nat → Option Wid
  | 0 => some .b32 | 1 => some .b8 | 2 => some .b16 | 3 => some .b64 | 4 => some .b128 | _ => none
def Wid.code : Wid → Nat
  | .b32 => 0 | .b8 => 1 | .b16 => 2 | .b64 => 3 | .b128 => 4
def Cls.ofCode : Nat → Option Cls
  | 0 => some .ca | 1 => some .cb | 2 => some .vg | _ => none
def Cls.code : Cls → Nat
  | .ca => 0 | .cb => 1 | .vg => 2
def Ord.ofCode : Nat → Ord
  | 0 => .rlx | 1 => .acq | 2 => .rel | _ => .ar
def Ord.code : Ord → Nat
  | .rlx => 0 | .acq => 1 | .rel => 2 | .ar => 3
def Use.ofCode : Nat → Option Use
  | 0 => some .none | 1 => some .unp | 2 => some .com | 3 => some .nord | 4 => some .qnt | 5 => some .spec | _ => Option.none
def Use.code : Use → Nat
  | .none => 0 | .unp => 1 | .com => 2 | .nord => 3 | .qnt => 4 | .spec => 5
def Scope.ofCode : Nat → Option Scope
  | 0 => some .grp | 1 => some .qd | 2 => some .wg | 3 => some .core | 4 => some .gang | 5 => some .qdr | 6 => some .die | 7 => some .row
  | 8 => some .pkg | 9 => some .sys | 10 => some .part | 11 => some .pod | _ => none
def Scope.code : Scope → Nat
  | .grp => 0 | .qd => 1 | .wg => 2 | .core => 3 | .gang => 4 | .qdr => 5 | .die => 6 | .row => 7 | .pkg => 8 | .sys => 9 | .part => 10 | .pod => 11

/-- The layouts of Word 2, R43. -/
inductive Lay where
  | t | w | m | x
  deriving DecidableEq, Repr

/-- The layout of a form, R43 and R49. -/
def layoutOf (maj min : Nat) : Lay :=
  if (0x20 ≤ maj ∧ maj ≤ 0x24) ∨ maj = 0x28 then .w
  else if 0x38 ≤ maj ∧ maj ≤ 0x3B then .m
  else if maj = 0x3C ∧ min ≤ 2 then .x
  else .t

/-- Word 2 read in a layout, R44 to R47. -/
def decodeW2 (lay : Lay) (w : Nat) : Option W2 :=
  match lay with
  | .t =>
    match Ty.ofCode (bitsOf w 15 12), Ty.ofCode (bitsOf w 11 8), Opnd.ofCode (bitsOf w 7 0) with
    | some sty, some dty, some r => some (.t (BitVec.ofNat 16 (bitsOf w 31 16)) sty dty r)
    | _, _, _ => none
  | .w => some (.w (BitVec.ofNat 32 w))
  | .m =>
    match Scope.ofCode (bitsOf w 31 28), Use.ofCode (bitsOf w 27 25), Cls.ofCode (bitsOf w 22 21), Wid.ofCode (bitsOf w 20 18) with
    | some s, some u, some c, some wid => some (.m s u (Ord.ofCode (bitsOf w 24 23)) c wid (BitVec.ofNat 18 (bitsOf w 17 0)))
    | _, _, _, _ => none
  | .x =>
    if bitsOf w 20 16 ≠ 0 then none
    else match Opnd.ofCode (bitsOf w 15 8), Opnd.ofCode (bitsOf w 7 0) with
      | some sca, some scw =>
        some (.x (Fin.ofNat 32 (bitsOf w 31 27)) (bitAt w 26) (bitAt w 25) (bitAt w 24) (bitAt w 23) (bitAt w 22) (bitAt w 21) sca scw)
      | _, _ => none

/-- An instruction from Word 0 alone (LEN 00). -/
def decodeBase (w0 : Nat) : Except Reject Instr :=
  let maj := bitsOf w0 7 2
  if 0x20 ≤ maj ∧ maj ≤ 0x23 then
    match Opnd.ofCode (bitsOf w0 15 8) with
    | none => .error .specifier
    | some d =>
      match Instr.ofBranch maj d (BitVec.ofNat 16 (bitsOf w0 23 16 * 256 + bitsOf w0 31 24)) with
      | none => .error .field
      | some i => if WellFormed i then .ok i else .error .field
  else
    match Opnd.ofCode (bitsOf w0 15 8), Opnd.ofCode (bitsOf w0 23 16), Opnd.ofCode (bitsOf w0 31 24) with
    | some d, some a, some b =>
      if (formOf maj 0 (Ext.ofBase maj d a b)).isNone || !hasBase maj then .error .opcode
      else match Instr.ofBase maj d a b with
        | none => .error .field
        | some i => if WellFormed i then .ok i else .error .field
    | _, _, _ => .error .specifier

/-- An instruction with a literal behind a base word (LEN 01). -/
def decodeShort (w0 lit : Nat) : Except Reject Instr :=
  let maj := bitsOf w0 7 2
  match Opnd.ofCode (bitsOf w0 15 8), Opnd.ofCode (bitsOf w0 23 16), Opnd.ofCode (bitsOf w0 31 24) with
  | some d, some a, some b =>
    if !hasBase maj then .error .opcode
    else match Instr.ofExt maj 0 { Ext.ofBase maj d a b with short := true, lit := some (BitVec.ofNat 64 lit) } with
      | none => .error .opcode
      | some i => if WellFormed i then .ok i else .error .field
  | _, _, _ => .error .specifier

/-- An extended instruction (LEN 10 and 11). -/
def decodeExt (w0 w1 w2 : Nat) (lit : Option (BitVec 64)) : Except Reject Instr :=
  let maj := bitsOf w0 7 2
  let min := bitsOf w1 15 8
  if bitAt w1 31 then .error .reservedBit
  else match Opnd.ofCode (bitsOf w0 15 8), Opnd.ofCode (bitsOf w0 23 16), Opnd.ofCode (bitsOf w0 31 24), Opnd.ofCode (bitsOf w1 7 0) with
    | some d, some a, some b, some c =>
      match decodeW2 (layoutOf maj min) w2 with
      | none => .error .word2
      | some v =>
        match Instr.ofExt maj min
          { short := false, d := d, a := a, b := b, c := c, fa := bitAt w1 24, fb := bitAt w1 25, fc := bitAt w1 26,
            da := bitAt w1 27, db := bitAt w1 28, dc := bitAt w1 29, uni := bitAt w1 30, sat := bitAt w1 19,
            rnd := Rnd.ofCode (bitsOf w1 18 16), pred := Fin.ofNat 8 (bitsOf w1 22 20), pneg := bitAt w1 23, w2 := v, lit := lit } with
        | none => .error .opcode
        | some i => if WellFormed i then .ok i else .error .field
    | _, _, _, _ => .error .specifier

/-- The length in bytes that LEN of Word 0 gives, R36. -/
def lenOf (w0 : Nat) : Nat :=
  match w0 % 4 with
  | 0 => 4 | 1 => 12 | 2 => 12 | _ => 20

/-- An instruction from its five words; those beyond its length are not looked at (R36). -/
def decodeWords (w0 w1 w2 w3 w4 : Nat) : Except Reject Instr :=
  match w0 % 4 with
  | 0 => decodeBase w0
  | 1 => decodeShort w0 (w1 + 2 ^ 32 * w2)
  | 2 => decodeExt w0 w1 w2 none
  | _ => decodeExt w0 w1 w2 (some (BitVec.ofNat 64 (w3 + 2 ^ 32 * w4)))

/-- The 32-bit words of a list of bytes, little-endian (01 R13). -/
def wordsOf : List Byte → List Nat
  | a :: b :: c :: d :: r => ofBytesLE [a, b, c, d] :: wordsOf r
  | _ => []

/-- The instruction at the head of a list of bytes, with the rest of the list. -/
def decode (bs : List Byte) : Except Reject (Instr × List Byte) :=
  match wordsOf (bs.take 20) with
  | [] => .error .short
  | w0 :: ws =>
    if bs.length < lenOf w0 then .error .short
    else match decodeWords w0 (ws.getD 0 0) (ws.getD 1 0) (ws.getD 2 0) (ws.getD 3 0) with
      | .ok i => .ok (i, bs.drop (lenOf w0))
      | .error e => .error e

/-- The instruction whose bits are `w`, numbered as the opcode table numbers them; the bits above `nbits` are 0. -/
def decodeTableWord (nbits w : Nat) : Option Instr :=
  match decode (bytesLE 20 (w % 2 ^ nbits)) with
  | .ok (i, _) => some i
  | .error _ => none

/-- Word 2 of a layout value. -/
def W2.encode : W2 → Nat
  | .t imm sty dty r => imm.toNat * 2 ^ 16 + sty.code * 2 ^ 12 + dty.code * 2 ^ 8 + r.code
  | .w v => v.toNat
  | .m s u o c wid off => s.code * 2 ^ 28 + u.code * 2 ^ 25 + o.code * 2 ^ 23 + c.code * 2 ^ 21 + wid.code * 2 ^ 18 + off.toNat
  | .x wsl ag bs sa sb afm bfm sca scw =>
    wsl.val * 2 ^ 27 + ag.toNat * 2 ^ 26 + bs.toNat * 2 ^ 25 + sa.toNat * 2 ^ 24 + sb.toNat * 2 ^ 23 + afm.toNat * 2 ^ 22 +
      bfm.toNat * 2 ^ 21 + sca.code * 2 ^ 8 + scw.code

/-- Word 1 of an extended form, R38. -/
def encodeWord1 (min : Nat) (x : Ext) : Nat :=
  x.uni.toNat * 2 ^ 30 + x.dc.toNat * 2 ^ 29 + x.db.toNat * 2 ^ 28 + x.da.toNat * 2 ^ 27 + x.fc.toNat * 2 ^ 26 + x.fb.toNat * 2 ^ 25 +
    x.fa.toNat * 2 ^ 24 + x.pneg.toNat * 2 ^ 23 + x.pred.val * 2 ^ 20 + x.sat.toNat * 2 ^ 19 + x.rnd.code * 2 ^ 16 + min * 2 ^ 8 + x.c.code

/-- Word 0, R37. -/
def encodeWord0 (b a d maj len : Nat) : Nat := b * 2 ^ 24 + a * 2 ^ 16 + d * 2 ^ 8 + maj * 4 + len

/-- The two words of a literal, R39. -/
def litWords (l : BitVec 64) : List Nat := [l.toNat % 2 ^ 32, l.toNat / 2 ^ 32]

/-- The words of an instruction in address order; a step without an encoding has none. -/
def encode (i : Instr) : List Nat :=
  match i.parts with
  | none => []
  | some p =>
    let x := p.x
    if p.base then
      if 0x20 ≤ p.maj ∧ p.maj ≤ 0x23 then
        match x.w2 with
        | .w v => [encodeWord0 (v.toNat % 256) (v.toNat / 256 % 256) x.d.code p.maj 0]
        | _ => []
      else [encodeWord0 x.b.code x.a.code x.d.code p.maj 0]
    else
      match x.lit with
      | some l =>
        if x.short then encodeWord0 x.b.code x.a.code x.d.code p.maj 1 :: litWords l
        else encodeWord0 x.b.code x.a.code x.d.code p.maj 3 :: encodeWord1 p.min x :: x.w2.encode :: litWords l
      | none => [encodeWord0 x.b.code x.a.code x.d.code p.maj 2, encodeWord1 p.min x, x.w2.encode]

/-- The bytes of an instruction in memory, R13. -/
def encodeBytes (i : Instr) : List Byte := (encode i).flatMap (bytesLE 4)

/-- Word 0 in [31:0] and Word 1 in [63:32] when the instruction has one: what ILLEGAL and PRIV report (R52). -/
def Instr.headWords (i : Instr) : DWord :=
  match encode i with
  | [] => 0
  | w0 :: rest => BitVec.ofNat 64 (if w0 % 4 ≥ 2 then w0 + 2 ^ 32 * rest.headD 0 else w0)

end Sys2Proof
end

