-- ==== Sys2Proof/Machine/Flags.lean ====
section
/-!
DEFINITION. Number formats, rounding, saturation and the exception flags (04 R55 to R70), as exact arithmetic.
A finite value is a sign, a magnitude and a power of two; every operation is exact and rounds once.
-/

namespace Sys2Proof

/-- A set of exceptions: NV [4], DZ [3], OF [2], UF [1], NX [0] (R68). -/
abbrev Fl := BitVec 5

def Fl.nv : Fl := 16
def Fl.dz : Fl := 8
def Fl.ov : Fl := 4
def Fl.uf : Fl := 2
def Fl.nx : Fl := 1

/-- `f` when `b`, no flag otherwise. -/
def Fl.when (b : Bool) (f : Fl) : Fl := if b then f else 0

/-- A floating-point format, R57: width, exponent bits, fraction bits, and whether its top exponent is finite (.e4m3). -/
structure Fmt where
  w : Nat
  eb : Nat
  fb : Nat
  topFinite : Bool
  deriving DecidableEq, Repr

def Fmt.f64 : Fmt := ⟨64, 11, 52, false⟩
def Fmt.f32 : Fmt := ⟨32, 8, 23, false⟩
def Fmt.f16 : Fmt := ⟨16, 5, 10, false⟩
def Fmt.bf16 : Fmt := ⟨16, 8, 7, false⟩
def Fmt.e4m3 : Fmt := ⟨8, 4, 3, true⟩
def Fmt.e5m2 : Fmt := ⟨8, 5, 2, false⟩

/-- The format of a type code, with `.f32` for a code that names none. -/
def Ty.fmt : Ty → Fmt
  | .f64 => Fmt.f64
  | .f16 => Fmt.f16
  | .bf16 => Fmt.bf16
  | .e4m3 => Fmt.e4m3
  | .e5m2 => Fmt.e5m2
  | _ => Fmt.f32

def Fmt.bias (f : Fmt) : Nat := 2 ^ (f.eb - 1) - 1
/-- The exponent of the smallest subnormal. -/
def Fmt.qmin (f : Fmt) : Int := 1 - (f.bias : Int) - f.fb
/-- The largest exponent field of a finite value. -/
def Fmt.maxE (f : Fmt) : Nat := if f.topFinite then 2 ^ f.eb - 1 else 2 ^ f.eb - 2
/-- The canonical NaN, R58. -/
def Fmt.nan (f : Fmt) : Nat := if f.topFinite then 2 ^ (f.w - 1) - 1 else (2 ^ f.eb - 1) * 2 ^ f.fb + 2 ^ (f.fb - 1)
/-- The largest finite magnitude, R57. -/
def Fmt.big (f : Fmt) : Nat := if f.topFinite then 2 ^ (f.w - 1) - 2 else (2 ^ f.eb - 1) * 2 ^ f.fb - 1
/-- A sign and a magnitude as bits. -/
def Fmt.sign (f : Fmt) (neg : Bool) (mag : Nat) : Nat := if neg then 2 ^ (f.w - 1) + mag else mag
/-- The magnitude written for an infinity: the canonical NaN where the format has none (R61). -/
def Fmt.infBits (f : Fmt) (neg : Bool) : Nat :=
  if f.topFinite then f.nan else f.sign neg ((2 ^ f.eb - 1) * 2 ^ f.fb)

/-- A floating-point value: a NaN (signalling or quiet), an infinity, or (-1)^neg * m * 2^e. -/
inductive FV where
  | nan (snan : Bool)
  | inf (neg : Bool)
  | fin (neg : Bool) (m : Nat) (e : Int)
  deriving DecidableEq, Repr

/-- The value of a pattern, R57 and R58. -/
def Fmt.decode (f : Fmt) (bits : Nat) : FV :=
  let x := bits % 2 ^ f.w
  let neg := x.testBit (f.w - 1)
  let ef := (x / 2 ^ f.fb) % 2 ^ f.eb
  let fr := x % 2 ^ f.fb
  if f.topFinite then
    if ef = 2 ^ f.eb - 1 ∧ fr = 2 ^ f.fb - 1 then .nan false
    else if ef = 0 then .fin neg fr f.qmin
    else .fin neg (2 ^ f.fb + fr) (f.qmin + (ef - 1 : Nat))
  else if ef = 2 ^ f.eb - 1 then
    if fr = 0 then .inf neg
    else .nan (decide (8 < f.w) && !fr.testBit (f.fb - 1))
  else if ef = 0 then .fin neg fr f.qmin
  else .fin neg (2 ^ f.fb + fr) (f.qmin + (ef - 1 : Nat))

def FV.isNan : FV → Bool
  | .nan _ => true
  | _ => false
def FV.isSnan : FV → Bool
  | .nan b => b
  | _ => false
def FV.isZero : FV → Bool
  | .fin _ m _ => m == 0
  | _ => false
def FV.neg? : FV → Bool
  | .nan _ => false
  | .inf n => n
  | .fin n _ _ => n
/-- The value with its sign turned over. -/
def FV.flip : FV → FV
  | .nan b => .nan b
  | .inf n => .inf !n
  | .fin n m e => .fin (!n) m e

/-- The magnitude m / 2^sh rounded to an integer under a mode, and whether it was inexact: R60 and, under rsr, R63. -/
def roundMag (mode : Rnd) (rb : Nat) (neg : Bool) (m sh : Nat) : Nat × Bool :=
  let k := m / 2 ^ sh
  let r := m % 2 ^ sh
  if r = 0 then (k, false)
  else
    let up : Bool := match mode with
      | .rne | .dyn => decide (2 * r > 2 ^ sh) || (decide (2 * r = 2 ^ sh) && k % 2 == 1)
      | .rtz => false
      | .rup => !neg
      | .rdn => neg
      | .rna => decide (2 * r ≥ 2 ^ sh)
      | .rsr => decide (r * 2 ^ 32 / 2 ^ sh + rb ≥ 2 ^ 32)
      | .rodd => k % 2 == 0
    (if up then k + 1 else k, true)

/-- What an overflow writes, R61 and R66. -/
def Fmt.overflow (f : Fmt) (mode : Rnd) (sat neg : Bool) : Nat :=
  let toInf : Bool := match mode with
    | .rtz | .rodd => false
    | .rup => !neg
    | .rdn => neg
    | _ => true
  if sat || !toInf then f.sign neg f.big else f.infBits neg

/-- The exact value (-1)^neg * m * 2^e, m > 0, rounded into a format: R60 to R63, R66. -/
def Fmt.round (f : Fmt) (mode : Rnd) (sat : Bool) (rb : Nat) (neg : Bool) (m : Nat) (e : Int) : Nat × Fl :=
  if m = 0 then (f.sign neg 0, 0)
  else
    let top : Int := e + (Nat.log2 m : Int)
    let q : Int := max (top - f.fb) f.qmin
    let (k, inex) := if q ≤ e then (m * 2 ^ (e - q).toNat, false) else roundMag mode rb neg m (q - e).toNat
    let (k, q) := if k = 2 ^ (f.fb + 1) then (2 ^ f.fb, q + 1) else (k, q)
    if k < 2 ^ f.fb then (f.sign neg k, Fl.when inex (Fl.uf ||| Fl.nx))
    else
      let ef := (q - f.qmin).toNat + 1
      let fr := k - 2 ^ f.fb
      if ef > f.maxE ∨ (ef = f.maxE ∧ f.topFinite ∧ fr = 2 ^ f.fb - 1) then (f.overflow mode sat neg, Fl.ov ||| Fl.nx)
      else (f.sign neg (ef * 2 ^ f.fb + fr), Fl.when inex Fl.nx)

/-- A value written into a format, R60 to R66; a NaN becomes the canonical one, an infinity follows R66. -/
def Fmt.write (f : Fmt) (mode : Rnd) (sat : Bool) (rb : Nat) : FV → Nat × Fl
  | .nan s => (f.nan, Fl.when s Fl.nv)
  | .inf n => if sat then (f.sign n f.big, 0) else if f.topFinite then (f.nan, Fl.nv) else (f.infBits n, 0)
  | .fin n m e => f.round mode sat rb n m e

/-- A term of a sum: its value, and whether forming it was invalid (R70). -/
structure Term where
  v : FV
  nv : Bool
  deriving DecidableEq, Repr

/-- An input as a term: a signalling NaN raises NV. -/
def Term.of (a : FV) : Term := ⟨a, a.isSnan⟩

/-- The exact product of two values, R70. -/
def Term.mul (a b : FV) : Term :=
  let s := a.isSnan || b.isSnan
  let n := a.neg? != b.neg?
  if a.isNan || b.isNan then ⟨.nan false, s⟩
  else match a, b with
    | .fin _ m e, .fin _ m' e' => ⟨.fin n (m * m') (e + e'), false⟩
    | .inf _, .fin _ m _ => if m = 0 then ⟨.nan false, true⟩ else ⟨.inf n, false⟩
    | .fin _ m _, .inf _ => if m = 0 then ⟨.nan false, true⟩ else ⟨.inf n, false⟩
    | _, _ => ⟨.inf n, false⟩

/-- The sign of a zero sum, R65: `allZero` when every term is a zero. -/
def zeroSign (mode : Rnd) (allZero : Bool) (ts : List FV) : Bool :=
  if allZero then ts.all FV.neg? || (mode == .rdn && ts.any FV.neg?) else mode == .rdn

/-- The least exponent among finite values, `d` when there is none. -/
def minExp (d : Int) (ts : List FV) : Int :=
  ts.foldl (fun a t => match t with | .fin _ _ e => min a e | _ => a) d

/-- The exact sum of finite values in units of 2^q, q no larger than any exponent. -/
def sumUnits (q : Int) (ts : List FV) : Int :=
  ts.foldl (fun (a : Int) t => match t with
    | .fin n m e => let x : Int := (m * 2 ^ (e - q).toNat : Nat); if n then a - x else a + x
    | _ => a) 0

/-- The special operands of a sum, R70: the NaN or infinity it gives, or none. -/
def specialSum (ts : List Term) : Option (FV × Fl) :=
  let vs := ts.map Term.v
  let pinf := vs.any (fun v => v == .inf false)
  let ninf := vs.any (fun v => v == .inf true)
  let nv := ts.any Term.nv || (pinf && ninf)
  if vs.any FV.isNan || (pinf && ninf) then some (.nan false, Fl.when nv Fl.nv)
  else if pinf then some (.inf false, 0)
  else if ninf then some (.inf true, 0)
  else none

/-- The exact sum of terms, R65 and R70, before rounding. -/
def exactSum (mode : Rnd) (ts : List Term) : FV × Fl :=
  match specialSum ts with
  | some r => r
  | none =>
    let vs := ts.map Term.v
    let q := minExp 0 vs
    let s := sumUnits q vs
    if s = 0 then (.fin (zeroSign mode (vs.all FV.isZero) vs) 0 0, 0)
    else (.fin (decide (s < 0)) s.natAbs q, 0)

/-- The sum of terms rounded once into a format. -/
def Fmt.sum (f : Fmt) (mode : Rnd) (sat : Bool) (rb : Nat) (ts : List Term) : Nat × Fl :=
  let (v, fl) := exactSum mode ts
  let (x, fl') := f.write mode sat rb v
  (x, fl ||| fl')

/-- floor(log2) of a finite nonzero value. -/
def FV.top : FV → Int
  | .fin _ m e => e + (Nat.log2 m : Int)
  | _ => 0

/-- A finite value truncated toward zero to a multiple of 2^q: the signed number of units, and whether bits were lost. -/
def FV.truncUnits (q : Int) : FV → Int × Bool
  | .fin n m e =>
    let (k, lost) : Nat × Bool := if q ≤ e then (m * 2 ^ (e - q).toNat, false)
      else (m / 2 ^ (q - e).toNat, decide (m % 2 ^ (q - e).toNat ≠ 0))
    (if n then -(k : Int) else k, lost)
  | _ => (0, false)

/-- dot_sum of R69 with the special operands of R70, rounded into a format. -/
def Fmt.dotSum (f : Fmt) (mode : Rnd) (rb : Nat) (ts : List Term) : Nat × Fl :=
  match specialSum ts with
  | some (v, fl) => let (x, fl') := f.write mode false rb v; (x, fl ||| fl')
  | none =>
    let vs := ts.map Term.v
    let nz := vs.filter (fun v => !v.isZero)
    match nz with
    | [] => (f.sign (zeroSign mode true vs) 0, 0)
    | v :: rest =>
      let emax := rest.foldl (fun a t => max a t.top) v.top
      let q := emax - 60
      let us := nz.map (FV.truncUnits q)
      let s : Int := us.foldl (fun a u => a + u.1) 0
      let lost := Fl.when (us.any Prod.snd) Fl.nx
      if s = 0 then (f.sign (zeroSign mode false vs) 0, lost)
      else
        let (x, fl) := f.round mode false rb (decide (s < 0)) s.natAbs q
        (x, fl ||| lost)

/-- The exact value of a finite value as an ordering key: compare `a` and `b` (neither a NaN). -/
def FV.lt (a b : FV) : Bool :=
  match a, b with
  | .inf n, .inf n' => n && !n'
  | .inf n, _ => n
  | _, .inf n => !n
  | .fin n m e, .fin n' m' e' =>
    let q := min e e'
    decide (sumUnits q [.fin n m e] < sumUnits q [.fin n' m' e'])
  | _, _ => false

/-- Equal as numbers: -0 equals +0. -/
def FV.eqNum (a b : FV) : Bool := !a.isNan && !b.isNan && !a.lt b && !b.lt a

/-- `a` comes before `b` in the order of R94, in which -0 is less than +0. -/
def FV.before (a b : FV) : Bool := a.lt b || (a.isZero && b.isZero && a.neg? && !b.neg?)

/-- FMIN, FMAX, FMINN, FMAXN of R94: bits of the result and flags. -/
def Fmt.minMax (f : Fmt) (isMax numb : Bool) (a b : Nat) : Nat × Fl :=
  let va := f.decode a
  let vb := f.decode b
  let fl := Fl.when (va.isSnan || vb.isSnan) Fl.nv
  if va.isNan then (if numb && !vb.isNan then b % 2 ^ f.w else f.nan, fl)
  else if vb.isNan then (if numb then a % 2 ^ f.w else f.nan, fl)
  else
    let first := if isMax then vb.before va else va.before vb
    (if first then a % 2 ^ f.w else b % 2 ^ f.w, fl)

/-- The compare conditions of R44. -/
def condHolds (cond : Nat) (lt eq : Bool) : Bool :=
  match cond with
  | 0 => eq
  | 1 => !eq
  | 2 => lt
  | 3 => lt || eq
  | 4 => !lt && !eq
  | _ => !lt

/-- FCMP of R95. -/
def Fmt.cmp (f : Fmt) (cond : Nat) (a b : Nat) : Bool × Fl :=
  let va := f.decode a
  let vb := f.decode b
  let nan := va.isNan || vb.isNan
  let fl := Fl.when (if cond ≤ 1 then va.isSnan || vb.isSnan else nan) Fl.nv
  (if nan then cond == 1 else condHolds cond (va.lt vb) (va.eqNum vb), fl)

/-- The class number of R96. -/
def Fmt.classOf (f : Fmt) (a : Nat) : Nat :=
  match f.decode a with
  | .nan s => if s then 8 else 9
  | .inf n => if n then 0 else 7
  | .fin n m _ =>
    if m = 0 then (if n then 3 else 4)
    else if m < 2 ^ f.fb then (if n then 2 else 5)
    else (if n then 1 else 6)

/-- The range of an integer type: width and signedness. -/
def Ty.intWidth : Ty → Nat
  | .s8 | .u8 => 8
  | .s16 | .u16 => 16
  | .s64 | .u64 => 64
  | _ => 32
def Ty.signed : Ty → Bool
  | .u8 | .u16 | .u32 | .u64 => false
  | _ => true

/-- The value of a source read as an integer type, R55. -/
def Ty.readInt (t : Ty) (x : Nat) : Int := if t.signed then toSigned t.intWidth x else ((x % 2 ^ t.intWidth : Nat) : Int)

def Ty.minInt (t : Ty) : Int := if t.signed then -(2 ^ (t.intWidth - 1)) else 0
def Ty.maxInt (t : Ty) : Int := if t.signed then 2 ^ (t.intWidth - 1) - 1 else 2 ^ t.intWidth - 1

/-- Clamp an exact integer to the range of a type, R56. -/
def Ty.clamp (t : Ty) (x : Int) : Int := max t.minInt (min t.maxInt x)

/-- The destination bits of an exact integer: wrapped or clamped (R56), extended to 32 bits (R55). -/
def Ty.intResult (t : Ty) (sat : Bool) (x : Int) : Nat :=
  let y := if sat then t.clamp x else x
  let z := t.readInt (wrapInt t.intWidth y)
  if t.intWidth = 64 then wrapInt 64 z else wrapInt 32 z

/-- A floating value converted to an integer type: R67. -/
def toIntTy (t : Ty) (mode : Rnd) (sat : Bool) (rb : Nat) : FV → Nat × Fl
  | .nan _ => (0, Fl.when (!sat) Fl.nv ||| Fl.when sat Fl.nx)
  | .inf n => (t.intResult false (if n then t.minInt else t.maxInt), Fl.when (!sat) Fl.nv ||| Fl.when sat Fl.nx)
  | .fin n m e =>
    let (k, inex) := if 0 ≤ e then (m * 2 ^ e.toNat, false) else roundMag mode rb n m (-e).toNat
    let x : Int := if n then -(k : Int) else k
    if t.minInt ≤ x ∧ x ≤ t.maxInt then (t.intResult false x, Fl.when inex Fl.nx)
    else (t.intResult false (t.clamp x), if sat then Fl.nx else Fl.nv)

/-- An exact integer as a value. -/
def FV.ofInt (x : Int) : FV := .fin (decide (x < 0)) x.natAbs 0

/-- FRND of R97: the neighbours are spaced by 1, and the sign stays. An inexact result raises NX alone, a zero that a nonzero fraction rounds to too: R62
read by itself calls that one tiny, R97 names NX only (DESIGN CHOICE, assumption 110). -/
def Fmt.rnd (f : Fmt) (mode : Rnd) (sat : Bool) (rb : Nat) (a : Nat) : Nat × Fl :=
  match f.decode a with
  | .fin n m e =>
    let (k, inex) := if 0 ≤ e then (m * 2 ^ e.toNat, false) else roundMag mode rb n m (-e).toNat
    let (x, _) := f.round mode sat rb n k 0
    (x, Fl.when inex Fl.nx)
  | v => f.write mode sat rb v

/-- FSCALE of R97. Beyond 2^5000 in either direction every finite nonzero value has left every format. -/
def Fmt.scale (f : Fmt) (mode : Rnd) (sat : Bool) (rb : Nat) (a : Nat) (b : Int) : Nat × Fl :=
  match f.decode a with
  | .fin n m e => f.round mode sat rb n m (e + max (-5000) (min 5000 b))
  | v => f.write mode sat rb v

/-- The random bits of result number `e`: rotated left by e mod 32, R64. -/
def rotRb (rb e : Nat) : Nat :=
  let k := e % 32
  (rb * 2 ^ k) % 2 ^ 32 + rb % 2 ^ 32 / 2 ^ (32 - k)

end Sys2Proof
end

