-- ==== Sys2Proof/Machine/Tab.lean ====
section
/-!
DEFINITION. Operations over sparse tables: one lookup, one canonical update (no entry equals the default), one plain update.
-/

namespace Sys2Proof

/-- The value at index `i`: the first entry's, or the default `d`. -/
def Tab.get {α : Type} (d : α) : Tab α → Nat → α
  | [], _ => d
  | (k, v) :: r, i => if i = k then v else Tab.get d r i

/-- Write `v` at index `i`, keeping the indexes rising. -/
def Tab.put {α : Type} : Tab α → Nat → α → Tab α
  | [], i, v => [(i, v)]
  | (k, w) :: r, i, v =>
    if i = k then (i, v) :: r
    else if i < k then (i, v) :: (k, w) :: r
    else (k, w) :: Tab.put r i v

/-- Remove every entry at index `i`. -/
def Tab.erase {α : Type} : Tab α → Nat → Tab α
  | [], _ => []
  | (k, w) :: r, i => if i = k then Tab.erase r i else (k, w) :: Tab.erase r i

/-- Write `v` at index `i` in canonical form: writing the default removes the entry. -/
def Tab.set {α : Type} [DecidableEq α] (d : α) (t : Tab α) (i : Nat) (v : α) : Tab α :=
  if v = d then Tab.erase t i else Tab.put t i v

/-- Canonical form: every index is above `lo`, indexes rise strictly, no entry equals the default. -/
def Tab.wfFrom {α : Type} [DecidableEq α] (d : α) : Nat → Tab α → Bool
  | _, [] => true
  | lo, (k, v) :: r => decide (lo ≤ k) && decide (v ≠ d) && Tab.wfFrom d (k + 1) r

/-- Canonical form of a whole table. -/
def Tab.wf {α : Type} [DecidableEq α] (d : α) (t : Tab α) : Bool := Tab.wfFrom d 0 t

/-- Keep only the entries whose index satisfies `p`. -/
def Tab.keep {α : Type} (p : Nat → Bool) : Tab α → Tab α
  | [] => []
  | (k, v) :: r => if p k then (k, v) :: Tab.keep p r else Tab.keep p r

/-- Write the same value at every index of a list. -/
def Tab.setAll {α : Type} [DecidableEq α] (d : α) (v : α) : List Nat → Tab α → Tab α
  | [], t => t
  | i :: is, t => Tab.setAll d v is (Tab.set d t i v)

end Sys2Proof
end

