-- ==== Sys2Proof/Machine/State.lean ====
section
/-!
DEFINITION. The state of one Sceud 3200 package as plain data: lanes, groups, cores, dies, I/O dies, the package.
Everything indexed is a sparse table; an unlisted index reads as the default named beside the field.
INVENTORY.md lists every piece with the rule that names it and its reset value.
Keys: core id = die * 64 + core (I/O dies 32 west, 33 east); group id = core id * 32 + slot.
-/

namespace Sys2Proof.Machine

/-- Why the machine stops: nothing that the manual describes stops it, so there is no such reason. A group that stops (18 R324), a device that is off
(24 R392, R397) and a world that halts (23 R388) are states in which cycles go on. -/
inductive Fault where
  deriving DecidableEq, Repr

/-- Why an instruction has no meaning in this model. -/
inductive Refusal where
  /-- Raised by `exec` for a row not reached yet. Safe: nothing is claimed of it. -/
  | notModelled (mnemonic : String)
  deriving DecidableEq, Repr

/-- An entry of a lane's loop stack, 06 R103. -/
structure LoopEntry where
  ctr : Nat
  start : DWord
  stop : DWord
  deriving DecidableEq, Repr

/-- One lane of a group, 02 R20, 07 R123. -/
structure Lane where
  /-- The lane holds an item. -/
  occupied : Bool
  pc : DWord
  /-- p0 to p6; p7 reads as 1. -/
  p : BitVec 7
  /-- lc0 to lc3, default 0. -/
  lc : Tab Word
  /-- la0 to la3, default 0, and their valid bits. -/
  la : Tab DWord
  laOk : BitVec 4
  /-- The cycle from which each latch can be read, la0's first: 0, or beyond the list, is at once (05 R79). -/
  laAt : List Nat
  /-- NV, DZ, OF, UF, NX in bits 4 to 0. -/
  fflag : BitVec 5
  gen : BitVec 16
  /-- Top of the stack first. -/
  loops : List LoopEntry
  item : Word
  itemy : Word
  itemz : Word
  deriving DecidableEq, Repr

/-- A lane never filled: generation 1 at group launch, 07 R132. -/
def Lane.vacant : Lane :=
  { occupied := false, pc := 0, p := 0, lc := [], la := [], laOk := 0, laAt := [], fflag := 0, gen := 1, loops := [], item := 0, itemy := 0, itemz := 0 }

/-- The trap registers of one level, 06 R111, 18 R321, R323. -/
structure TrapRegs where
  cause : BitVec 8
  addr : DWord
  lanes : Mask
  pc : DWord
  priv : BitVec 2
  /-- TSTAT: DEF [3], SSTEP [2], DBL [1], ACT [0]. -/
  tstat : BitVec 8
  dpc : DWord
  dlanes : Mask
  park : Mask
  /-- TSCR0 and TSCR1 of each lane, default 0. -/
  scr0 : Tab DWord
  scr1 : Tab DWord
  /-- A sleep that the trap interrupted: its address and its wake cycle (R326). -/
  sleep : Option (DWord × DWord)
  deriving DecidableEq, Repr

def TrapRegs.zero : TrapRegs :=
  { cause := 0, addr := 0, lanes := 0, pc := 0, priv := 0, tstat := 0, dpc := 0, dlanes := 0, park := 0, scr0 := [], scr1 := [], sleep := none }

/-- An operand-cache slot, 02 R25; `vals` default 0. -/
structure OcSlot where
  valid : Bool
  reg : Nat
  vals : Tab Word
  deriving DecidableEq, Repr

def OcSlot.empty : OcSlot := { valid := false, reg := 0, vals := [] }

/-- A kernel descriptor as the device reads it, 19 R339. -/
structure Kernel where
  entry : DWord
  casid : BitVec 12
  ext : Nat
  acc : Nat
  gang : Nat
  wg : Nat
  refill : Bool
  tag : Bool
  pin : Bool
  xq : Bool
  rows : Nat
  ptab : DWord
  entries : Nat
  recsz : Nat
  deriving DecidableEq, Repr

def Kernel.zero : Kernel :=
  { entry := 0, casid := 0, ext := 0, acc := 0, gang := 1, wg := 1, refill := false, tag := false, pin := false, xq := false,
    rows := 0, ptab := 0, entries := 0, recsz := 0 }

/-- A report of a rejected access, 18 R328. -/
structure Report where
  cause : BitVec 8
  pc : DWord
  lanes : Mask
  addr : DWord
  /-- The issue it belongs to, and whether it came back before the group's next issue (R119, R327). -/
  issue : Nat
  precise : Bool
  /-- A fault on the private region (23 R382). -/
  pr : Bool
  deriving DecidableEq, Repr

/-- The kind A causes pending in a group, 18 R329. -/
structure Pend where
  reports : List Report
  integrity : Option DWord
  step : Bool
  /-- The address of the entry that missed, and the key of its queue, core * 8 + queue (15 R296). -/
  promise : Option (DWord × Nat)
  watchdog : Bool
  preempt : Bool
  /-- The address at which a breakpoint is not matched again after RETT (R336). -/
  noBreak : Option DWord
  deriving DecidableEq, Repr

def Pend.none : Pend :=
  { reports := [], integrity := .none, step := false, promise := .none, watchdog := false, preempt := false, noBreak := .none }

/-- A lane's registered wait on a barrier row, 08 R165; `core` and `row` name the scratchpad row. -/
structure RowWait where
  lane : Nat
  core : Nat
  row : Nat
  phase : Bool
  done : Bool
  /-- Ended by a completion that a Clasp message caused (16 R314). -/
  sys : Bool
  deriving DecidableEq, Repr

/-- The wait a group is stopped in. The lanes keep the wait instruction's address until it ends (18 R326). -/
inductive Wait where
  | none
  /-- SLEEP, SLEEPD: the wake cycle W, 06 R107. -/
  | sleep (w : DWord)
  /-- GBAR, GBARW: the phase of the gang's tag, 08 R160. -/
  | tree
  /-- BWAIT, BARW, 08 R165. -/
  | rows (ws : List RowWait)
  /-- XACQ: the rounded size asked for, its destination and the enabled lanes, 08 R155. -/
  | xacq (n : Nat) (d : Opnd) (en : Mask)
  /-- GENB: destination and each lane's new generation, and the spaces with the generation left behind, 06 R114. -/
  | genb (d : Opnd) (vals : Tab Word) (old : List (Nat × Nat))
  /-- TLBI that waits for ATS invalidations, 16 R306. -/
  | tlbi
  /-- WFI with its deadline, 06 R113. -/
  | wfi (deadline : DWord)
  /-- RFL that waits for a chunk, 07 R129. -/
  | refill
  deriving DecidableEq, Repr

/-- Where a group stands. -/
inductive GStatus where
  /-- No group is resident in the slot. -/
  | vacant
  | running
  /-- 07 R134. -/
  | draining
  /-- Stopped by an escalation beyond level 3 (18 R324) or by a world's halt (23 R382, R388). -/
  | stopped
  deriving DecidableEq, Repr

/-- A walk that ended in a fault, kept for the instruction that waits for it (18 R331): space, page, cause. -/
structure WalkFault where
  asid : BitVec 12
  page : Nat
  cause : BitVec 8
  deriving DecidableEq, Repr

/-- A group, 07 R121. -/
structure Group where
  status : GStatus
  /-- Default `Lane.vacant`. -/
  lanes : Tab Lane
  /-- Vector registers, index reg * 32 + lane, default 0, and their tags, default 0. -/
  v : Tab Word
  tag : Tab (BitVec 16)
  /-- Empty and dead registers, default false. -/
  empt : Tab Bool
  dead : Tab Bool
  /-- Default `OcSlot.empty`. -/
  oc : Tab OcSlot
  gsw : Word
  /-- Registers of the extended block. -/
  ext : Nat
  /-- Levels 0 to 3, default `TrapRegs.zero`. -/
  trap : Tab TrapRegs
  /-- dc0 to dc3, default 0. -/
  dc : Tab (BitVec 6)
  /-- For each counter the widest scope of a queue that lowered it since the last DCWAIT, 15 R290. -/
  dcScope : Tab (Option Scope)
  arr : Bool
  ctxid : BitVec 16
  ac0 : BitVec 8
  ac1 : BitVec 8
  accslot0 : DWord
  accslot1 : DWord
  /-- LUTSRC[0..3], default 0. -/
  lutsrc : Tab DWord
  world : BitVec 12
  asid : BitVec 12
  /-- The generation of the code space that the group fetches under, 11 R226. -/
  cgen : BitVec 10
  vdev : BitVec 8
  k : Kernel
  launch : Nat
  gang : Nat
  wg : Nat
  wgIdx : Word
  gangIdx : Word
  member : Nat
  spbase : Word
  wait : Wait
  /-- The length in bytes of the instruction the group waits at. -/
  waitLen : Nat
  /-- The group waits at FEWAIT, CQWAIT or DCWAIT and looks again at each turn (18 R329). -/
  looksAgain : Bool
  /-- The group's latest turn found it not ready; what makes it ready sets `readySince` (07 R143). -/
  blocked : Bool
  /-- Register bits with an uncorrectable error, index reg * 32 + lane, default false (18 R333). -/
  badReg : Tab Bool
  /-- Stopped for pre-emption, and its wait satisfied meanwhile, 19 R349, with the scope of the acquire that ends the wait after restore (R351). -/
  held : Bool
  satisfied : Bool
  owed : Option Scope
  /-- The barrier instruction at which pre-emption stopped the group (R350). -/
  stopAt : Option DWord
  pend : Pend
  /-- A sleep to be resumed after RETT, 18 R326. -/
  resume : Option DWord
  lastIssue : Nat
  readySince : Nat
  issueNo : Nat
  /-- The latest issue trapped, and nothing has issued since (18 R327, R328). -/
  faulted : Bool
  /-- A release fence at a scope holds later stores until every request numbered below this one is performed, 12 R231. -/
  relBound : Option (Nat × Scope)
  walkFaults : List WalkFault
  /-- The lanes before the latest memory access advanced: a rejection that returns before the next issue puts a lane back (18 R328). -/
  prior : Tab Lane
  deriving DecidableEq, Repr

/-- A slot without a group. -/
def Group.vacant : Group :=
  { status := .vacant, lanes := [], v := [], tag := [], empt := [], dead := [], oc := [], gsw := 0, ext := 0, trap := [], dc := [], dcScope := [], arr := false,
    ctxid := 0, ac0 := 0xFF, ac1 := 0xFF, accslot0 := 0, accslot1 := 0, lutsrc := [], world := 0, asid := 0, cgen := 0, vdev := 0, k := Kernel.zero,
    launch := 0, gang := 0, wg := 0, wgIdx := 0, gangIdx := 0, member := 0, spbase := 0, wait := .none, waitLen := 0, looksAgain := false, blocked := false, badReg := [], held := false, satisfied := false, owed := Option.none, stopAt := Option.none,
    pend := Pend.none, resume := none, lastIssue := 0, readySince := 0, issueNo := 0, faulted := false, relBound := none, walkFaults := [], prior := [] }

/-- The kind of an accumulator tile, 09 R169. -/
inductive TileKind where
  | none | f32 | s32
  deriving DecidableEq, Repr

/-- An accumulator tile with its owner, record address and world, 09 R168 to R170, 19 R353, 23 R382; `elems` index row * 32 + column, default 0;
`bad` names the rows with an uncorrectable error (18 R333), default false. -/
structure Tile where
  own : BitVec 17
  recAddr : DWord
  kind : TileKind
  world : BitVec 12
  elems : Tab Word
  bad : Tab Bool
  deriving DecidableEq, Repr

def Tile.reset : Tile := { own := 0, recAddr := 0, kind := .none, world := 0, elems := [], bad := [] }

/-- A cached 256-byte sector, 11 R211, R222: its bytes (index 0 to 255, default 0), space, generation, world, the epoch of the request that filled it
(12 R239), and whether its bits hold an error (18 R333). -/
structure Sector where
  bytes : Tab Byte
  asid : BitVec 12
  gen : BitVec 10
  world : BitVec 12
  epoch : Nat
  bad : Bool
  deriving DecidableEq, Repr

/-- A leaf translation held in a TLB, 18 R330: the page of 2^sz bytes at `vbase`, and the world of the access that walked it (06 R114). -/
structure TlbEntry where
  asid : BitVec 12
  vbase : Nat
  sz : Nat
  leaf : DWord
  world : BitVec 12
  deriving DecidableEq, Repr

/-- A non-leaf entry held by a die's walkers, 18 R330: its space, its level with the address bits above its index, the entry, the world that walked it. -/
structure Node where
  asid : Nat
  key : Nat
  entry : DWord
  world : BitVec 12
  deriving DecidableEq, Repr

/-- A command entry accepted by a queue, 15 R277, R282, and what its completion needs. -/
structure Entry where
  addr : DWord
  words : List DWord
  promise : Nat
  /-- The cycles since reset by which its promise is extended so far, R286: rising disjoint spans, first and end. -/
  extend : List (Nat × Nat)
  /-- Its CQADV's place in the order of handing over (R245), and the generation of its space when it began (11 R222). -/
  handed : Nat
  gen : BitVec 10
  gid : Nat
  level : Nat
  ctxid : BitVec 16
  world : BitVec 12
  dc : Option Nat
  begun : Bool
  missed : Bool
  /-- Rows or elements already written, R279. -/
  done : Nat
  /-- Its place in the order of acceptance, and the cause of a named queue that halted while it had to wait for it (R245, R298). -/
  seq : Nat
  fenceFault : Option (BitVec 8)
  deriving DecidableEq, Repr

/-- A CQADV on its way to its queue, 15 R282. -/
structure Adv where
  gid : Nat
  /-- Its place in the order of handing over. -/
  seq : Nat
  n : Nat
  cnt : Option Nat
  d : Opnd
  en : Mask
  level : Nat
  deriving DecidableEq, Repr

/-- A queue of a core, 15 R276. -/
structure Queue where
  qctl : DWord
  qcw : DWord
  qprev : DWord
  qlast : DWord
  qstat : DWord
  hseq : DWord
  cseq : DWord
  qfaddr : DWord
  /-- Accepted entries not yet completed, oldest first. -/
  entries : List Entry
  advs : List Adv
  /-- The promise of the latest accepted entry, R285, and the cycles of its extension, R286. -/
  lastP : Nat
  lastX : List (Nat × Nat)
  /-- Registers of cores, as the on-chip offset over 128, that the running entry has written, discarded writes among them (R294). -/
  regs : List Nat
  deriving DecidableEq, Repr

def Queue.reset : Queue :=
  { qctl := 0, qcw := 0, qprev := 0, qlast := 0, qstat := 0, hseq := 0, cseq := 0, qfaddr := 0, entries := [], advs := [], lastP := 0, lastX := [], regs := [] }

/-- A compute or system core. -/
structure Core where
  /-- 18 R322: 2 bits for each cause 1 to 24. -/
  troute : BitVec 48
  /-- TVEC0 to TVEC3, default 0. -/
  tvec : Tab DWord
  /-- Default `Tile.reset`. -/
  tiles : Tab Tile
  lutown : Tab (BitVec 17)
  /-- Activation table images, bytes 0 to 2,063 of each slot. -/
  luts : Tab (Tab Byte)
  /-- Scratchpad bytes, default 0, the rows tagged as barriers, and the rows with a parity error (18 R333). -/
  spad : Tab Byte
  bar : Tab Bool
  badSpad : Tab Bool
  /-- Barrier rows whose latest completion a kind-0 Clasp message caused (16 R314). -/
  sysRow : Tab Bool
  /-- L1 data and L1I sectors by sector number. -/
  l1d : Tab Sector
  l1i : Tab Sector
  tlb : List TlbEntry
  /-- Default `Queue.reset`. -/
  queues : Tab Queue
  /-- Calendars of the copy and gather engines, default 0xFF. -/
  calCopy : Tab Byte
  calGather : Tab Byte
  /-- Latest promise of the copy (index vdev) and gather (256 + vdev) engines, default 0. -/
  bv : Tab Nat
  /-- Lattice READY bits, and the identifiers set in the cycle named (15 R293). -/
  lattice : BitVec 128
  latticeSet : Nat × BitVec 128
  quantum : Word
  ibrk : Tab DWord
  wdog : BitVec 16
  mclog : DWord
  /-- PCCYC counts from this cycle on, 24 R399. -/
  pccycFrom : Nat
  /-- PCISS and PCSTL, by number, count from this cycle on, default 0. -/
  pcFrom : Tab Nat
  pciss : BitVec 48
  pcstl : Tab (BitVec 48)
  ipend : DWord
  /-- A wake that arrived before WFI, 06 R113. -/
  wakeHeld : Bool
  /-- Groups waiting in XACQ, oldest first. -/
  xacqs : List Nat
  deriving DecidableEq, Repr

/-- A core after reset: 0b10 for each cause and 0b11 for INTEGRITY (18 R322). -/
def Core.reset : Core :=
  { troute := 0xABAAAAAAAAAA, tvec := [], tiles := [], lutown := [], luts := [], spad := [], bar := [], badSpad := [], sysRow := [], l1d := [], l1i := [], tlb := [],
    queues := [], calCopy := [], calGather := [], bv := [], lattice := BitVec.allOnes 128, latticeSet := (0, 0), quantum := 4096, ibrk := [], wdog := 0, mclog := 0,
    pccycFrom := 0, pcFrom := [], pciss := 0, pcstl := [], ipend := 0, wakeHeld := false, xacqs := [] }

/-- A group's subscription to a stream, 09 R191. -/
structure Sub where
  gid : Nat
  w : Nat
  p : Nat
  deriving DecidableEq, Repr

/-- A tile of a stream as the distributor read it, 09 R193: its bytes, or the cause of the fault of that read. -/
structure StreamTile where
  t : Nat
  bytes : List Byte
  fault : Option (BitVec 8 × DWord)
  deriving DecidableEq, Repr

/-- An operand stream slot, 09 R189. -/
structure Stream where
  opened : Bool
  gen : BitVec 10
  base : DWord
  n : Nat
  size : Nat
  asid : BitVec 12
  vdev : BitVec 8
  world : BitVec 12
  level : Nat
  launch : Nat
  /-- F: the tiles below it are released. -/
  floor : Nat
  subs : List Sub
  tiles : List StreamTile
  deriving DecidableEq, Repr

def Stream.reset : Stream :=
  { opened := false, gen := 0, base := 0, n := 0, size := 0, asid := 0, vdev := 0, world := 0, level := 0, launch := 0, floor := 0, subs := [], tiles := [] }

/-- A wire tag of the Vertex tree, 08 R159. -/
structure Wire where
  gang : Option Nat
  arrivals : Nat
  deriving DecidableEq, Repr

def Wire.free : Wire := { gang := none, arrivals := 0 }

/-- A page walk queued or in flight on a die, 18 R331; `page` is VA[55:12]; level, world and generation (11 R222) are those of its first request. -/
structure Walk where
  asid : BitVec 12
  page : Nat
  level : Nat
  world : BitVec 12
  gen : BitVec 10
  waiters : List Nat
  /-- A TLBI reached the walk: it restarts from the root (06 R114). -/
  fromRoot : Bool
  deriving DecidableEq, Repr

/-- A pre-emption request of a die, 19 R348, R352: the gang, and the cycle of the request. -/
structure PreReq where
  gang : Nat
  since : Nat
  deriving DecidableEq, Repr

/-- A compute die. -/
structure Die where
  pool : BitVec 8
  lkbase : Tab DWord
  lkctl : Tab DWord
  /-- Windows hit in the running fade period, 11 R221. -/
  lkhit : Tab Bool
  refrec : Tab (BitVec 5)
  /-- Activations of each row in the running refresh window, and the cycle of its last one, index by row number, 11 R219. -/
  hot : Tab Nat
  hotLast : Tab Nat
  streams : Tab Stream
  calReduce : Tab Byte
  calConvert : Tab Byte
  bv : Tab Nat
  vdtbase : DWord
  plimit : DWord
  vdrstat : DWord
  clrbase : DWord
  cmt : Tab DWord
  deficit : Tab Int
  turn : Option Nat
  /-- The virtual device whose turn it was last, 19 R348. -/
  lastTurn : Nat
  preqs : List PreReq
  wires : Tab Wire
  /-- K, M and A of 12 R237 to R239; entry d of K is the counter c_d. -/
  kst : Tab (BitVec 24)
  mst : Tab (BitVec 24)
  front : Tab (BitVec 24)
  /-- The counter as the die last announced it to every home, 12 R238. -/
  said : BitVec 24
  epoch : Nat
  /-- Copies of sectors homed on other dies, by sector number. -/
  l2 : Tab Sector
  /-- Home sectors dirty in the L2, MSC lines dirty, by sector number, 11 R214, R215. -/
  l2dirty : Tab Bool
  mscdirty : Tab Bool
  /-- Home L2 sectors and MSC lines present; sectors of sealed regions held in plaintext in their world's ways (23 R387); the Locket windows that
  pin an MSC line, by sector number (11 R220). -/
  l2here : Tab Bool
  mschere : Tab Bool
  l2open : Tab Bool
  mscpin : Tab (BitVec 16)
  /-- Sectors of each quadrant's L2I, index 0 to 3, 11 R226. -/
  l2i : Tab (Tab Sector)
  /-- Quadrant TLBs, index 0 to 3. -/
  qtlb : Tab (List TlbEntry)
  /-- Cached non-leaf entries, 18 R330. -/
  wcache : List Node
  walks : List Walk
  /-- Lines whose clearing bit is set, by local line number, 11 R225. -/
  clearing : Tab Bool
  /-- Sectors homed on the die whose bits hold an uncorrectable error, by sector number, with the SRC code of the place (18 R333, R334, 23 R390; for
  CXL memory code 1, the poison that the device returns, 16 R308): 0 none, 1 HBM4E or CXL memory, 2 MSC, 3 L2. -/
  bad : Tab Nat
  wres : Tab (BitVec 12)
  /-- Ownership entries of the die's 2 MiB regions, 23 R384: SEALED [15], world [11:0]. -/
  owner : Tab (BitVec 16)
  mgstat : DWord
  temp : DWord
  pwrlim : DWord
  pwrnow : DWord
  linkst : DWord
  cecnt : DWord
  /-- Issue is withheld in the current cycles, 24 R396. -/
  withheld : Bool
  /-- Routes, by destination, that have sent FULL since reset and since their last failover, and the stamp each last sent, 21 R362. -/
  full : Tab Bool
  lastSent : Tab (Tab (BitVec 24))
  /-- Failures in a row of a flit on a port's link, 21 R359. -/
  retry : Tab Nat
  deriving DecidableEq, Repr

def Die.reset : Die :=
  { pool := 0, lkbase := [], lkctl := [], lkhit := [], refrec := [], hot := [], hotLast := [], streams := [], calReduce := [], calConvert := [], bv := [],
    vdtbase := 0, plimit := 0, vdrstat := 0, clrbase := 0, cmt := [], deficit := [], turn := none, lastTurn := 255, preqs := [], wires := [], kst := [],
    mst := [], front := [], said := 0, epoch := 0, l2 := [], l2dirty := [], mscdirty := [], l2here := [], mschere := [], l2open := [], mscpin := [], l2i := [], qtlb := [], wcache := [], walks := [],
    clearing := [], bad := [], wres := [], owner := [], mgstat := 0, temp := 0, pwrlim := 0xC8, pwrnow := 0, linkst := 0, cecnt := 0, withheld := false,
    full := [], lastSent := [], retry := [] }

/-- A part of a posted write for one home that is not acknowledged: its home, its physical address and the address within its home as its ordering point
decoded them when it left (11 R206), its bytes, world and space of the check, and for a part of a combined write the operation and type (21 R372). -/
structure Part where
  home : Nat
  pa : Nat
  lpa : Nat
  data : List Byte
  world : BitVec 12
  asid : Option (BitVec 12 × BitVec 10)
  red : Option (Nat × Nat)
  /-- K_io at its acceptance, which it carries to its home. -/
  stamp : Tab (BitVec 24)
  deriving DecidableEq, Repr

/-- An entry of an ordering point, 21 R365: a posted write with its number and the parts not yet acknowledged, a read, a Clasp message with the words
of its entry as they stood when it arrived (16 R312), a page request (16 R307), a revocation, a remote write accepted (21 R370). -/
inductive OpEntry where
  | write (num : BitVec 24) (port : Nat) (left : List Part)
  | read (q : Tlp) (len : Nat) (world : BitVec 12) (asid : Option (BitVec 12 × BitVec 10)) (pa : Nat)
  | msg (q : Tlp) (data : List Byte) (vdev : BitVec 8) (world : BitVec 12) (clt target : DWord)
  | page (q : Tlp) (w0 w1 : DWord)
  | revoke (w : BitVec 12)
  | remote (num : BitVec 24) (r : RemoteTlp) (pkgs : List Nat) (left : List Part)
  deriving DecidableEq, Repr

/-- An I/O die. -/
structure IoDie where
  bzb : Tab DWord
  bzt : Tab DWord
  clt : Tab DWord
  cltt : Tab DWord
  rqtbase : Tab DWord
  rperr : Tab DWord
  rhcfg : Tab DWord
  rwin : Tab DWord
  rwinb : Tab DWord
  rout : Tab DWord
  rwrstat : DWord
  clasperr : DWord
  bezerr : DWord
  prqbase : DWord
  prqctl : DWord
  /-- PRG responses sent, the latest first, 16 R307. -/
  prg : List DWord
  /-- K_io, whose own entry is the counter, and the entries of the ordering point. -/
  kio : Tab (BitVec 24)
  /-- The counter as last announced, 12 R238. -/
  said : BitVec 24
  entries : List OpEntry
  tlb : List TlbEntry
  /-- Functions treated as ATE = 0 (16 R306), by port * 65536 + requester. -/
  noAte : Tab Bool
  /-- Invalidations outstanding: port * 65536 + requester, with the group that waits and the cycle of the request. -/
  inval : List (Nat × Nat × Nat)
  /-- Ports whose device was removed, and ports in DPC containment (16 R299, R311). -/
  removed : Tab Bool
  contained : Tab Bool
  /-- Root ports of a link that firmware bifurcated into two or four, by port, default 1 (16 R299). -/
  split : Tab Nat
  /-- The lowest and highest bus number below a port whose ACS source validation is on, by port (16 R299). -/
  acs : Tab (Option (Nat × Nat))
  /-- Routes from this die, by destination: FULL sent, the stamp last sent; failures in a row of a flit on the link to each row (21 R359, R362). -/
  full : Tab Bool
  lastSent : Tab (Tab (BitVec 24))
  retry : Tab Nat
  /-- Links, by row, that have failed (21 R364). -/
  linkst : BitVec 4
  /-- The worlds for which IDE keys of a stream are installed, port * 16 + stream, 16 R318. -/
  ide : Tab (Option (BitVec 12))
  /-- Signet calls waiting: the calling core and the block's address, 23 R379. -/
  calls : List (Nat × DWord)
  /-- Answers sent to endpoints by the root ports, the latest first: port, requester, kind, data. -/
  sent : List (Nat × Nat × Nat × List Byte)
  deriving DecidableEq, Repr

def IoDie.reset : IoDie :=
  { bzb := [], bzt := [], clt := [], cltt := [], rqtbase := [], rperr := [], rhcfg := [], rwin := [], rwinb := [], rout := [], rwrstat := 0,
    clasperr := 0, bezerr := 0, prqbase := 0, prqctl := 0, prg := [], kio := [], said := 0, entries := [], tlb := [], noAte := [], inval := [],
    removed := [], contained := [], split := [], acs := [], full := [], lastSent := [], retry := [], linkst := 0, ide := [], calls := [], sent := [] }

/-- The operation of an atomic, 13 R253. -/
inductive AtomOp where
  | add | min | max | and | or | xor | xch | cas | inc | dec | fadd | fmin | fmax
  deriving DecidableEq, Repr

/-- What a request does at its target. -/
inductive ReqOp where
  | load
  | store
  | atomic (op : AtomOp) (ty : Ty)
  /-- A CWB, 13 R266, with its scope. -/
  | cwb (toHbm : Bool)
  deriving DecidableEq, Repr

/-- Where a request is performed. -/
inductive Target where
  /-- Memory, at its home die. -/
  | mem (home : Nat)
  /-- The on-chip map of a die. -/
  | window (die : Nat)
  /-- A root port's PCIe window. -/
  | pcie (port : Nat)
  /-- A Bezel page. -/
  | bezel (page : Nat)
  /-- The control block of an I/O die. -/
  | ctl (io : Nat)
  /-- A remote window behind a Rhadin port. -/
  | remote (port : Nat)
  /-- A range without a home: reads 0xFF, discards writes. -/
  | nowhere (port : Nat)
  deriving DecidableEq, Repr

/-- A lane's part of a request: its lane, its generation at issue, its operands. -/
structure Member where
  lane : Nat
  gen : BitVec 16
  b : DWord
  c : DWord
  deriving DecidableEq, Repr

/-- A request in flight, 12 R229 to R238. -/
structure Req where
  id : Nat
  gid : Nat
  src : Nat
  op : ReqOp
  tgt : Target
  /-- An access through a device page (11 R216). -/
  dev : Bool
  /-- The address by its name, and the address within the home's own memory (11 R206, R207). -/
  pa : Nat
  lpa : Nat
  va : DWord
  width : Nat
  data : BitVec 128
  members : List Member
  dst : Opnd
  cls : Cls
  ord : Ord
  use : Use
  scope : Scope
  num : Option (BitVec 24)
  stamp : Tab (BitVec 24)
  asid : BitVec 12
  gen : BitVec 10
  world : BitVec 12
  vdev : BitVec 8
  ctxid : BitVec 16
  level : Nat
  pc : DWord
  issueNo : Nat
  /-- Performed at its target, with the values returned to its lanes and the home's applied stamp. -/
  performed : Bool
  result : Tab (BitVec 128)
  /-- The applied stamp that came with the response; none where no home answers: a hit in a cache, scratchpad, a window (12 R239). -/
  mst : Option (Tab (BitVec 24))
  /-- The sector, without its bytes, that the response fills into the L1 or the L2 of the issuing die. -/
  fill : Option Sector
  /-- The span that a .vg request moves, first address and length (11 R217); 0 for any other request. -/
  span : Nat × Nat
  /-- The cycle of its issue, from which a completion timeout counts (16 R301). -/
  since : Nat
  deriving DecidableEq, Repr

/-- A matrix form, 09 R173, an accumulator load, or a move of accumulator columns to registers. -/
inductive PassKind where
  | mma | mmaq | mmai | acld | acmov
  deriving DecidableEq, Repr

/-- One row of a pass: its lane with the generation at issue, the issue and its address, the physical and virtual addresses of its pieces, or the bytes
already read from scratchpad, the scale (bits), the random word. -/
structure PassRow where
  lane : Nat
  gen : BitVec 16
  issueNo : Nat
  pc : DWord
  src : List (Nat × DWord)
  data : List Byte
  scale : Word
  rb : Word
  deriving DecidableEq, Repr

/-- A pass of quarter-ops, an accumulator load or move in flight, 09 R172 to R183: as a request of its issue, its form, its tile and rows, where the B rows
stand or the bytes of its stream tile, the weight scale, the formats. -/
structure Pass where
  q : Req
  kind : PassKind
  tile : Nat
  rows : List PassRow
  brows : List (Nat × DWord)
  bdata : List Byte
  wscale : Word
  af : Bool
  bf : Bool
  sat : Bool
  rnd : Rnd
  deriving DecidableEq, Repr

/-- A launch ring of a virtual device, 19 R344: the tail that LAUNCH wrote, the head and ERR of LSTAT. -/
structure Ring where
  head : BitVec 16
  tail : BitVec 16
  err : Bool
  deriving DecidableEq, Repr

def Ring.reset : Ring := { head := 0, tail := 0, err := false }

/-- A launch copied into the pending set, 19 R343 to R347, with its distributor state on each die. -/
structure Launch where
  seq : Nat
  vdev : BitVec 8
  k : Kernel
  asid : BitVec 12
  ctxid : BitVec 16
  level : Nat
  prio : Nat
  nx : Nat
  ny : Nat
  nz : Nat
  dieMask : Mask
  cwaddr : DWord
  cval : DWord
  savebase : DWord
  savecnt : Nat
  deps : List (DWord × DWord)
  home : Nat
  eligible : Bool
  /-- Placement stopped by a save fault, R347. -/
  halted : Bool
  /-- Gangs placed so far on each die. -/
  placed : Tab Nat
  /-- Undealt own chunks of each die: the first and the count taken from the top. -/
  first : Tab Nat
  taken : Tab Nat
  /-- The undealt rest of the current chunk, the stolen chunks waiting behind it, and the returned items of each die. -/
  cur : Tab (List Nat)
  stolen : Tab (List (List Nat))
  back : Tab (List Nat)
  /-- Dies whose distributor is exhausted. -/
  dry : Tab Bool
  /-- Save records in use. -/
  recs : List Nat
  deriving DecidableEq, Repr

/-- A steal in flight, 19 R346: asking die, launch, dies still to ask, the chunk given. -/
structure Steal where
  seq : Nat
  asker : Nat
  left : List Nat
  answer : Option (List Nat)
  deriving DecidableEq, Repr

/-- A workgroup, 07 R121: its gang, member, core, scratchpad base and size, item queue and fetch. -/
structure Workgroup where
  gang : Nat
  member : Nat
  core : Nat
  base : Nat
  size : Nat
  items : List Nat
  /-- Groups whose refill waits for a chunk, in the order they reached the queue (07 R129). -/
  waiters : List Nat
  fetching : Bool
  /-- A fetch has returned no chunk, 07 R127. -/
  dry : Bool
  live : Bool
  deriving DecidableEq, Repr

def Workgroup.none : Workgroup :=
  { gang := 0, member := 0, core := 0, base := 0, size := 0, items := [], waiters := [], fetching := false, dry := false, live := false }

/-- A gang resident on cores: launch, die, first core, members, index, record, wire tag. -/
structure Gang where
  id : Nat
  launch : Nat
  vdev : BitVec 8
  die : Nat
  core : Nat
  members : Nat
  idx : Nat
  record : Nat
  wire : Option Nat
  wgs : List Nat
  groups : List Nat
  deriving DecidableEq, Repr

/-- A gang taken off its cores with its saved groups and scratchpad rows, 19 R350. -/
structure Saved where
  gang : Gang
  groups : List (Nat × Group)
  wgs : List (Nat × Workgroup)
  /-- Saved rows: member, byte offset in the member's part, value; and tagged rows. -/
  bytes : List (Nat × Nat × Byte)
  tags : List (Nat × Nat)
  deriving DecidableEq, Repr

/-- A world, 23 R377, R380, R385: key slot with its three 256-bit keys (four words each: the two of XTS, then that of the tag), bound virtual devices,
measurement, halted. -/
structure World where
  keyed : Bool
  keys : List DWord
  vdevs : BitVec 256
  mrw : List Byte
  halted : Bool
  deriving DecidableEq, Repr

def World.none : World := { keyed := false, keys := [], vdevs := 0, mrw := [], halted := false }

/-- An address space, 11 R199: root table and generation. -/
structure Space where
  root : DWord
  gen : BitVec 10
  deriving DecidableEq, Repr

def Space.none : Space := { root := 0, gen := 0 }

/-- A reduction held in a switch, 21 R372: the writes held so far and their sources. -/
structure Reduction where
  r : RemoteTlp
  data : List (List Byte)
  pkgs : List Nat
  since : Nat
  deriving DecidableEq, Repr

/-- The registers of the host that ENTER put away, 23 R381. -/
structure HostSave where
  core : Nat
  g : Group
  deriving DecidableEq, Repr

/-- What happens next: a group issues, or a step of the table that is no instruction takes place. -/
inductive Act where
  | issue (gid : Nat)
  | event (i : Instr)
  deriving DecidableEq, Repr

/-- The state of the package. -/
structure State where
  /-- The package cycle counter, 24 R394. -/
  clock : Nat
  /-- 600 MHz cycles since reset, which corrections of the counter leave alone (24 R394, R399). -/
  cycles : Nat
  /-- Bytes of every home, by physical address; an unlisted byte reads as `Memory.fill`. -/
  mem : List Host.Cell
  groups : Tab Group
  cores : Tab Core
  dies : Tab Die
  ios : Tab IoDie
  spaces : Tab Space
  reqs : List Req
  passes : List Pass
  /-- Index: virtual device. -/
  rings : Tab Ring
  launches : List Launch
  gangs : List Gang
  wgs : Tab Workgroup
  saved : List Saved
  steals : List Steal
  worlds : Tab World
  mr0 : List Byte
  mr1 : List Byte
  reductions : List Reduction
  hosts : List HostSave
  /-- The correction of the counter in force, 24 R394: cycles ahead (positive) or behind. -/
  drift : Int
  /-- The compute dies are in reset or without power: after a trip, or a boot that failed (24 R392, R397). -/
  off : Bool
  /-- They are so after a trip, from which only a cold reset restarts it (24 R397). -/
  tripped : Bool
  /-- The contexts of the launches copied, as virtual device and CTXID, with the dies on which no VDRESET of it has come since (19 R355). -/
  contexts : List (Nat × Nat × BitVec 32)
  /-- A launch has been copied since the last cold reset (24 R394). -/
  launched : Bool
  /-- The images of the west and east I/O die while Signet has not yet started the system firmware, and the version of the one booted (23 R376). -/
  boot : Option (List Byte × List Byte)
  version : Nat
  /-- The group that issues. -/
  cur : Nat
  /-- The model's own: the acts to come, the cycles the next steps take, the next request number, the next free value. -/
  agenda : List Act
  pace : List Nat
  seq : Nat
  free : Nat
  deriving DecidableEq, Repr

/-- What a byte of memory reads as while nothing has written it (assumption 1). -/
def Memory.fill : Byte := 0

/-- The canonical form of memory: addresses strictly rising, no entry equal to `Memory.fill`. -/
abbrev Memory.wf (m : List Host.Cell) : Bool := Tab.wf Memory.fill m

/-- The group of a system core's lane 0, running at level 3 (02 R35). Its extended block is the whole pool of 128 registers, so its bound is 192 from
reset on (assumption 84). -/
def Group.system : Group :=
  { Group.vacant with status := .running, lanes := [(0, { Lane.vacant with occupied := true })], gsw := 0x0C000000#32, ext := 128 }

/-- The package right after cold reset: Signet runs at level 3 on system core 0 of each I/O die and has yet to start the system firmware, every other core
holds no group, memory lists nothing. -/
def State.reset : State :=
  { clock := 0, cycles := 0, mem := [], groups := [(65536, Group.system), (67584, Group.system)], cores := [], dies := [], ios := [], spaces := [], reqs := [],
    passes := [], rings := [], launches := [], gangs := [], wgs := [], saved := [], steals := [], worlds := [], mr0 := [], mr1 := [], reductions := [], hosts := [],
    drift := 0, off := false, tripped := false, contexts := [], launched := false, boot := some ([], []), version := 0, cur := 65536, agenda := [], pace := [], seq := 1, free := 0 }

end Sys2Proof.Machine
end

