-- ==== Sys2Proof/Machine/Operands.lean ====
section
/-!
DEFINITION. Reading and writing operands: keys, lanes, registers and their tags, every operand form of 01 R9, latches and slots
(02 R22 to R31), the guard and the issue address (02 R32, 07 R123, R124).
-/

namespace Sys2Proof.Machine

/-- The core, slot and die of a group key, and the die and number of a core key. -/
def coreOf (gid : Nat) : Nat := gid / 32
def slotOf (gid : Nat) : Nat := gid % 32
def dieOf (gid : Nat) : Nat := gid / 2048
def coreDie (cid : Nat) : Nat := cid / 64
def coreNo (cid : Nat) : Nat := cid % 64
/-- The key of a system core's group: its die is 32 or 33. -/
def isSystem (gid : Nat) : Bool := decide (65536 ≤ gid)

def State.group (s : State) (gid : Nat) : Group := Tab.get Group.vacant s.groups gid
def State.setGroup (s : State) (gid : Nat) (g : Group) : State := { s with groups := Tab.put s.groups gid g }
def State.core (s : State) (cid : Nat) : Core := Tab.get Core.reset s.cores cid
def State.setCore (s : State) (cid : Nat) (c : Core) : State := { s with cores := Tab.put s.cores cid c }
def State.queue (s : State) (cid q : Nat) : Queue := Tab.get Queue.reset (s.core cid).queues q
def State.setQueue (s : State) (cid q : Nat) (x : Queue) : State := s.setCore cid { s.core cid with queues := Tab.put (s.core cid).queues q x }
def State.die (s : State) (d : Nat) : Die := Tab.get Die.reset s.dies d
def State.setDie (s : State) (d : Nat) (x : Die) : State := { s with dies := Tab.put s.dies d x }
def State.io (s : State) (d : Nat) : IoDie := Tab.get IoDie.reset s.ios d
def State.setIo (s : State) (d : Nat) (x : IoDie) : State := { s with ios := Tab.put s.ios d x }
def State.space (s : State) (a : Nat) : Space := Tab.get Space.none s.spaces a
def State.setSpace (s : State) (a : Nat) (x : Space) : State := { s with spaces := Tab.put s.spaces a x }
def State.world (s : State) (w : Nat) : World := Tab.get World.none s.worlds w
def State.setWorld (s : State) (w : Nat) (x : World) : State := { s with worlds := Tab.put s.worlds w x }
def State.wg (s : State) (w : Nat) : Workgroup := Tab.get Workgroup.none s.wgs w
def State.setWg (s : State) (w : Nat) (x : Workgroup) : State := { s with wgs := Tab.put s.wgs w x }

/-- A group occupies its slot. -/
def Group.resident (g : Group) : Bool := g.status != .vacant

/-- A free value: the next of the constants nothing constrains (assumption 10). -/
def State.draw (s : State) : State := { s with free := s.free + 1 }

/-! Lanes. -/

def Group.lane (g : Group) (l : Nat) : Lane := Tab.get Lane.vacant g.lanes l
def Group.setLane (g : Group) (l : Nat) (x : Lane) : Group := { g with lanes := Tab.put g.lanes l x }
def Group.tr (g : Group) (m : Nat) : TrapRegs := Tab.get TrapRegs.zero g.trap m
def Group.setTr (g : Group) (m : Nat) (t : TrapRegs) : Group := { g with trap := Tab.put g.trap m t }

/-- PRIV, STEP, DRM and AEN of GSW, 02 R33. -/
def Group.priv (g : Group) : Nat := bitsOf g.gsw.toNat 27 26
def Group.step (g : Group) : Bool := g.gsw.getLsbD 28
def Group.drm (g : Group) : Rnd := Rnd.ofCode (bitsOf g.gsw.toNat 10 8)
def Group.aen (g : Group) : Nat := bitsOf g.gsw.toNat 20 16
def Group.setPriv (g : Group) (m : Nat) : Group := { g with gsw := BitVec.ofNat 32 (putBits g.gsw.toNat 27 26 m) }
def Group.setStep (g : Group) (b : Bool) : Group := { g with gsw := BitVec.ofNat 32 (putBits g.gsw.toNat 28 28 b.toNat) }

/-- A trap is in progress at level m. -/
def Group.act (g : Group) (m : Nat) : Bool := (g.tr m).tstat.getLsbD 0

/-- The lanes that a trap in progress holds parked, 07 R123, 18 R323. -/
def Group.parked (g : Group) : Mask :=
  [0, 1, 2, 3].foldl (fun a m => if g.act m then a ||| (g.tr m).park else a) 0#32

/-- The live lanes: they hold an item and are not parked. -/
def Group.live (g : Group) : Mask := maskOf (fun l => (g.lane l).occupied && !g.parked.has l)

/-- The lanes that hold an item. -/
def Group.holding (g : Group) : Mask := maskOf (fun l => (g.lane l).occupied)

/-- The issue address: the least PC of the live lanes, 07 R124; none without a live lane. -/
def Group.issueAddr (g : Group) : Option DWord :=
  g.live.lanes.foldl (fun a l => match a with
    | none => some (g.lane l).pc
    | some p => if (g.lane l).pc.toNat < p.toNat then some (g.lane l).pc else some p) none

/-- The lanes at an address. -/
def Group.atPc (g : Group) (pc : DWord) : Mask := maskOf (fun l => g.live.has l && (g.lane l).pc == pc)

/-- The bound of 05 R81. -/
def Group.bound (g : Group) : Nat := 64 + g.ext

/-! Registers. -/

def key (r l : Nat) : Nat := r * 32 + l

/-- A lane's copy of a register: zero unless its tag is the lane's generation (02 R22). -/
def Group.reg (g : Group) (l r : Nat) : Word :=
  if Tab.get 0 g.tag (key r l) = (g.lane l).gen then Tab.get 0 g.v (key r l) else 0#32

def Group.isEmpty (g : Group) (r : Nat) : Bool := Tab.get false g.empt r
def Group.setEmpty (g : Group) (r : Nat) (b : Bool) : Group := { g with empt := Tab.set false g.empt r b }
/-- Mark n registers from r empty, or full. -/
def Group.setEmpties (g : Group) (r n : Nat) (b : Bool) : Group := (List.range n).foldl (fun g i => g.setEmpty (r + i) b) g

def Group.slot (g : Group) (n : Nat) : OcSlot := Tab.get OcSlot.empty g.oc n
def Group.setSlot (g : Group) (n : Nat) (x : OcSlot) : Group := { g with oc := Tab.put g.oc n x }

/-- Every valid slot that mirrors register r takes the lane's new value, 02 R25. -/
def updateSlots (oc : Tab OcSlot) (r l : Nat) (x : Word) : Tab OcSlot :=
  oc.map (fun p => if p.2.valid && p.2.reg == r then (p.1, { p.2 with vals := Tab.set 0 p.2.vals l x }) else p)

/-- A write of one lane of a register: value, tag, and the slots that mirror it; a dead register revives (02 R22, R25, R30). -/
def Group.wrReg (g : Group) (l r : Nat) (x : Word) : Group :=
  { g with v := Tab.set 0 g.v (key r l) x, tag := Tab.set 0 g.tag (key r l) (g.lane l).gen,
           badReg := Tab.set false g.badReg (key r l) false, dead := Tab.set false g.dead r false, oc := updateSlots g.oc r l x }

/-- Kill a register: it reads as zero in every lane until written, 02 R30. -/
def Group.kill (g : Group) (r : Nat) : Group :=
  { g with v := Tab.setAll 0 0 (laneList.map (key r)) g.v, tag := Tab.setAll 0 0 (laneList.map (key r)) g.tag,
           dead := Tab.set false g.dead r true }

/-- Every latch and slot becomes invalid: a descheduling point, 02 R26, R27. -/
def Group.desched (g : Group) : Group :=
  { g with lanes := g.lanes.map (fun p => (p.1, { p.2 with laOk := 0 })),
           oc := g.oc.map (fun p => (p.1, { p.2 with valid := false })) }

/-- The latches shift and take a result, 02 R24. -/
def Lane.shift (x : Lane) (v : DWord) : Lane :=
  { x with la := Tab.set 0 (Tab.set 0 (Tab.set 0 (Tab.set 0 x.la 3 (Tab.get 0 x.la 2)) 2 (Tab.get 0 x.la 1)) 1 (Tab.get 0 x.la 0)) 0 v,
           laOk := (x.laOk <<< 1) ||| 1#4, laAt := 0 :: x.laAt.take 3 }

/-- A 32-bit destination, 02 R31. -/
def Group.wr32 (g : Group) (l : Nat) (d : Opnd) (x : Word) : Group :=
  match d with
  | .v n => g.wrReg l n.val x
  | .lc n => g.setLane l { g.lane l with lc := Tab.set 0 (g.lane l).lc n.val x }
  | _ => g

/-- A 64-bit destination: both halves of the pair, 02 R21. -/
def Group.wr64 (g : Group) (l : Nat) (d : Opnd) (x : DWord) : Group :=
  match d with
  | .v n => (g.wrReg l n.val (x.truncate 32)).wrReg l (n.val + 1) ((x >>> 32).truncate 32)
  | _ => g

/-- Predicate n of a lane; p7 reads as 1 (02 R20). -/
def Lane.pred (x : Lane) (n : Nat) : Bool := n = 7 || x.p.getLsbD n
/-- Write a predicate; a write to p7 is discarded. -/
def Lane.setPred (x : Lane) (n : Nat) (b : Bool) : Lane :=
  if n < 7 then { x with p := BitVec.ofNat 7 (putBits x.p.toNat n n b.toNat) } else x

/-! The context of an issue. -/

/-- An issue: its group, the instruction's address and length, at_pc, the lanes the guard enables, its fields. -/
structure Ctx where
  gid : Nat
  clock : Nat
  g : Group
  pc : DWord
  len : Nat
  at_ : Mask
  en : Mask
  x : Ext
  words : DWord
  deriving DecidableEq, Repr

/-- The issue of instruction `i` with fields `x` by the group that issues. -/
def State.ctx (s : State) (i : Instr) (x : Ext) : Ctx :=
  let g := s.group s.cur
  let pc := g.issueAddr.getD 0
  let a := g.atPc pc
  { gid := s.cur, clock := s.clock, g := g, pc := pc, len := i.len, at_ := a,
    en := maskOf (fun l => a.has l && ((g.lane l).pred x.pred.val != x.pneg)), x := x, words := i.headWords }

/-- The address of the next instruction. -/
def Ctx.next (c : Ctx) : DWord := c.pc + BitVec.ofNat 64 c.len

/-- The rounding mode in effect, 04 R60. -/
def Ctx.mode (c : Ctx) : Rnd := if c.x.rnd = .dyn then c.g.drm else c.x.rnd

/-- A special source as a 64-bit value, 02 R23. -/
def Ctx.special64 (c : Ctx) (l : Nat) : SpecialReg → DWord
  | .lane => BitVec.ofNat 64 l
  | .quad => BitVec.ofNat 64 (l / 4)
  | .item => (c.g.lane l).item.zeroExtend 64
  | .itemy => (c.g.lane l).itemy.zeroExtend 64
  | .itemz => (c.g.lane l).itemz.zeroExtend 64
  | .grp => BitVec.ofNat 64 (slotOf c.gid)
  | .wg => c.g.wgIdx.zeroExtend 64
  | .gang => c.g.gangIdx.zeroExtend 64
  | .core => BitVec.ofNat 64 (coreNo (coreOf c.gid))
  | .die => BitVec.ofNat 64 (dieOf c.gid)
  | .clk => BitVec.ofNat 64 c.clock
  | .clkh => BitVec.ofNat 64 c.clock >>> 32
  | .amask => c.at_.zeroExtend 64
  | .pcv => c.pc
  | .gen => (c.g.lane l).gen.zeroExtend 64
  | .zero => 0

/-- A 32-bit source, 02 R31, R39. -/
def Ctx.rd32 (c : Ctx) (l : Nat) : Opnd → Word
  | .v n => c.g.reg l n.val
  | .oc n => Tab.get 0 (c.g.slot n.val).vals l
  | .la n => (Tab.get 0 (c.g.lane l).la n.val).truncate 32
  | .lc n => Tab.get 0 (c.g.lane l).lc n.val
  | .sp r => (c.special64 l r).truncate 32
  | .imm k => BitVec.ofInt 32 (immValue k)
  | .none => 0
  | .lit => (c.x.lit.getD 0).truncate 32

/-- A 64-bit source, 02 R21, R23, 03 R39, R40. -/
def Ctx.rd64 (c : Ctx) (l : Nat) : Opnd → DWord
  | .v n => (c.g.reg l (n.val + 1)) ++ (c.g.reg l n.val)
  | .la n => Tab.get 0 (c.g.lane l).la n.val
  | .sp r => c.special64 l r
  | .imm k => BitVec.ofInt 64 (immValue k)
  | .lit => c.x.lit.getD 0
  | .oc n => (Tab.get 0 (c.g.slot n.val).vals l).zeroExtend 64
  | .lc n => (Tab.get 0 (c.g.lane l).lc n.val).zeroExtend 64
  | .none => 0

/-- A source of 32 or 64 bits as a number. -/
def Ctx.rd (c : Ctx) (l : Nat) (wide : Bool) (o : Opnd) : Nat := if wide then (c.rd64 l o).toNat else (c.rd32 l o).toNat

/-- A register quad, lowest register in the low bits, or a narrower source. -/
def Ctx.rdQuad (c : Ctx) (l : Nat) : Opnd → BitVec 128
  | .v n => c.g.reg l (n.val + 3) ++ c.g.reg l (n.val + 2) ++ c.g.reg l (n.val + 1) ++ c.g.reg l n.val
  | _ => 0

/-- read_lane of 08 R147: a lane source in any lane of the group. -/
def Ctx.rdLane (c : Ctx) (k : Nat) (wide : Bool) (o : Opnd) : Nat := c.rd k wide o

/-! The checks of reading sources. -/

/-- The outcome of a check: pass, wait and try again, or a trap with its cause and TADDR. -/
inductive Chk where
  | ok
  | wait
  | trap (cause addr : Nat)
  deriving DecidableEq, Repr

/-- The first outcome that is not a pass. -/
def Chk.and (a : Chk) (b : Chk) : Chk := match a with | .ok => b | _ => a

/-- Cause codes of 18 R326. -/
def cIllegal : Nat := 0x01
def cPriv : Nat := 0x02
def cRegBound : Nat := 0x03
def cStale : Nat := 0x04
def cEmpty : Nat := 0x05
def cUniform : Nat := 0x06
def cMask : Nat := 0x07
def cBarClobber : Nat := 0x08
def cMisalign : Nat := 0x09
def cPageFault : Nat := 0x0A
def cPermission : Nat := 0x0B
def cGenStale : Nat := 0x0C
def cAccOwner : Nat := 0x0D
def cAccType : Nat := 0x0E
def cPromise : Nat := 0x0F
def cArith : Nat := 0x10
def cBreakpoint : Nat := 0x11
def cStep : Nat := 0x12
def cSoftware : Nat := 0x13
def cMachineCheck : Nat := 0x14
def cIntegrity : Nat := 0x15
def cRemote : Nat := 0x16
def cPreempt : Nat := 0x17
def cWatchdog : Nat := 0x18

/-- A source of an issue: its operand, how many registers it names, its policy and dead bits, and the lanes in which it is read beside the enabled ones. -/
structure Src where
  o : Opnd
  n : Nat
  pol : Bool
  dead : Bool
  far : List Nat
  deriving DecidableEq, Repr

/-- The bound on one operand, 05 R81. -/
def Group.chkBound (g : Group) (o : Opnd) (n : Nat) : Chk :=
  match o with
  | .v r => if r.val + n ≤ g.bound then .ok else .trap cRegBound r.val
  | _ => .ok

/-- Registers r to r + n - 1 are full; else wait or trap by the policy, 02 R29. -/
def Group.chkFull (g : Group) (pol : Bool) (r : Nat) : Nat → Chk
  | 0 => .ok
  | n + 1 => if g.isEmpty r then (if pol then .trap cEmpty r else .wait) else g.chkFull pol (r + 1) n

/-- One source in one lane: full and not stale, 02 R26, R29. -/
def Group.chkSrc (g : Group) (l : Nat) (s : Src) : Chk :=
  match s.o with
  | .v r => g.chkFull s.pol r.val s.n
  | .oc n => if (g.slot n.val).valid then .ok else .trap cStale (0xC0 + n.val)
  | .la n => if (g.lane l).laOk.getLsbD n.val then .ok else .trap cStale (0xC8 + n.val)
  | _ => .ok

/-- The lanes of a set whose bits of a register hold an uncorrectable error (18 R333). -/
def Group.badLanes (g : Group) (en : Mask) (r : Nat) : Mask := maskOf (fun l => en.has l && Tab.get false g.badReg (key r l))

/-- The registers of a source, as they are read at the issue, hold no such error in the enabled lanes, nor in the other lanes in which it is read. -/
def Group.chkSound (g : Group) (en : Mask) (s : Src) : Chk :=
  match s.o with
  | .v r =>
    match (List.range s.n).find? (fun i => g.badLanes en (r.val + i) != 0 || s.far.any (fun l => Tab.get false g.badReg (key (r.val + i) l))) with
    | some i => .trap cMachineCheck (0x10000 + r.val + i)
    | none => .ok
  | _ => .ok

/-- The copy of register r that lane l reads holds no such error: the reads of an indexed register. -/
def Group.chkCopy (g : Group) (l r : Nat) : Chk := if Tab.get false g.badReg (key r l) then .trap cMachineCheck (0x10000 + r) else .ok

/-- The first outcome over a list that is not a pass. -/
def Chk.all {α : Type} (f : α → Chk) : List α → Chk
  | [] => .ok
  | a :: r => (f a).and (Chk.all f r)

/-- The checks of an issue, 02 R31, R32: bounds of sources and destination, then lane by lane each source in its order,
then the destination, which waits until it is full, then the bits that are read (18 R333; assumption 90). Nothing is checked when no lane is enabled. -/
def Ctx.chk (c : Ctx) (srcs : List Src) (d : Opnd) (dn : Nat) : Chk :=
  if c.en = 0 then .ok
  else
    ((Chk.all (fun s => c.g.chkBound s.o s.n) srcs).and (c.g.chkBound d dn)).and
      (((Chk.all (fun l => Chk.all (c.g.chkSrc l) srcs) c.en.lanes).and
        (match d with | .v r => c.g.chkFull false r.val dn | _ => .ok)).and (Chk.all (c.g.chkSound c.en) srcs))

/-- Kill the sources whose dead bit is set, 02 R30. -/
def Group.killSrcs (g : Group) (srcs : List Src) : Group :=
  srcs.foldl (fun g s => match s.o with
    | .v r => if s.dead then (List.range s.n).foldl (fun g i => g.kill (r.val + i)) g else g
    | _ => g) g

/-- A source that is read in these lanes too. -/
def Src.over (s : Src) (ls : List Nat) : Src := { s with far := ls }
/-- A source without policy or dead bit. -/
def Src.plain (o : Opnd) (n : Nat) : Src := ⟨o, n, false, false, []⟩

end Sys2Proof.Machine

namespace Sys2Proof

/-- The sources in fields A, B and C with their bits. -/
def Ext.srcA (x : Ext) (n : Nat) : Machine.Src := ⟨x.a, n, x.fa, x.da, []⟩
def Ext.srcB (x : Ext) (n : Nat) : Machine.Src := ⟨x.b, n, x.fb, x.db, []⟩
def Ext.srcC (x : Ext) (n : Nat) : Machine.Src := ⟨x.c, n, x.fc, x.dc, []⟩

/-- The fields of Word 2 in each layout. -/
def Ext.imm (x : Ext) : Nat := match x.w2 with | .t imm _ _ _ => imm.toNat | _ => 0
def Ext.sty (x : Ext) : Ty := match x.w2 with | .t _ s _ _ => s | _ => .dflt
def Ext.dty (x : Ext) : Ty := match x.w2 with | .t _ _ d _ => d | _ => .dflt
def Ext.rsrc (x : Ext) : Opnd := match x.w2 with | .t _ _ _ r => r | _ => .v 0
def Ext.wval (x : Ext) : Nat := match x.w2 with | .w v => v.toNat | _ => 0
def Ext.wid (x : Ext) : Wid := match x.w2 with | .m _ _ _ _ w _ => w | _ => .b32
def Ext.cls (x : Ext) : Cls := match x.w2 with | .m _ _ _ c _ _ => c | _ => .ca
def Ext.ord (x : Ext) : Ord := match x.w2 with | .m _ _ o _ _ _ => o | _ => .rlx
def Ext.use (x : Ext) : Use := match x.w2 with | .m _ u _ _ _ _ => u | _ => .none
def Ext.scope (x : Ext) : Scope := match x.w2 with | .m s _ _ _ _ _ => s | _ => .grp
def Ext.off (x : Ext) : Int := match x.w2 with | .m _ _ _ _ _ o => o.toInt | _ => 0

end Sys2Proof

namespace Sys2Proof.Machine

/-! The loop stack and the PC. -/

/-- The end of a lane's instruction without a transfer: the loop stack is evaluated (06 R105), else the PC becomes `nxt`. -/
def loopEnd (pc nxt : DWord) : List LoopEntry → Lane → Lane
  | [], x => { x with loops := [], pc := nxt }
  | e :: r, x =>
    if e.stop = pc then
      let c := Tab.get 0 x.lc e.ctr
      let c' := if c = 0 then 0 else c - 1
      let x' := { x with lc := Tab.set 0 x.lc e.ctr c' }
      if c' = 0 then loopEnd pc nxt r x' else { x' with loops := e :: r, pc := e.start }
    else { x with loops := e :: r, pc := nxt }

def Lane.advance (x : Lane) (pc nxt : DWord) : Lane := loopEnd pc nxt x.loops x

/-- The PC of every lane of a set advances past the instruction. -/
def Group.advance (g : Group) (ls : Mask) (pc nxt : DWord) : Group :=
  ls.lanes.foldl (fun g l => g.setLane l ((g.lane l).advance pc nxt)) g

/-- Raise flags in a lane, 04 R68. -/
def Group.raise (g : Group) (l : Nat) (f : Fl) : Group :=
  g.setLane l { g.lane l with fflag := (g.lane l).fflag ||| f }

/-- The bookkeeping of an issue: when it was, and that the next comes no sooner than 4 cycles later (07 R141); its number, and STEP armed (18 R335, R337);
walk faults and a sleep to be resumed are spent. -/
def Group.issued (g : Group) (clock : Nat) : Group :=
  { g with lastIssue := clock, readySince := clock + 4, issueNo := g.issueNo + 1, faulted := false, walkFaults := [], resume := none, looksAgain := false, blocked := false,
           pend := { g.pend with step := g.pend.step || g.step, noBreak := none } }

/-- A result of one lane: a value for D, predicates, flags. -/
structure Eff where
  val : Nat
  preds : List (Nat × Bool)
  fl : Fl
  deriving DecidableEq, Repr

/-- A plain value. -/
def Eff.v (x : Nat) : Eff := ⟨x, [], 0⟩
/-- A value with flags. -/
def Eff.f (r : Nat × Fl) : Eff := ⟨r.1, [], r.2⟩
/-- A predicate result. -/
def Eff.p (n : Nat) (b : Bool) (f : Fl) : Eff := ⟨0, [(n, b)], f⟩

/-- What a form does with its register result: none, 32 bits, 64 bits; and whether the latches shift (02 R24). -/
inductive Dst where
  | none
  | w32
  | w64
  deriving DecidableEq, Repr
def Dst.n : Dst → Nat
  | .none => 0 | .w32 => 1 | .w64 => 2

/-- Write one lane's result: register, latches, predicates, flags. -/
def Group.apply (g : Group) (dk : Dst) (d : Opnd) (latch : Bool) (l : Nat) (e : Eff) : Group :=
  let g1 := match dk with
    | .none => g
    | .w32 => g.wr32 l d (BitVec.ofNat 32 e.val)
    | .w64 => g.wr64 l d (BitVec.ofNat 64 e.val)
  let v : DWord := match dk with
    | .w64 => BitVec.ofNat 64 e.val
    | _ => (BitVec.ofNat 32 e.val).zeroExtend 64
  let x := g1.lane l
  let x := if latch then x.shift v else x
  let x := e.preds.foldl (fun x p => x.setPred p.1 p.2) x
  g1.setLane l { x with fflag := x.fflag ||| e.fl }

end Sys2Proof.Machine
end

