-- ==== Sys2Proof/Machine/Ops.lean ====
section
/-!
DEFINITION. The shared operations of an issue: taking a trap and returning from one (18 R323 to R325, 23 R381, R382), machine-check
records (R334), stalls, and the issue of a form that computes lane by lane (02 R32).
-/

namespace Sys2Proof.Machine

/-- Record an error in MCLOG: the first stays, a further one sets OVF (18 R334). -/
def mclogRecord (log : DWord) (src wh : Nat) : DWord :=
  if log.getLsbD 63 then log ||| (1#64 <<< 62)
  else BitVec.ofNat 64 (2 ^ 63 + bitsOf log.toNat 62 62 * 2 ^ 62 + src % 64 * 2 ^ 56 + wh % 2 ^ 52)

def State.mclog (s : State) (cid src wh : Nat) : State :=
  s.setCore cid { s.core cid with mclog := mclogRecord (s.core cid).mclog src wh }

/-- The system core that Signet names for a die. -/
def namedSysCore (die : Nat) : Nat := (32 + Config.namedCore die % 2) * 64 + Config.namedCore die / 2 % 16

/-- Set a bit of IPEND. -/
def State.setIpend (s : State) (cid bit : Nat) : State :=
  s.setCore cid { s.core cid with ipend := (s.core cid).ipend ||| (1#64 <<< bit) }

/-- TROUTE.LVL[c], 18 R322. -/
def Core.level (k : Core) (c : Nat) : Nat := bitsOf k.troute.toNat (2 * c - 1) (2 * c - 2)

/-- The least level of a cause, 18 R326. -/
def leastLevel (c : Nat) : Nat :=
  if c = cIntegrity then 3
  else if c = cMachineCheck ∨ c = cPreempt then 2
  else if c = cPageFault ∨ c = cPermission ∨ c = cGenStale ∨ c = cStep ∨ c = cRemote ∨ c = cWatchdog then 1
  else 0

/-- The level a trap goes to before escalation: R323, and in a world R382. `pr`: a fault on the private region. -/
def State.trapLevel (s : State) (gid cause : Nat) (pr : Bool) : Nat :=
  let g := s.group gid
  let r := (s.core (coreOf gid)).level cause
  let r := if g.world ≠ 0 ∧ r = 2 ∧ ¬ isSystem gid then
      (if cause = cAccOwner ∨ cause = cPreempt ∨ cause = cMachineCheck ∨ pr then 3 else 1) else r
  max r g.priv

/-- The first level from m upward without a trap in progress; 4 when there is none (R324). -/
def Group.freeLevel (g : Group) (m : Nat) : Nat :=
  if m ≤ 0 ∧ ¬ g.act 0 then 0 else if m ≤ 1 ∧ ¬ g.act 1 then 1 else if m ≤ 2 ∧ ¬ g.act 2 then 2 else if m ≤ 3 ∧ ¬ g.act 3 then 3 else 4

/-- What a trap carries: cause, TLANES, TADDR, TRAPPC, the deferred report's address and lanes, a fault on the private region. -/
structure TrapInfo where
  cause : Nat
  lanes : Mask
  addr : DWord
  pc : DWord
  defr : Option (DWord × Mask)
  pr : Bool
  deriving DecidableEq, Repr

/-- The sleep a trap interrupts, or one that RETT was about to resume: its address and wake cycle. -/
def Group.sleeping (g : Group) (pc : DWord) : Option (DWord × DWord) :=
  match g.wait with
  | .sleep w => some (pc, w)
  | _ => g.resume.map (fun w => (pc, w))

/-- Entry at level m of a group, R323. -/
def Group.enter (g : Group) (t : TrapInfo) (m : Nat) (dbl : Bool) (tvec : DWord) : Group :=
  let old := g.tr m
  let r : TrapRegs := { old with
    cause := BitVec.ofNat 8 t.cause, addr := t.addr, lanes := t.lanes, pc := t.pc, priv := BitVec.ofNat 2 g.priv,
    tstat := BitVec.ofNat 8 (1 + (if dbl then 2 else 0) + (if g.step then 4 else 0) + (if t.defr.isSome then 8 else 0)),
    dpc := (t.defr.map Prod.fst).getD old.dpc, dlanes := (t.defr.map Prod.snd).getD old.dlanes,
    park := g.live &&& ~~~t.lanes, sleep := g.sleeping t.pc }
  let g1 := ((g.setTr m r).setPriv m).setStep false
  let g2 := t.lanes.lanes.foldl (fun g l => g.setLane l { g.lane l with pc := tvec }) g1
  { g2.desched with wait := .none, looksAgain := false, resume := none, pend := { g.pend with step := false, noBreak := none } }

/-- A group that stops for good, its state intact (R324). -/
def State.stopGroup (s : State) (gid : Nat) : State := s.setGroup gid { s.group gid with status := .stopped }

/-- A world's registers put away by Signet before a level-2 trap of a system core (23 R381): the group as it stands without them. -/
def Group.scrubbed (g : Group) : Group :=
  { g with v := [], tag := [], world := 0,
           lanes := g.lanes.map (fun p => (p.1, { p.2 with p := 0, lc := [], la := [], fflag := 0 })) }

/-- Signet answers a MACHINE_CHECK that a group of a world takes at level 3 by stopping the group, as a trap beyond level 3 stops one: the error stands in
MCLOG, and the named system core learns of the stop (23 R382, assumption 101). -/
def State.signetStops (s : State) (gid cause n : Nat) : State :=
  if cause = cMachineCheck ∧ n = 3 ∧ (s.group gid).world ≠ 0 ∧ isSystem gid = false then (s.stopGroup gid).setIpend (namedSysCore (coreDie (coreOf gid))) 62 else s

/-- Taking a trap: R323, R324, R381, R382. -/
def State.trap (s : State) (gid : Nat) (t : TrapInfo) : State :=
  let cid := coreOf gid
  let s := s.setCore cid { s.core cid with xacqs := (s.core cid).xacqs.filter (fun x => x ≠ gid) }
  let g := s.group gid
  let m := s.trapLevel gid t.cause t.pr
  let n := g.freeLevel m
  if n = 4 then ((s.stopGroup gid).mclog cid 9 t.addr.toNat).setIpend (namedSysCore (coreDie cid)) 62
  else
    let world := isSystem gid && g.world != 0 && n == 2
    let s := if world then { s with hosts := ⟨cid, g⟩ :: s.hosts } else s
    let g := if world then g.scrubbed else g
    (s.setGroup gid (g.enter t n (n != m) (Tab.get 0 (s.core cid).tvec n))).signetStops gid t.cause n

/-- A trap raised at an issue: kinds I and L. The issue counts as one (18 R337), that of its passing lanes included, and arms no STEP (R335). `pr`: a fault
on the private region. -/
def State.trapPr (s : State) (c : Ctx) (cause : Nat) (lanes : Mask) (addr : DWord) (pr : Bool) : State :=
  let g := s.group c.gid
  (s.setGroup c.gid { g with lastIssue := s.clock, readySince := s.clock + 4, issueNo := c.g.issueNo + 1, faulted := true, walkFaults := [] }).trap c.gid
    { cause := cause, lanes := lanes, addr := addr, pc := c.pc, defr := none, pr := pr }
/-- Such a trap that is no fault on the private region. -/
def State.trapAt (s : State) (c : Ctx) (cause : Nat) (lanes : Mask) (addr : DWord) : State := s.trapPr c cause lanes addr false

/-- ILLEGAL and PRIV at an issue: TADDR holds the first words, TLANES is at_pc (03 R52). -/
def State.illegal (s : State) (c : Ctx) : State := s.trapAt c cIllegal c.at_ c.words
def State.privTrap (s : State) (c : Ctx) : State := s.trapAt c cPriv c.at_ c.words

/-- The group cannot issue yet: nothing changes but the cycle from which it counts as ready (07 R143). -/
def State.stall (s : State) (gid : Nat) : State := s.setGroup gid { s.group gid with readySince := s.clock + 1, blocked := true }

/-- The same at FEWAIT, CQWAIT and DCWAIT, which are waits (18 R329). -/
def State.stallWait (s : State) (gid : Nat) : State := s.setGroup gid { s.group gid with readySince := s.clock + 1, blocked := true, looksAgain := true }

/-- Something a group may have waited for has come: if its latest turn found it not ready, it is ready from now on (07 R143). -/
def Group.unblocked (g : Group) (clock : Nat) : Group := if g.blocked then { g with readySince := clock, blocked := false } else g
def State.unblock (s : State) (gid : Nat) : State := if (s.group gid).blocked then s.setGroup gid ((s.group gid).unblocked s.clock) else s

/-- The issue is done: the PCs of at_pc advance, loop ends are evaluated, the issue is counted. -/
def State.commit (s : State) (c : Ctx) (g : Group) : State :=
  s.setGroup c.gid ((g.advance c.at_ c.pc c.next).issued s.clock)

/-- The result of a form that computes lane by lane, from the values before the issue. -/
def Ctx.after (c : Ctx) (srcs : List Src) (dk : Dst) (d : Opnd) (latch : Bool) (f : Nat → Eff) : Group :=
  if c.en = 0 then c.g
  else c.en.lanes.foldl (fun g l => g.apply dk d latch l (f l)) (c.g.killSrcs srcs)

/-- An error in the register file found at an issue: logged, and trapped in the lanes whose bits failed (18 R333, R334); where only lanes that do not issue
hold it, whose bits the issue reads, it traps in the enabled lanes (assumption 90). -/
def State.regError (s : State) (c : Ctx) (addr : Nat) : State :=
  let m := c.g.badLanes c.en (addr - 0x10000)
  (s.mclog (coreOf c.gid) 4 addr).trapAt c cMachineCheck (if m = 0 then c.en else m) (BitVec.ofNat 64 addr)

/-- What the checks of an issue lead to: a stall, a trap, or the rest. -/
def State.gate (s : State) (c : Ctx) (k : Chk) (ok : State) : Host.Outcome State Fault Refusal :=
  match k with
  | .wait => .next (s.stall c.gid)
  | .trap cause addr => .next (if cause = cMachineCheck then s.regError c addr else s.trapAt c cause c.en (BitVec.ofNat 64 addr))
  | .ok => .next ok

/-- The issue of a form that reads sources, computes lane by lane and writes D. -/
def State.runLanes (s : State) (c : Ctx) (srcs : List Src) (dk : Dst) (d : Opnd) (latch : Bool) (f : Nat → Eff) :
    Host.Outcome State Fault Refusal :=
  s.gate c (c.chk srcs d dk.n) (s.commit c (c.after srcs dk d latch f))

/-- RETT at level m: lanes of TLANES go to `tgt`, the parked lanes are live again, level and STEP are restored (18 R325). The PC takes TRAPPC as it stands,
bits [1:0] too, as it takes a kernel's entry (assumption 85). -/
def Group.rett (g : Group) (m : Nat) (tgt : DWord) : Group :=
  let t := g.tr m
  let g1 := t.lanes.lanes.foldl (fun g l => if (g.lane l).occupied then g.setLane l { g.lane l with pc := tgt } else g) g
  let g2 := g1.setTr m { t with park := 0, tstat := t.tstat &&& 0xFE#8, sleep := none }
  let g3 := ((g2.setPriv t.priv.toNat).setStep (t.tstat.getLsbD 2)).desched
  { g3 with resume := match t.sleep with | some (p, w) => if p = tgt then some w else none | none => none,
            pend := { g3.pend with noBreak := some tgt } }

end Sys2Proof.Machine
end

