-- ==== Sys2Proof/Machine/Alu.lean ====
section
/-!
DEFINITION. Moves, integer arithmetic, logic, shifts, bit fields, integer compares, PLOP and CVTI (05 R80 to R91).
-/

namespace Sys2Proof.Machine

/-- Registers that a value of a type takes. -/
def regsOf (t : Ty) : Nat := if t.wide then 2 else 1
def dstOf (t : Ty) : Dst := if t.wide then .w64 else .w32

/-- A form that reads sources, computes one register result per lane and shifts the latches. -/
def State.alu (s : State) (i : Instr) (x : Ext) (srcs : List Src) (dk : Dst) (f : Ctx → Nat → Eff) : Host.Outcome State Fault Refusal :=
  s.runLanes (s.ctx i x) srcs dk x.d true (f (s.ctx i x))

/-- A form that writes a predicate: D names a predicate, and no latch shifts (R77). -/
def State.aluPred (s : State) (i : Instr) (x : Ext) (srcs : List Src) (f : Ctx → Nat → Bool × Fl) : Host.Outcome State Fault Refusal :=
  let c := s.ctx i x
  s.runLanes c srcs .none .none false (fun l => Eff.p x.d.code (f c l).1 (f c l).2)

/-- One, two and three 32-bit sources. -/
def State.alu1 (s : State) (i : Instr) (x : Ext) (f : Word → Word) : Host.Outcome State Fault Refusal :=
  s.alu i x [x.srcA 1] .w32 (fun c l => Eff.v (f (c.rd32 l x.a)).toNat)
def State.alu2 (s : State) (i : Instr) (x : Ext) (f : Word → Word → Word) : Host.Outcome State Fault Refusal :=
  s.alu i x [x.srcA 1, x.srcB 1] .w32 (fun c l => Eff.v (f (c.rd32 l x.a) (c.rd32 l x.b)).toNat)
def State.alu3 (s : State) (i : Instr) (x : Ext) (f : Word → Word → Word → Word) : Host.Outcome State Fault Refusal :=
  s.alu i x [x.srcA 1, x.srcB 1, x.srcC 1] .w32 (fun c l => Eff.v (f (c.rd32 l x.a) (c.rd32 l x.b) (c.rd32 l x.c)).toNat)
/-- Two and three 64-bit sources, and a 64-bit source with a 32-bit one. -/
def State.alu64 (s : State) (i : Instr) (x : Ext) (f : DWord → DWord → DWord) : Host.Outcome State Fault Refusal :=
  s.alu i x [x.srcA 2, x.srcB 2] .w64 (fun c l => Eff.v (f (c.rd64 l x.a) (c.rd64 l x.b)).toNat)
def State.aluSh64 (s : State) (i : Instr) (x : Ext) (f : DWord → Nat → DWord) : Host.Outcome State Fault Refusal :=
  s.alu i x [x.srcA 2, x.srcB 1] .w64 (fun c l => Eff.v (f (c.rd64 l x.a) (c.rd32 l x.b).toNat).toNat)

/-- R84 on two sources read as integers of the type: the exact result, wrapped or clamped, extended. -/
def State.int2 (s : State) (i : Instr) (x : Ext) (f : Int → Int → Int) : Host.Outcome State Fault Refusal :=
  s.alu i x [x.srcA 1, x.srcB 1] .w32 (fun c l =>
    Eff.v (x.dty.intResult x.sat (f (x.dty.readInt (c.rd32 l x.a).toNat) (x.dty.readInt (c.rd32 l x.b).toNat))))
def State.int1 (s : State) (i : Instr) (x : Ext) (f : Int → Int) : Host.Outcome State Fault Refusal :=
  s.alu i x [x.srcA 1] .w32 (fun c l => Eff.v (x.dty.intResult x.sat (f (x.dty.readInt (c.rd32 l x.a).toNat))))

/-! Moves, R80 to R82. -/

def movMeaning (i : Instr) (x : Ext) (s : State) : Host.Outcome State Fault Refusal := s.alu1 i x id
def execMov (d a : Opnd) (s : State) : Host.Outcome State Fault Refusal := movMeaning (.mov d a) (Ext.ofBase 0x02 d a .none) s
def execMovX (x : Ext) (s : State) : Host.Outcome State Fault Refusal := movMeaning (.movX x) x s
/-- SEL reads both sources and the predicate named in IMM. -/
def execSel (x : Ext) (s : State) : Host.Outcome State Fault Refusal :=
  s.alu (.sel x) x [x.srcA 1, x.srcB 1] .w32 (fun c l =>
    Eff.v (if (c.g.lane l).pred (x.imm % 8) != bitAt x.imm 3 then (c.rd32 l x.a).toNat else (c.rd32 l x.b).toNat))
def execMov64 (x : Ext) (s : State) : Host.Outcome State Fault Refusal :=
  s.alu (.mov64 x) x [x.srcA 2] .w64 (fun c l => Eff.v (c.rd64 l x.a).toNat)

/-- The lanes whose indexed register lies at or above the bound (R81), with the lowest one's register number. -/
def Ctx.overBound (c : Ctx) (k : Nat → Nat) : Mask := maskOf (fun l => c.en.has l && decide (c.g.bound ≤ k l))

/-- The indexed check of R81, then a step. -/
def State.checkIndex (s : State) (c : Ctx) (k : Nat → Nat) (rest : Host.Outcome State Fault Refusal) : Host.Outcome State Fault Refusal :=
  match (c.overBound k).first with
  | some l => .next (s.trapAt c cRegBound (c.overBound k) (BitVec.ofNat 64 (k l)))
  | none => rest

/-- The bounds of the registers that an issue names outright come before any read (R31); nothing is checked when no lane is enabled (R32). -/
def Ctx.chkBounds (c : Ctx) (os : List Opnd) : Chk := if c.en = 0 then .ok else Chk.all (fun o => c.g.chkBound o 1) os

/-- MOVX: the register number is N plus the lane's index, its bound checked before anything else is read; the indexed read obeys FA (R82). -/
def execMovx (x : Ext) (s : State) : Host.Outcome State Fault Refusal :=
  let c := s.ctx (.movx x) x
  let k := fun l => x.a.code + (c.rd32 l x.b).toNat
  match (c.chkBounds [x.b, x.d]).and (c.chk [x.srcB 1] .none 0) with
  | .ok => s.checkIndex c k
      (match (Chk.all (fun l => c.g.chkFull x.fa (k l) 1) c.en.lanes).and (Chk.all (fun l => c.g.chkCopy l (k l)) c.en.lanes) with
       | .ok => s.runLanes c [x.srcB 1] .w32 x.d true (fun l => Eff.v (c.g.reg l (k l)).toNat)
       | r => s.gate c r s)
  | r => s.gate c r s

/-- MOVXW: the write goes to register N plus the lane's index, its bound checked before the data is read, and waits while that register is
empty (R82). -/
def execMovxw (x : Ext) (s : State) : Host.Outcome State Fault Refusal :=
  let c := s.ctx (.movxw x) x
  let k := fun l => x.d.code + (c.rd32 l x.a).toNat
  match (c.chkBounds [x.a, x.b]).and (c.chk [x.srcA 1] .none 0) with
  | .ok => s.checkIndex c k
      (s.gate c ((c.chk [x.srcB 1] .none 0).and (Chk.all (fun l => c.g.chkFull false (k l) 1) c.en.lanes))
        (s.commit c (if c.en = 0 then c.g else
          c.en.lanes.foldl (fun g l =>
            let v := c.rd32 l x.b
            let g1 := g.wrReg l (k l) v
            g1.setLane l ((g1.lane l).shift (v.zeroExtend 64))) (c.g.killSrcs [x.srcA 1, x.srcB 1]))))
  | r => s.gate c r s

/-! Integer arithmetic, R83 to R86. -/

def iaddMeaning (i : Instr) (x : Ext) (s : State) : Host.Outcome State Fault Refusal := s.int2 i x (fun a b => a + b)
def execIadd (d a b : Opnd) (s : State) : Host.Outcome State Fault Refusal := iaddMeaning (.iadd d a b) (Ext.ofBase 0x03 d a b) s
def execIaddX (x : Ext) (s : State) : Host.Outcome State Fault Refusal := iaddMeaning (.iaddX x) x s
def execIadd64 (x : Ext) (s : State) : Host.Outcome State Fault Refusal := s.alu64 (.iadd64 x) x (fun a b => a + b)
/-- LEA: a 64-bit base plus a scaled index, sign-extended unless the type is .u32 (R86). -/
def execLea (x : Ext) (s : State) : Host.Outcome State Fault Refusal :=
  s.alu (.lea x) x [x.srcA 2, x.srcB 1] .w64 (fun c l =>
    Eff.v (c.rd64 l x.a + BitVec.ofInt 64 (x.dty.readInt (c.rd32 l x.b).toNat * 2 ^ (x.imm % 8))).toNat)
/-- IADDC and ISUBB: carry-in and carry-out through predicates (R85). -/
def carryForm (i : Instr) (x : Ext) (sub : Bool) (s : State) : Host.Outcome State Fault Refusal :=
  s.alu i x [x.srcA 1, x.srcB 1] .w32 (fun c l =>
    let ci : Int := if bitAt x.imm 3 then 0 else ((c.g.lane l).pred (x.imm % 8)).toNat
    let a : Int := (c.rd32 l x.a).toNat
    let b : Int := (c.rd32 l x.b).toNat
    let r := if sub then a - b - ci else a + b + ci
    ⟨Ty.u32.intResult x.sat r, [(x.imm / 16 % 8, if sub then decide (r < 0) else decide (2 ^ 32 ≤ r))], 0⟩)
def execIaddc (x : Ext) (s : State) : Host.Outcome State Fault Refusal := carryForm (.iaddc x) x false s
def execIsubb (x : Ext) (s : State) : Host.Outcome State Fault Refusal := carryForm (.isubb x) x true s
def isubMeaning (i : Instr) (x : Ext) (s : State) : Host.Outcome State Fault Refusal := s.int2 i x (fun a b => a - b)
def execIsub (d a b : Opnd) (s : State) : Host.Outcome State Fault Refusal := isubMeaning (.isub d a b) (Ext.ofBase 0x04 d a b) s
def execIsubX (x : Ext) (s : State) : Host.Outcome State Fault Refusal := isubMeaning (.isubX x) x s
def execIsub64 (x : Ext) (s : State) : Host.Outcome State Fault Refusal := s.alu64 (.isub64 x) x (fun a b => a - b)
def execIneg (x : Ext) (s : State) : Host.Outcome State Fault Refusal := s.int1 (.ineg x) x (fun a => -a)
def execIabs (x : Ext) (s : State) : Host.Outcome State Fault Refusal := s.int1 (.iabs x) x (fun a => (a.natAbs : Int))
def imulMeaning (i : Instr) (x : Ext) (s : State) : Host.Outcome State Fault Refusal := s.int2 i x (fun a b => a * b)
def execImul (d a b : Opnd) (s : State) : Host.Outcome State Fault Refusal := imulMeaning (.imul d a b) (Ext.ofBase 0x05 d a b) s
def execImulX (x : Ext) (s : State) : Host.Outcome State Fault Refusal := imulMeaning (.imulX x) x s
/-- IMULH: bits 63 to 32 of the exact product. -/
def execImulh (x : Ext) (s : State) : Host.Outcome State Fault Refusal := s.int2 (.imulh x) x (fun a b => (a * b) / 2 ^ 32)
def execImulw (x : Ext) (s : State) : Host.Outcome State Fault Refusal :=
  s.alu (.imulw x) x [x.srcA 1, x.srcB 1] .w64 (fun c l =>
    Eff.v (wrapInt 64 (x.dty.readInt (c.rd32 l x.a).toNat * x.dty.readInt (c.rd32 l x.b).toNat)))
def execImad (x : Ext) (s : State) : Host.Outcome State Fault Refusal :=
  s.alu (.imad x) x [x.srcA 1, x.srcB 1, x.srcC 1] .w32 (fun c l =>
    Eff.v (x.dty.intResult x.sat (x.dty.readInt (c.rd32 l x.a).toNat * x.dty.readInt (c.rd32 l x.b).toNat + x.dty.readInt (c.rd32 l x.c).toNat)))
def execImadw (x : Ext) (s : State) : Host.Outcome State Fault Refusal :=
  s.alu (.imadw x) x [x.srcA 1, x.srcB 1, x.srcC 2] .w64 (fun c l =>
    Eff.v (wrapInt 64 (x.dty.readInt (c.rd32 l x.a).toNat * x.dty.readInt (c.rd32 l x.b).toNat + (c.rd64 l x.c).toNat)))
def execImad64 (x : Ext) (s : State) : Host.Outcome State Fault Refusal :=
  s.alu (.imad64 x) x [x.srcA 2, x.srcB 2, x.srcC 2] .w64 (fun c l => Eff.v (c.rd64 l x.a * c.rd64 l x.b + c.rd64 l x.c).toNat)
def iminMeaning (i : Instr) (x : Ext) (s : State) : Host.Outcome State Fault Refusal := s.int2 i x (fun a b => min a b)
def execImin (d a b : Opnd) (s : State) : Host.Outcome State Fault Refusal := iminMeaning (.imin d a b) (Ext.ofBase 0x06 d a b) s
def execIminX (x : Ext) (s : State) : Host.Outcome State Fault Refusal := iminMeaning (.iminX x) x s
def execImax (x : Ext) (s : State) : Host.Outcome State Fault Refusal := s.int2 (.imax x) x (fun a b => max a b)

/-! Logic, shifts and bit operations, R87 to R89. -/

def andMeaning (i : Instr) (x : Ext) (s : State) : Host.Outcome State Fault Refusal := s.alu2 i x (fun a b => a &&& b)
def execAnd (d a b : Opnd) (s : State) : Host.Outcome State Fault Refusal := andMeaning (.and d a b) (Ext.ofBase 0x07 d a b) s
def execAndX (x : Ext) (s : State) : Host.Outcome State Fault Refusal := andMeaning (.andX x) x s
def execAndn (x : Ext) (s : State) : Host.Outcome State Fault Refusal := s.alu2 (.andn x) x (fun a b => a &&& ~~~b)
/-- BFUN: bit i is entry a_i + 2 b_i + 4 c_i of the table. -/
def bfun (t : Nat) (a b c : Word) : Word :=
  maskOf (fun i => bitAt t ((a.getLsbD i).toNat + 2 * (b.getLsbD i).toNat + 4 * (c.getLsbD i).toNat))
def execBfun (x : Ext) (s : State) : Host.Outcome State Fault Refusal := s.alu3 (.bfun x) x (bfun x.imm)
def orMeaning (i : Instr) (x : Ext) (s : State) : Host.Outcome State Fault Refusal := s.alu2 i x (fun a b => a ||| b)
def execOr (d a b : Opnd) (s : State) : Host.Outcome State Fault Refusal := orMeaning (.or d a b) (Ext.ofBase 0x08 d a b) s
def execOrX (x : Ext) (s : State) : Host.Outcome State Fault Refusal := orMeaning (.orX x) x s
def xorMeaning (i : Instr) (x : Ext) (s : State) : Host.Outcome State Fault Refusal := s.alu2 i x (fun a b => a ^^^ b)
def execXor (d a b : Opnd) (s : State) : Host.Outcome State Fault Refusal := xorMeaning (.xor d a b) (Ext.ofBase 0x09 d a b) s
def execXorX (x : Ext) (s : State) : Host.Outcome State Fault Refusal := xorMeaning (.xorX x) x s
def execNot (x : Ext) (s : State) : Host.Outcome State Fault Refusal := s.alu1 (.not x) x (fun a => ~~~a)
def shlMeaning (i : Instr) (x : Ext) (s : State) : Host.Outcome State Fault Refusal := s.alu2 i x (fun a b => a <<< b.toNat)
def execShl (d a b : Opnd) (s : State) : Host.Outcome State Fault Refusal := shlMeaning (.shl d a b) (Ext.ofBase 0x0A d a b) s
def execShlX (x : Ext) (s : State) : Host.Outcome State Fault Refusal := shlMeaning (.shlX x) x s
def execShl64 (x : Ext) (s : State) : Host.Outcome State Fault Refusal := s.aluSh64 (.shl64 x) x (fun a b => if b < 64 then a <<< b else 0)
def shrMeaning (i : Instr) (x : Ext) (s : State) : Host.Outcome State Fault Refusal := s.alu2 i x (fun a b => if b.toNat < 32 then a >>> b.toNat else 0)
def execShr (d a b : Opnd) (s : State) : Host.Outcome State Fault Refusal := shrMeaning (.shr d a b) (Ext.ofBase 0x0B d a b) s
def execShrX (x : Ext) (s : State) : Host.Outcome State Fault Refusal := shrMeaning (.shrX x) x s
def execSar (x : Ext) (s : State) : Host.Outcome State Fault Refusal := s.alu2 (.sar x) x (fun a b => a.sshiftRight (min b.toNat 32))
def execShr64 (x : Ext) (s : State) : Host.Outcome State Fault Refusal := s.aluSh64 (.shr64 x) x (fun a b => if b < 64 then a >>> b else 0)
def execSar64 (x : Ext) (s : State) : Host.Outcome State Fault Refusal := s.aluSh64 (.sar64 x) x (fun a b => a.sshiftRight (min b 64))
def execRotl (x : Ext) (s : State) : Host.Outcome State Fault Refusal := s.alu2 (.rotl x) x (fun a b => a.rotateLeft (b.toNat % 32))
/-- FSHL and FSHR: the 64-bit value a:b shifted by c mod 32. -/
def execFshl (x : Ext) (s : State) : Host.Outcome State Fault Refusal :=
  s.alu3 (.fshl x) x (fun a b c => (((a ++ b : DWord) <<< (c.toNat % 32)) >>> 32).truncate 32)
def execFshr (x : Ext) (s : State) : Host.Outcome State Fault Refusal :=
  s.alu3 (.fshr x) x (fun a b c => ((a ++ b : DWord) >>> (c.toNat % 32)).truncate 32)

/-- A bit-field control word: position and effective length (R88). -/
def bfPos (ctl : Word) : Nat := bitsOf ctl.toNat 4 0
def bfLen (ctl : Word) : Nat := min (min (bitsOf ctl.toNat 13 8) 32) (32 - bfPos ctl)
def bfMask (ctl : Word) : Word := BitVec.ofNat 32 ((2 ^ bfLen ctl - 1) * 2 ^ bfPos ctl)
def bfxMeaning (i : Instr) (x : Ext) (s : State) : Host.Outcome State Fault Refusal :=
  s.alu2 i x (fun a ctl =>
    let f := a.toNat / 2 ^ bfPos ctl % 2 ^ bfLen ctl
    if x.dty = .u32 then BitVec.ofNat 32 f else BitVec.ofInt 32 (toSigned (bfLen ctl) f))
def execBfx (d a b : Opnd) (s : State) : Host.Outcome State Fault Refusal := bfxMeaning (.bfx d a b) (Ext.ofBase 0x0C d a b) s
def execBfxX (x : Ext) (s : State) : Host.Outcome State Fault Refusal := bfxMeaning (.bfxX x) x s
def execBfi (x : Ext) (s : State) : Host.Outcome State Fault Refusal :=
  s.alu3 (.bfi x) x (fun a ctl c => (c &&& ~~~(bfMask ctl)) ||| ((a <<< bfPos ctl) &&& bfMask ctl))
def execBmsk (x : Ext) (s : State) : Host.Outcome State Fault Refusal := s.alu1 (.bmsk x) x bfMask

/-- The number of one bits, of leading zeros, of trailing zeros, and the bits reversed. -/
def popCount (a : Word) : Nat := (laneList.filter (fun i => a.getLsbD i)).length
def clzOf (a : Word) : Nat := 32 - bitLen a.toNat
def ctzOf (a : Word) : Nat := (laneList.find? (fun i => a.getLsbD i)).getD 32
def popcMeaning (i : Instr) (x : Ext) (s : State) : Host.Outcome State Fault Refusal := s.alu1 i x (fun a => BitVec.ofNat 32 (popCount a))
def execPopc (d a : Opnd) (s : State) : Host.Outcome State Fault Refusal := popcMeaning (.popc d a) (Ext.ofBase 0x0D d a .none) s
def execPopcX (x : Ext) (s : State) : Host.Outcome State Fault Refusal := popcMeaning (.popcX x) x s
def execClz (x : Ext) (s : State) : Host.Outcome State Fault Refusal := s.alu1 (.clz x) x (fun a => BitVec.ofNat 32 (clzOf a))
def execCtz (x : Ext) (s : State) : Host.Outcome State Fault Refusal := s.alu1 (.ctz x) x (fun a => BitVec.ofNat 32 (ctzOf a))
def execBrev (x : Ext) (s : State) : Host.Outcome State Fault Refusal := s.alu1 (.brev x) x (fun a => maskOf (fun i => a.getLsbD (31 - i)))

/-- One result byte of BYTEP under its selector byte, R89. -/
def bytepByte (pool sel : Nat) : Nat :=
  let b := pool / 2 ^ (8 * (sel % 8)) % 256
  match sel / 8 % 4 with
  | 0 => b
  | 1 => 0
  | 2 => if 128 ≤ b then 255 else 0
  | _ => 255
def execBytep (x : Ext) (s : State) : Host.Outcome State Fault Refusal :=
  s.alu3 (.bytep x) x (fun a b c =>
    let pool := a.toNat + 2 ^ 32 * b.toNat
    BitVec.ofNat 32 ([0, 1, 2, 3].foldl (fun r i => r + bytepByte pool (c.toNat / 2 ^ (8 * i) % 256) * 2 ^ (8 * i)) 0))

/-! Compares, predicate logic and integer conversion, R90 and R91. -/

def icmpMeaning (i : Instr) (x : Ext) (s : State) : Host.Outcome State Fault Refusal :=
  s.aluPred i x [x.srcA 1, x.srcB 1] (fun c l =>
    let a := x.dty.readInt (c.rd32 l x.a).toNat
    let b := x.dty.readInt (c.rd32 l x.b).toNat
    (condHolds x.imm (decide (a < b)) (decide (a = b)), 0))
def execIcmp (d a b : Opnd) (s : State) : Host.Outcome State Fault Refusal := icmpMeaning (.icmp d a b) (Ext.ofBase 0x0E d a b) s
def execIcmpX (x : Ext) (s : State) : Host.Outcome State Fault Refusal := icmpMeaning (.icmpX x) x s
def execIcmp64 (x : Ext) (s : State) : Host.Outcome State Fault Refusal :=
  s.aluPred (.icmp64 x) x [x.srcA 2, x.srcB 2] (fun c l =>
    let rd := fun (v : DWord) => if x.dty = .u64 then (v.toNat : Int) else v.toInt
    (condHolds x.imm (decide (rd (c.rd64 l x.a) < rd (c.rd64 l x.b))) (decide (c.rd64 l x.a = c.rd64 l x.b)), 0))
/-- PLOP: entry 4A + 2B + C of the table. -/
def execPlop (x : Ext) (s : State) : Host.Outcome State Fault Refusal :=
  s.aluPred (.plop x) x [] (fun c l =>
    let p := fun (o : Opnd) => ((c.g.lane l).pred o.code).toNat
    (bitAt x.imm (4 * p x.a + 2 * p x.b + p x.c), 0))
/-- CVTI: the exact value of the source under STY, wrapped or clamped into DTY. -/
def execCvti (x : Ext) (s : State) : Host.Outcome State Fault Refusal :=
  s.alu (.cvti x) x [x.srcA (regsOf x.sty)] (dstOf x.dty) (fun c l =>
    Eff.v (x.dty.intResult x.sat (x.sty.readInt (c.rd l x.sty.wide x.a))))

end Sys2Proof.Machine
end

