-- ==== Sys2Proof/Machine/Digest.lean ====
section
/-!
DEFINITION. SHAKE256 with 512 bits of output, the digest of every measurement (23 R377). The function is the published one of FIPS 202
(assumption 19: the manual names it and does not repeat it).
-/

namespace Sys2Proof

/-- The 25 lanes of the permutation's state, lane x + 5y. -/
abbrev Sponge := List (BitVec 64)

def Sponge.at_ (a : Sponge) (x y : Nat) : BitVec 64 := a.getD (x % 5 + 5 * (y % 5)) 0

/-- Every lane takes the parity of two neighbouring columns. -/
def Sponge.theta (a : Sponge) : Sponge :=
  let c := (List.range 5).map (fun x => a.at_ x 0 ^^^ a.at_ x 1 ^^^ a.at_ x 2 ^^^ a.at_ x 3 ^^^ a.at_ x 4)
  let d := (List.range 5).map (fun x => c.getD ((x + 4) % 5) 0 ^^^ (c.getD ((x + 1) % 5) 0).rotateLeft 1)
  (List.range 25).map (fun i => a.getD i 0 ^^^ d.getD (i % 5) 0)

/-- How far each lane is rotated. -/
def rhoShift : List Nat := [0, 1, 62, 28, 27, 36, 44, 6, 55, 20, 3, 10, 43, 25, 39, 41, 45, 15, 21, 8, 18, 2, 61, 56, 14]

/-- Rotation, then the move of lane (x, y) to (y, 2x + 3y). -/
def Sponge.rhoPi (a : Sponge) : Sponge :=
  (List.range 25).map (fun i =>
    let u := i % 5
    let v := i / 5
    let x := (u + 3 * v) % 5
    (a.at_ x u).rotateLeft (rhoShift.getD (x + 5 * u) 0))

/-- The step that is not linear. -/
def Sponge.chi (a : Sponge) : Sponge :=
  (List.range 25).map (fun i => let x := i % 5; let y := i / 5; a.at_ x y ^^^ (~~~(a.at_ (x + 1) y) &&& a.at_ (x + 2) y))

def roundConstants : List (BitVec 64) :=
  [0x0000000000000001#64, 0x0000000000008082#64, 0x800000000000808A#64, 0x8000000080008000#64, 0x000000000000808B#64, 0x0000000080000001#64,
   0x8000000080008081#64, 0x8000000000008009#64, 0x000000000000008A#64, 0x0000000000000088#64, 0x0000000080008009#64, 0x000000008000000A#64,
   0x000000008000808B#64, 0x800000000000008B#64, 0x8000000000008089#64, 0x8000000000008003#64, 0x8000000000008002#64, 0x8000000000000080#64,
   0x000000000000800A#64, 0x800000008000000A#64, 0x8000000080008081#64, 0x8000000000008080#64, 0x0000000080000001#64, 0x8000000080008008#64]

def Sponge.permute (a : Sponge) : Sponge :=
  roundConstants.foldl (fun a k => match a.theta.rhoPi.chi with | h :: t => (h ^^^ k) :: t | [] => []) a

/-- One block of 136 bytes goes into the state. -/
def Sponge.absorb (a : Sponge) (block : List Byte) : Sponge :=
  Sponge.permute ((List.range 25).map (fun i => a.getD i 0 ^^^ (if i < 17 then BitVec.ofNat 64 (ofBytesLE ((block.drop (8 * i)).take 8)) else 0)))

/-- All blocks of padded data. -/
def Sponge.absorbAll : Nat → Sponge → List Byte → Sponge
  | 0, a, _ => a
  | n + 1, a, bs => Sponge.absorbAll n (a.absorb (bs.take 136)) (bs.drop 136)

/-- The data with its padding, to a multiple of 136 bytes. -/
def shakePad (bs : List Byte) : List Byte :=
  let k := 136 - bs.length % 136
  if k = 1 then bs ++ [0x9F] else bs ++ 0x1F :: (List.replicate (k - 2) 0 ++ [0x80])

/-- The 64-byte digest. -/
def shake256 (bs : List Byte) : List Byte :=
  let p := shakePad bs
  let a := Sponge.absorbAll (p.length / 136) (List.replicate 25 0) p
  (a.take 8).flatMap (fun w => bytesLE 8 w.toNat)

end Sys2Proof
end

