-- ==== Sys2Proof/Machine/Seal.lean ====
section
/-!
DEFINITION. Sealing a sector (23 R385): AES-256 in XTS mode for the 256 bytes, KMAC256 for the tag. The manual names the functions and does not repeat
them: they are those of FIPS 197, IEEE 1619 and NIST SP 800-185 (assumption 19).
-/

namespace Sys2Proof

/-! AES-256. -/

/-- The substitution of a byte. -/
def aesBox : List Nat :=
  [0x63, 0x7C, 0x77, 0x7B, 0xF2, 0x6B, 0x6F, 0xC5, 0x30, 0x01, 0x67, 0x2B, 0xFE, 0xD7, 0xAB, 0x76] ++
  [0xCA, 0x82, 0xC9, 0x7D, 0xFA, 0x59, 0x47, 0xF0, 0xAD, 0xD4, 0xA2, 0xAF, 0x9C, 0xA4, 0x72, 0xC0] ++
  [0xB7, 0xFD, 0x93, 0x26, 0x36, 0x3F, 0xF7, 0xCC, 0x34, 0xA5, 0xE5, 0xF1, 0x71, 0xD8, 0x31, 0x15] ++
  [0x04, 0xC7, 0x23, 0xC3, 0x18, 0x96, 0x05, 0x9A, 0x07, 0x12, 0x80, 0xE2, 0xEB, 0x27, 0xB2, 0x75] ++
  [0x09, 0x83, 0x2C, 0x1A, 0x1B, 0x6E, 0x5A, 0xA0, 0x52, 0x3B, 0xD6, 0xB3, 0x29, 0xE3, 0x2F, 0x84] ++
  [0x53, 0xD1, 0x00, 0xED, 0x20, 0xFC, 0xB1, 0x5B, 0x6A, 0xCB, 0xBE, 0x39, 0x4A, 0x4C, 0x58, 0xCF] ++
  [0xD0, 0xEF, 0xAA, 0xFB, 0x43, 0x4D, 0x33, 0x85, 0x45, 0xF9, 0x02, 0x7F, 0x50, 0x3C, 0x9F, 0xA8] ++
  [0x51, 0xA3, 0x40, 0x8F, 0x92, 0x9D, 0x38, 0xF5, 0xBC, 0xB6, 0xDA, 0x21, 0x10, 0xFF, 0xF3, 0xD2] ++
  [0xCD, 0x0C, 0x13, 0xEC, 0x5F, 0x97, 0x44, 0x17, 0xC4, 0xA7, 0x7E, 0x3D, 0x64, 0x5D, 0x19, 0x73] ++
  [0x60, 0x81, 0x4F, 0xDC, 0x22, 0x2A, 0x90, 0x88, 0x46, 0xEE, 0xB8, 0x14, 0xDE, 0x5E, 0x0B, 0xDB] ++
  [0xE0, 0x32, 0x3A, 0x0A, 0x49, 0x06, 0x24, 0x5C, 0xC2, 0xD3, 0xAC, 0x62, 0x91, 0x95, 0xE4, 0x79] ++
  [0xE7, 0xC8, 0x37, 0x6D, 0x8D, 0xD5, 0x4E, 0xA9, 0x6C, 0x56, 0xF4, 0xEA, 0x65, 0x7A, 0xAE, 0x08] ++
  [0xBA, 0x78, 0x25, 0x2E, 0x1C, 0xA6, 0xB4, 0xC6, 0xE8, 0xDD, 0x74, 0x1F, 0x4B, 0xBD, 0x8B, 0x8A] ++
  [0x70, 0x3E, 0xB5, 0x66, 0x48, 0x03, 0xF6, 0x0E, 0x61, 0x35, 0x57, 0xB9, 0x86, 0xC1, 0x1D, 0x9E] ++
  [0xE1, 0xF8, 0x98, 0x11, 0x69, 0xD9, 0x8E, 0x94, 0x9B, 0x1E, 0x87, 0xE9, 0xCE, 0x55, 0x28, 0xDF] ++
  [0x8C, 0xA1, 0x89, 0x0D, 0xBF, 0xE6, 0x42, 0x68, 0x41, 0x99, 0x2D, 0x0F, 0xB0, 0x54, 0xBB, 0x16]
def aesSub (b : Byte) : Byte := BitVec.ofNat 8 (aesBox.getD b.toNat 0)

/-- Twice a byte in the field. -/
def aesTwice (b : Byte) : Byte := (b <<< 1) ^^^ (if b.getLsbD 7 then 0x1B#8 else 0#8)

/-- The exclusive or of two lists of bytes. -/
def xorBytes (a b : List Byte) : List Byte := (a.zip b).map (fun p => p.1 ^^^ p.2)

/-- The words of the key schedule after the first eight: each from the one before it and the one eight before it, the latest first. -/
def aesExpand : Nat → Nat → Byte → List (List Byte) → List (List Byte)
  | 0, _, _, ws => ws
  | n + 1, i, rc, ws =>
    let last := ws.getD 0 []
    let t := if i % 8 = 0 then xorBytes ((last.drop 1 ++ last.take 1).map aesSub) [rc, 0, 0, 0]
      else if i % 8 = 4 then last.map aesSub else last
    aesExpand n (i + 1) (if i % 8 = 0 then aesTwice rc else rc) (xorBytes (ws.getD 7 []) t :: ws)

/-- The first words of the schedule: the key itself. -/
def aesWords : Nat → List Byte → List (List Byte)
  | 0, _ => []
  | n + 1, k => k.take 4 :: aesWords n (k.drop 4)

/-- The fifteen round keys of a 32-byte key. -/
def aesRoundKeys (key : List Byte) : List (List Byte) :=
  let ws := (aesExpand 52 8 1 (aesWords 8 key).reverse).reverse
  (List.range 15).map (fun r => ((ws.drop (4 * r)).take 4).flatten)

/-- Row r of the block, by columns, rotates by r places. -/
def aesShift (b : List Byte) : List Byte := (List.range 16).map (fun i => b.getD ((i + 4 * (i % 4)) % 16) 0)

/-- Each column is multiplied by the fixed polynomial. -/
def aesMix (b : List Byte) : List Byte :=
  (List.range 16).map (fun i =>
    let at_ (k : Nat) : Byte := b.getD (i / 4 * 4 + (i + k) % 4) 0
    aesTwice (at_ 0) ^^^ (aesTwice (at_ 1) ^^^ at_ 1) ^^^ at_ 2 ^^^ at_ 3)

/-- The rounds after the first key: all but the last mix the columns. -/
def aesRounds : List (List Byte) → List Byte → List Byte
  | [], b => b
  | [k], b => xorBytes (aesShift (b.map aesSub)) k
  | k :: ks, b => aesRounds ks (xorBytes (aesMix (aesShift (b.map aesSub))) k)

/-- One block under a 32-byte key. -/
def aesEncrypt (keys : List (List Byte)) (b : List Byte) : List Byte := aesRounds (keys.drop 1) (xorBytes b (keys.getD 0 []))

/-! XTS. -/

/-- The tweak of the next block: twice it in the field of 128 bits. -/
def xtsNext (t : List Byte) : List Byte :=
  let v := ofBytesLE t
  bytesLE 16 (v * 2 % 2 ^ 128 ^^^ (if v < 2 ^ 127 then 0 else 0x87))

/-- The blocks of a unit, one after the other. -/
def xtsBlocks (keys : List (List Byte)) : Nat → List Byte → List Byte → List Byte
  | 0, _, _ => []
  | n + 1, t, bs => xorBytes (aesEncrypt keys (xorBytes (bs.take 16) t)) t ++ xtsBlocks keys n (xtsNext t) (bs.drop 16)

/-- The 256 bytes of a sector under the two keys, with a tweak. -/
def xtsEncrypt (key1 key2 : List Byte) (tweak : Nat) (bs : List Byte) : List Byte :=
  xtsBlocks (aesRoundKeys key1) 16 (aesEncrypt (aesRoundKeys key2) (bytesLE 16 tweak)) bs

/-! KMAC256. -/

/-- A number with its length in bytes before it, or behind it; numbers here are below 2^16. -/
def leftEncode (x : Nat) : List Byte := if x < 256 then [1, BitVec.ofNat 8 x] else [2, BitVec.ofNat 8 (x / 256), BitVec.ofNat 8 x]
def rightEncode (x : Nat) : List Byte := if x < 256 then [BitVec.ofNat 8 x, 1] else [BitVec.ofNat 8 (x / 256), BitVec.ofNat 8 x, 2]
/-- A string with its length in bits before it. -/
def encodeString (bs : List Byte) : List Byte := leftEncode (8 * bs.length) ++ bs
/-- Padded to whole blocks of 136 bytes, the width before it. -/
def bytePad (bs : List Byte) : List Byte :=
  let z := leftEncode 136 ++ bs
  z ++ List.replicate ((136 - z.length % 136) % 136) 0

/-- The padding of cSHAKE. -/
def cshakePad (bs : List Byte) : List Byte :=
  let k := 136 - bs.length % 136
  if k = 1 then bs ++ [0x84] else bs ++ 0x04 :: (List.replicate (k - 2) 0 ++ [0x80])

/-- KMAC256 with 512 bits of output and no customisation (assumption 19). -/
def kmac256 (key bs : List Byte) : List Byte :=
  let name : List Byte := [0x4B, 0x4D, 0x41, 0x43]
  let p := cshakePad (bytePad (encodeString name ++ encodeString []) ++ bytePad (encodeString key) ++ bs ++ rightEncode 512)
  ((Sponge.absorbAll (p.length / 136) (List.replicate 25 0) p).take 8).flatMap (fun w => bytesLE 8 w.toNat)

/-! The sealed sector. -/

/-- Key i (0 to 2) of a slot: four words of it, little-endian. -/
def slotKey (keys : List (BitVec 64)) (i : Nat) : List Byte := ((keys.drop (4 * i)).take 4).flatMap (fun w => bytesLE 8 w.toNat)

/-- The ciphertext of a sector at a physical address (R385). -/
def sealCipher (keys : List (BitVec 64)) (pa : Nat) (plain : List Byte) : List Byte := xtsEncrypt (slotKey keys 0) (slotKey keys 1) (pa / 256) plain

/-- The 8-byte tag of a sector of a world: over the ciphertext, then the address, then the world (R385). -/
def sealTag (keys : List (BitVec 64)) (pa : Nat) (world : BitVec 12) (plain : List Byte) : List Byte :=
  (kmac256 (slotKey keys 2) (sealCipher keys pa plain ++ bytesLE 8 pa ++ bytesLE 2 world.toNat)).take 8

end Sys2Proof
end

