-- ==== Sys2Proof/Machine/Memory.lean ====
section
/-!
DEFINITION. Physical addresses and memory bytes (11 R205, R206, R216, R225), where an access goes, ownership and sealing of memory (23 R378, R384 to R388),
and causal stamps (12 R237 to R239).
-/

namespace Sys2Proof.Machine

/-! The physical map. -/

/-- What a physical address names, R205. -/
inductive Region where
  | hbm (die : Nat)
  | spread
  | cxl
  | pcie (port : Nat)
  | bezel (page : Nat)
  | clasp
  | ctl (io : Nat)
  /-- The rest of the Bezel and Clasp range: no block stands there. -/
  | ioHole
  | onchip (die : Nat)
  | hole
  deriving DecidableEq, Repr

/-- The region of an address, with the pool size of the die that decodes it in units of 256 MiB. -/
def regionOf (pool pa : Nat) : Region :=
  if pa < 0x020000000000 then .hbm (pa / 2 ^ 36)
  else if pa < 0x040000000000 then .hole
  else if pa < 0x080000000000 then (if pa - 0x040000000000 < 32 * (pool * 2 ^ 28) then .spread else .hole)
  else if pa < 0x0C0000000000 then .cxl
  else if pa < 0x0E0000000000 then .pcie ((pa - 0x0C0000000000) / 2 ^ 36)
  else if pa < 0x0F0000000000 then
    if pa < 0x0E0010000000 then .bezel ((pa - 0x0E0000000000) / 4096)
    else if 0x0E8000000000 ≤ pa ∧ pa < 0x0E8000100000 then .clasp
    else if 0x0EFF00000000 ≤ pa then .ctl (if pa < 0x0EFF80000000 then 32 else 33)
    else .ioHole
  else if pa < 0x0F2000000000 then .onchip ((pa - 0x0F0000000000) / 2 ^ 32)
  else .hole

/-- Device-only regions of R205. -/
def Region.device : Region → Bool
  | .pcie _ | .bezel _ | .clasp | .ctl _ | .ioHole => true
  | _ => false

/-- Memory that the L2 caches: HBM4E, the spread window and CXL memory. -/
def Region.memory : Region → Bool
  | .hbm _ | .spread | .cxl => true
  | _ => false

/-- R206: the exclusive or of the 5-bit chunks of a block number. -/
def spreadDie (b : Nat) : Nat := (List.range 9).foldl (fun a k => a ^^^ (b / 2 ^ (5 * k) % 32)) 0

/-- R206: the local address of offset `o` of the spread window. -/
def spreadLocal (pool o : Nat) : Nat :=
  spreadDie (o / 2048) * 2 ^ 36 + 2 ^ 36 - pool * 2 ^ 28 + o / 2048 / 32 * 2048 + o % 2048

/-- The name in the spread window of a local address in the spread pool of its die, which R206 maps to one name; any other address names itself. -/
def poolName (pool lpa : Nat) : Nat :=
  let o := lpa % 2 ^ 36 + pool * 2 ^ 28 - 2 ^ 36
  if 0x020000000000 ≤ lpa ∨ lpa % 2 ^ 36 + pool * 2 ^ 28 < 2 ^ 36 then lpa
  else 0x040000000000 + (o / 2048 * 32 + (lpa / 2 ^ 36 ^^^ spreadDie (o / 2048 * 32))) * 2048 + o % 2048

/-- The address within its home's memory of an address of memory. -/
def localOf (pool pa : Nat) : Nat := if regionOf pool pa = .spread then spreadLocal pool (pa - 0x040000000000) else pa

/-- The home die of an address of memory, R205, R206, R216. -/
def homeOf (pool pa : Nat) : Nat :=
  let l := localOf pool pa
  if l < 0x020000000000 then l / 2 ^ 36
  else (if pa < 0x0A0000000000 then 0 else 7) + 8 * (pa / 1024 % 4)

/-- The pool size a die decodes with; an I/O die takes that of die 0 (assumption 13). -/
def State.pool (s : State) (die : Nat) : Nat := ((s.die (if die < 32 then die else 0)).pool).toNat

/-- A part of the CXL range without a device (R205): reads return 0xFF, writes are discarded. -/
def cxlHole (pa : Nat) : Bool := decide (0x080000000000 ≤ pa) && decide (pa < 0x0C0000000000) && !Config.cxlAssigned (pa / 2 ^ 28)

/-! Bytes of memory. -/

/-- The line of an HBM address has its clearing bit set, R225. -/
def State.clearingAt (s : State) (pa : Nat) : Bool :=
  decide (pa < 0x020000000000) && Tab.get false (s.die (pa / 2 ^ 36)).clearing (pa % 2 ^ 36 / 1024)

/-- The byte of memory at an address within its home. -/
def State.byteAt (s : State) (pa : Nat) : Byte := if s.clearingAt pa then 0 else Tab.get Memory.fill s.mem pa

/-- `n` bytes of memory from an address on. -/
def State.bytesAt (s : State) (pa : Nat) : Nat → List Byte
  | 0 => []
  | n + 1 => s.byteAt pa :: s.bytesAt (pa + 1) n

/-- A number stored at an address, little-endian. -/
def State.numAt (s : State) (pa n : Nat) : Nat := ofBytesLE (s.bytesAt pa n)

/-- The address lies outside the block of `size` bytes at `base`. -/
def outside (base size a : Nat) : Bool := decide (a < base) || decide (base + size ≤ a)

/-- A line whose clearing bit is set becomes zero bytes with the bit clear, R225. -/
def State.unclear (s : State) (pa : Nat) : State :=
  if s.clearingAt pa then
    let d := pa / 2 ^ 36
    let x := s.die d
    { s.setDie d { x with clearing := Tab.set false x.clearing (pa % 2 ^ 36 / 1024) false } with
      mem := Tab.keep (outside (pa / 1024 * 1024) 1024) s.mem }
  else s

/-- Write one byte of memory. -/
def State.storeByte (s : State) (pa : Nat) (b : Byte) : State :=
  let s := s.unclear pa
  { s with mem := Tab.set Memory.fill s.mem pa b }

/-- Write bytes from an address on. -/
def State.storeBytes (s : State) (pa : Nat) : List Byte → State
  | [] => s
  | b :: r => (s.storeByte pa b).storeBytes (pa + 1) r

/-- The 256 bytes of a sector as a table: the listed bytes of memory that lie in it. -/
def State.sectorBytes (s : State) (lpa : Nat) : Tab Byte :=
  let base := lpa / 256 * 256
  if s.clearingAt base then []
  else (Tab.keep (fun a => !outside base 256 a) s.mem).map (fun p => (p.1 - base, p.2))

/-- Bytes of a sector from an offset on. -/
def Sector.read (x : Sector) (off : Nat) : Nat → List Byte
  | 0 => []
  | n + 1 => Tab.get 0 x.bytes off :: x.read (off + 1) n

/-- The table of a list of bytes; a byte that is 0 is not listed. -/
def Tab.ofBytes (bs : List Byte) : Tab Byte := ((List.range bs.length).zip bs).filter (fun p => p.2 != 0)

/-- Put bytes into a sector from an offset on. -/
def Sector.write (x : Sector) (off : Nat) : List Byte → Sector
  | [] => x
  | b :: r => { x with bytes := Tab.set 0 x.bytes off b }.write (off + 1) r

/-- An absent sector. -/
def Sector.absent : Sector := { bytes := [], asid := 0, gen := 0, world := 0, epoch := 0, bad := false }

def Tab.find {α : Type} (t : Tab α) (i : Nat) : Option α := (t.find? (fun p => p.1 == i)).map Prod.snd

/-- A range of addresses cut at the boundaries of blocks of `m` bytes. -/
def cutRange (m : Nat) : Nat → Nat → Nat → List (Nat × Nat)
  | 0, _, _ => []
  | fuel + 1, va, n => if n = 0 then [] else let k := min n (m - va % m); (va, k) :: cutRange m fuel (va + k) (n - k)
def pieces (m va n : Nat) : List (Nat × Nat) := cutRange m (n / m + 2) va n

/-! Ownership of memory: the private region (23 R378), sealed regions (R384), halted worlds (R388). -/

/-- The address within its home lies in Signet's private region (R378). -/
def privateAddr (lpa : Nat) : Bool := decide (lpa < 0x020000000000) && decide (lpa % 2 ^ 36 < 0x80000000)
/-- A rejection of this cause, met by an access of this level, is a fault on the private region (23 R382). -/
def privateFault (cause level lpa : Nat) : Bool := cause == cPermission && decide (level < 3) && privateAddr lpa

/-- The home refuses a request of this level and world to a local address. -/
def State.refuses (s : State) (level : Nat) (world : BitVec 12) (lpa : Nat) : Bool :=
  (world != 0 && (s.world world.toNat).halted) ||
  (decide (lpa < 0x020000000000) &&
    ((decide (lpa % 2 ^ 36 < 0x80000000) && decide (level < 3)) ||
     (let o := Tab.get 0 (s.die (lpa / 2 ^ 36)).owner (lpa % 2 ^ 36 / 2 ^ 21)
      o.getLsbD 15 && o.truncate 12 != world)))

/-- Where the bits of a sector hold an uncorrectable error, as an SRC code; 0 for a sound sector (18 R333, R334). The device behind CXL memory may answer
the read of a line that its home slice does not hold with poison (16 R308): when it does, the model leaves open (assumption 92). -/
def State.errSrc (s : State) (home lpa : Nat) : Nat :=
  let k := Tab.get 0 (s.die home).bad (lpa / 256)
  if k = 0 ∧ 0x020000000000 ≤ lpa ∧ Tab.get false (s.die home).l2here (lpa / 256) = false ∧ Config.poisoned (lpa / 256) s.free = true then 1 else k
/-- The sector holds an uncorrectable error. -/
def State.badAt (s : State) (home lpa : Nat) : Bool := s.errSrc home lpa != 0

/-! Sealed sectors. -/

/-- The world that owns the sealed region of an address within its home (R384). -/
def State.sealedAt (s : State) (lpa : Nat) : Option (BitVec 12) :=
  if lpa < 0x020000000000 then
    let o := Tab.get 0 (s.die (lpa / 2 ^ 36)).owner (lpa % 2 ^ 36 / 2 ^ 21)
    if o.getLsbD 15 then some (o.truncate 12) else none
  else none

/-- The sector stands in plaintext in its world's ways at its home slice (R387). -/
def State.openedAt (s : State) (lpa : Nat) : Bool := Tab.get false (s.die (lpa / 2 ^ 36)).l2open (lpa / 256)

/-- Where the tag of a sector stands (R378). -/
def tagAddr (lpa : Nat) : Nat := lpa / 2 ^ 36 * 2 ^ 36 + 0x04000000 + (lpa % 2 ^ 36 / 256 * 256 - 0x80000000) / 32

/-- The tag of a sector under its world's keys (R385). Memory holds a sealed sector's plaintext; its ciphertext, which no request through the device
reads, follows from it and the keys (assumption 74). -/
def State.tagOf (s : State) (w : BitVec 12) (lpa : Nat) : List Byte :=
  sealTag (s.world w.toNat).keys (lpa / 256 * 256) w (s.bytesAt (lpa / 256 * 256) 256)

/-- A sector of a sealed region that does not stand in plaintext is sealed: its tag is written with it (R387). -/
def State.sealSector (s : State) (lpa : Nat) : State :=
  match s.sealedAt lpa with
  | some w => if s.openedAt lpa then s else s.storeBytes (tagAddr lpa) (s.tagOf w lpa)
  | none => s

/-- The tag beside a sealed sector is not that of its bytes: whoever opens it meets the mismatch (R388). -/
def State.tagBad (s : State) (lpa : Nat) : Bool :=
  match s.sealedAt lpa with
  | some w => !s.openedAt lpa && s.bytesAt (tagAddr lpa) 8 != s.tagOf w lpa
  | none => false

/-! Where an access goes. -/

/-- The I/O die of a root port. -/
def ioOfPort (n : Nat) : Nat := if n < 16 then 32 else 33

/-- An error register takes an error: the first stays, a further one sets OVF (16 R316). -/
def errRecord (r : DWord) (reason index port data : Nat) : DWord :=
  if r.getLsbD 63 then r ||| (1#64 <<< 62)
  else BitVec.ofNat 64 (2 ^ 63 + bitsOf r.toNat 62 62 * 2 ^ 62 + reason % 64 * 2 ^ 56 + index % 65536 * 2 ^ 40 + port % 256 * 2 ^ 32 + data % 2 ^ 32)

def State.rperr (s : State) (port reason data : Nat) : State :=
  let x := s.io (ioOfPort port)
  s.setIo (ioOfPort port) { x with rperr := Tab.put x.rperr (port % 16) (errRecord (Tab.get 0 x.rperr (port % 16)) reason 0 port data) }

/-- An access to a part of the CXL range without a device is logged at its root port (R205). -/
def State.logHole (s : State) (pa : Nat) : State := if cxlHole pa then s.rperr (Config.cxlPort (pa / 2 ^ 28)) 3 (pa % 2 ^ 32) else s

/-- A port takes remote writes (21 R367). -/
def State.isRhadin (s : State) (port : Nat) : Bool := (Tab.get 0 (s.io (ioOfPort port)).rhcfg (port % 16)).getLsbD 63

/-- The target of a physical address. -/
def State.targetOf (s : State) (pool pa : Nat) : Target :=
  match regionOf pool pa with
  | .pcie p => if s.isRhadin p && decide (2 ^ 28 ≤ (pa - 0x0C0000000000) % 2 ^ 36) then .remote p else .pcie p
  | .bezel p => .bezel p
  | .ctl io => .ctl io
  | .clasp | .ioHole => .bezel 65536
  | .onchip d => .window d
  | _ => if cxlHole pa then .nowhere (Config.cxlPort (pa / 2 ^ 28)) else .mem (homeOf pool pa)

/-- A mapped address of the spread range beyond the pool of the die that decodes it: the device does not check, and some byte is reached (R206). -/
def beyondPool (pool pa : Nat) : Bool := decide (0x040000000000 ≤ pa) && decide (pa < 0x080000000000) && regionOf pool pa == .hole

/-- The address within its home, and the target. A spread-window address beyond the die's own pool size reaches some byte of the top 32 GiB
of some die (R206): which one is a free value. -/
def State.placeOf (s : State) (pool pa : Nat) : Nat × Target × State :=
  if regionOf pool pa = .hole then
    let v := (Config.freeValue s.free).toNat
    let l := v % 32 * 2 ^ 36 + 2 ^ 35 + (v / 32 % 2 ^ 27) * 256 + pa % 256
    (l, .mem (l / 2 ^ 36), s.draw)
  else (localOf pool pa, s.targetOf pool pa, s)

/-! Stamps. -/

/-- `a` is not before `b` as serial numbers modulo 2^24 (R237). -/
def serialGe (a b : BitVec 24) : Bool := decide ((a - b).toNat < 2 ^ 23)
def serialMax (a b : BitVec 24) : BitVec 24 := if serialGe a b then a else b

/-- The stamp K of a compute die or of an I/O die's ordering point. -/
def State.kvec (s : State) (d : Nat) : Tab (BitVec 24) := if d < 32 then (s.die d).kst else (s.io d).kio

/-- The componentwise maximum of two stamps: an entry that one of them leaves unlisted is its 0, which counts like any number. -/
def stampMax (a b : Tab (BitVec 24)) : Tab (BitVec 24) :=
  (a ++ b).foldl (fun t p => Tab.set 0 t p.1 (serialMax (Tab.get 0 a p.1) (Tab.get 0 b p.1))) a

/-- K takes a new value; when it rises the epoch of a compute die does (R239). -/
def State.raiseK (s : State) (d : Nat) (k : Tab (BitVec 24)) : State :=
  if k = s.kvec d then s
  else if d < 32 then s.setDie d { s.die d with kst := k, epoch := (s.die d).epoch + 1 }
  else s.setIo d { s.io d with kio := k }

/-- The next number of a die's counter, with the stamp that carries it. -/
def State.nextNum (s : State) (d : Nat) : BitVec 24 × State :=
  let k := s.kvec d
  let n := Tab.get 0 k d + 1
  (n, s.raiseK d (Tab.set 0 k d n))

/-- A response's stamp merges into the die's K (R239). -/
def State.mergeStamp (s : State) (d : Nat) (m : Tab (BitVec 24)) : State := s.raiseK d (stampMax (s.kvec d) m)

/-- The home's frontiers cover a stamp, the home's own entry and the source's apart (R238, R374). An entry that the stamp leaves unlisted is 0. -/
def State.covers (s : State) (home src : Nat) (v : Tab (BitVec 24)) : Bool :=
  let f := (s.die home).front
  (v ++ f).all (fun p => p.1 == home || p.1 == src || serialGe (Tab.get 0 f p.1) (Tab.get 0 v p.1))

/-- A die whose counter would, n writes on, run 2^22 ahead of a home's frontier stalls its writes (R237). -/
def State.farAheadBy (s : State) (d n : Nat) : Bool :=
  (List.range 32).any (fun h => h != d && decide (2 ^ 22 < (Tab.get 0 (s.kvec d) d - Tab.get 0 (s.die h).front d).toNat + n)
    && serialGe (Tab.get 0 (s.kvec d) d) (Tab.get 0 (s.die h).front d))

end Sys2Proof.Machine
end

