-- ==== Sys2Proof/Machine/Fabric.lean ====
section
/-!
DEFINITION. The fabric of the package: dies and links, routes and their hops, routes around failed links, stamps as messages carry them
(21 R359, R360, R362, R364).
-/

namespace Sys2Proof.Machine

/-! Links. -/

/-- The die at the other end of a port, and the port there (R359). Ports of a compute die are north, south, east and west; an I/O die has one port for
each row. -/
def neighbour (d port : Nat) : Option (Nat × Nat) :=
  if d = 32 then (if port < 4 then some (8 * port, 3) else none)
  else if 33 ≤ d then (if port < 4 then some (8 * port + 7, 2) else none)
  else match port with
  | 0 => if 8 ≤ d then some (d - 8, 1) else none
  | 1 => if d < 24 then some (d + 8, 0) else none
  | 2 => if d % 8 < 7 then some (d + 1, 3) else some (33, d / 8)
  | 3 => if 0 < d % 8 then some (d - 1, 2) else some (32, d / 8)
  | _ => none

/-- The link at a port of a die has failed. -/
def State.linkBad (s : State) (d port : Nat) : Bool := if d < 32 then (s.die d).linkst.getLsbD port else (s.io d).linkst.getLsbD port

/-! Routes. -/

/-- The port by which a route leaves a die: along the row first, then along the column; a route of an I/O die enters the array in the row of its
destination, one between the I/O dies runs through row 0 (R360). -/
def portTo (d h : Nat) : Nat :=
  if 32 ≤ d then (if h < 32 then h / 8 else 0)
  else if h = 32 then 3 else if h = 33 then 2
  else if d % 8 < h % 8 then 2 else if h % 8 < d % 8 then 3 else if d / 8 < h / 8 then 1 else 0

/-- The port of a route between compute dies that runs along the column first (R364). -/
def portCol (d h : Nat) : Nat :=
  if 32 ≤ d ∨ 32 ≤ h then portTo d h
  else if d / 8 < h / 8 then 1 else if h / 8 < d / 8 then 0 else if d % 8 < h % 8 then 2 else 3

/-- The links, by die and port, of the route that leaves each die by the port `f` gives. -/
def pathBy (f : Nat → Nat) (dst : Nat) : Nat → Nat → List (Nat × Nat)
  | 0, _ => []
  | fuel + 1, d =>
    if d = dst then []
    else match neighbour d (f d) with
      | some (e, _) => (d, f d) :: pathBy f dst fuel e
      | none => []

/-- The dies that one more hop over sound links reaches, each with its path. -/
def State.spreadHop (s : State) (seen : List Nat) (fs : List (Nat × List (Nat × Nat))) : List (Nat × List (Nat × Nat)) :=
  fs.foldl (fun new f =>
    (List.range 4).foldl (fun new p =>
      match neighbour f.1 p with
      | some (e, _) => if s.linkBad f.1 p || seen.contains e || new.any (fun q => q.1 == e) then new else new ++ [(e, f.2 ++ [(f.1, p)])]
      | none => new) new) []

/-- A shortest path over sound links, looked for hop by hop; of several the first that the order north, south, east, west finds (assumption 91). -/
def State.shortest (s : State) (dst : Nat) : Nat → List Nat → List (Nat × List (Nat × Nat)) → List (Nat × Nat)
  | 0, _, _ => []
  | fuel + 1, seen, fs =>
    match fs.find? (fun f => f.1 == dst) with
    | some f => f.2
    | none => s.shortest dst fuel (seen ++ fs.map Prod.fst) (s.spreadHop (seen ++ fs.map Prod.fst) fs)

/-- The links of the route from a die to another: row first; column first where a link of that path has failed; else a shortest path (R360, R364). -/
def State.route (s : State) (src dst : Nat) : List (Nat × Nat) :=
  let sound (p : List (Nat × Nat)) : Bool := p.all (fun l => !s.linkBad l.1 l.2)
  let a := pathBy (fun d => portTo d dst) dst 12 src
  if sound a then a
  else
    let b := pathBy (fun d => portCol d dst) dst 12 src
    if sound b then b else s.shortest dst 34 [] [(src, [])]

/-- Messages from a die reach another. -/
def State.reaches (s : State) (src dst : Nat) : Bool := src == dst || !(s.route src dst).isEmpty

/-- The hops of a route over sound links (R360). -/
def hops (d e : Nat) : Nat := (pathBy (fun k => portTo k e) e 12 d).length

/-! Stamps on routes, R362. -/

/-- The entries of a stamp that differ from those of another, with what must be added. -/
def deltas (old new : Tab (BitVec 24)) : List (Nat × BitVec 24) :=
  (List.range 34).filterMap (fun e => let x := Tab.get 0 new e - Tab.get 0 old e; if x = 0 then none else some (e, x))

/-- A stamp as a message carries it against the last one sent on its route: the header, then the bytes that follow it. -/
def encodeStamp (full : Bool) (old new : Tab (BitVec 24)) : DWord × List Byte :=
  if full then (1#64, (List.range 34).flatMap (fun e => bytesLE 3 (Tab.get 0 new e).toNat))
  else
    let ds := deltas old new
    let w := if ds = [] then 0 else if ds.all (fun d => decide (d.2.toNat < 2 ^ 8)) then 1 else if ds.all (fun d => decide (d.2.toNat < 2 ^ 16)) then 2 else 3
    let bs := ds.flatMap (fun d => bytesLE w d.2.toNat)
    (BitVec.ofNat 64 (w * 2 ^ 62 + ds.foldl (fun a d => a + 2 ^ (24 + d.1)) 0), bs ++ List.replicate ((4 - bs.length % 4) % 4) 0)

/-- The stamp that a receiver takes from such a message, which adds what the header names. -/
def decodeStamp (old : Tab (BitVec 24)) (header : DWord) (bs : List Byte) : Tab (BitVec 24) :=
  let h := header.toNat
  if bitAt h 0 then (List.range 34).foldl (fun t e => Tab.set 0 t e (BitVec.ofNat 24 (ofBytesLE ((bs.drop (3 * e)).take 3)))) []
  else
    let w := bitsOf h 63 62
    (((List.range 34).filter (fun e => bitAt h (24 + e))).zip (List.range 34)).foldl (fun t p =>
      Tab.set 0 t p.1 (Tab.get 0 t p.1 + BitVec.ofNat 24 (ofBytesLE ((bs.drop (w * p.2)).take w)))) old

/-- A flit has crossed a link: no failure in a row stands there any longer (R359). -/
def State.crossed (s : State) (l : Nat × Nat) : State :=
  if l.1 < 32 then s.setDie l.1 { s.die l.1 with retry := Tab.set 0 (s.die l.1).retry l.2 0 }
  else s.setIo l.1 { s.io l.1 with retry := Tab.set 0 (s.io l.1).retry l.2 0 }

/-- A message has travelled its route. -/
def State.travels (s : State) (src dst : Nat) : State := if src = dst then s else (s.route src dst).foldl State.crossed s
/-- A message that carries a stamp has travelled its route: the route has sent FULL, and this stamp last. -/
def State.carried (s : State) (src dst : Nat) (k : Tab (BitVec 24)) : State :=
  if src = dst then s
  else
    let s := s.travels src dst
    if src < 32 then s.setDie src { s.die src with full := Tab.set false (s.die src).full dst true, lastSent := Tab.put (s.die src).lastSent dst k }
    else s.setIo src { s.io src with full := Tab.set false (s.io src).full dst true, lastSent := Tab.put (s.io src).lastSent dst k }

/-- The header and the bytes with which the next message of a route carries a stamp. -/
def State.onWire (s : State) (src dst : Nat) (k : Tab (BitVec 24)) : DWord × List Byte :=
  if src < 32 then encodeStamp (!Tab.get false (s.die src).full dst) (Tab.get [] (s.die src).lastSent dst) k
  else encodeStamp (!Tab.get false (s.io src).full dst) (Tab.get [] (s.io src).lastSent dst) k

/-- A route uses a link, named from either end. -/
def State.usesLink (s : State) (src dst d port : Nat) : Bool :=
  let ls := s.route src dst
  ls.contains (d, port) || (match neighbour d port with | some n => ls.contains n | none => false)

/-- A link fails: both ends record it, and every route that used it sends FULL next (R364). -/
def State.cutLink (s : State) (d port : Nat) : State :=
  match neighbour d port with
  | none => s
  | some (e, p) =>
    let mark (s : State) (d port : Nat) : State :=
      if d < 32 then s.setDie d { s.die d with linkst := (s.die d).linkst ||| (1#64 <<< port), retry := Tab.set 0 (s.die d).retry port 0 }
      else s.setIo d { s.io d with linkst := (s.io d).linkst ||| (1#4 <<< port), retry := Tab.set 0 (s.io d).retry port 0 }
    let t := mark (mark s d port) e p
    { t with
      dies := t.dies.map (fun (x : Nat × Die) => (x.1, { x.2 with full := x.2.full.filter (fun q => !s.usesLink x.1 q.1 d port) }))
      ios := t.ios.map (fun (x : Nat × IoDie) => (x.1, { x.2 with full := x.2.full.filter (fun q => !s.usesLink x.1 q.1 d port) })) }

end Sys2Proof.Machine
end

