-- ==== Sys2Proof/Machine/Order.lean ====
section
/-!
DEFINITION. Requests and what stands before them: what they access and by which path (11 R212, R213, R217, 13 R250), what a matrix pass reads (09 R173,
R183), the writes still to be applied (12 R236 to R239, 21 R365), the order of a group's accesses (06 R118, 12 R235), hot rows (11 R219).
-/

namespace Sys2Proof

/-- The rank of a scope, 12 R227. -/
def Scope.rank : Scope → Nat
  | .qd => 1 | .grp => 2 | .wg => 3 | .core => 4 | .gang => 5 | .qdr => 6 | .die => 7 | .row => 8 | .pkg => 9 | .sys => 10 | .part => 11 | .pod => 12

end Sys2Proof

namespace Sys2Proof.Machine

/-! Requests, and what is still to be applied. -/

/-- A request to a home's memory. -/
def Req.homeIs (r : Req) (h : Nat) : Bool := r.tgt == .mem h
def Req.isLoad (r : Req) : Bool := r.op == .load
def Req.isStore (r : Req) : Bool := r.op == .store
def Req.isAtomic (r : Req) : Bool := match r.op with | .atomic .. => true | _ => false
/-- The request writes at its target. -/
def Req.writes (r : Req) : Bool := r.isStore || r.isAtomic
/-- The request has a result that its group waits for in a register. -/
def Req.returns (r : Req) : Bool := r.isLoad || (r.isAtomic && r.dst != .none)
def Req.sector (r : Req) : Nat := r.pa / 256
/-- Two requests touch a common byte. -/
def Req.overlaps (a b : Req) : Bool := decide (a.pa < b.pa + b.width) && decide (b.pa < a.pa + a.width)

/-- The parts of an ordering point's writes that wait, with their numbers (21 R365). -/
def OpEntry.parts : OpEntry → List (BitVec 24 × Part)
  | .write n _ ps => ps.map (fun p => (n, p))
  | .remote n _ _ ps => ps.map (fun p => (n, p))
  | _ => []

/-- The numbered writes still to be performed: source, home, number. -/
def State.unapplied (s : State) : List (Nat × Nat × BitVec 24) :=
  s.reqs.filterMap (fun q => match q.num, q.tgt with
    | some m, .mem h => if q.performed then none else some (q.src, h, m)
    | _, _ => none) ++
  s.ios.flatMap (fun io => io.2.entries.flatMap (fun e => e.parts.map (fun p => (io.1, p.2.home, p.1))))

/-- Every numbered write to a home that the stamp of a die covers has been applied there, that home's own apart: an agent of the die may read there
at once (R238). What the announcements of the counters would bring is taken as known. -/
def State.settledAt (s : State) (d h : Nat) : Bool :=
  let k := s.kvec d
  s.unapplied.all (fun u => u.2.1 != h || u.1 == h || !serialGe (Tab.get 0 k u.1) u.2.2)

/-- The die's own writes to a sector homed elsewhere, those without a number among them, are not all acknowledged: the sector is pending (R236). -/
def State.dieWrites (s : State) (src sec h : Nat) : Bool :=
  h != src && s.reqs.any (fun q => q.src == src && q.writes && q.sector == sec && q.homeIs h)

/-- A prefetch: the fill of a load, for no lane. It orders nothing, and nothing waits for it (13 R264). -/
def Req.isPref (r : Req) : Bool := r.isLoad && r.members.isEmpty
/-- An acquire at a scope ranked above core: it never reads the L1, and takes the path of a .cb load through the L2 (13 R250). -/
def Req.wideAcq (r : Req) : Bool := r.ord == .acq && decide (5 ≤ r.scope.rank)
/-- The path of a load (11 R213, 13 R250); a device page has none (R216). -/
def Req.path (r : Req) : Cls := if r.dev then .vg else if r.wideAcq then .cb else r.cls

/-! What a pass reads. -/

/-- Bytes of one piece of a row of a pass, and of a row of its B tile (09 R173, R183). -/
def PassKind.aBytes : PassKind → Nat
  | .mma => 64 | .mmaq => 128 | .mmai => 64 | .acld | .acmov => 16
def PassKind.bRow : PassKind → Nat
  | .mma => 64 | _ => 32
/-- The physical ranges that a pass reads. -/
def Pass.ranges (p : Pass) : List (Nat × Nat) :=
  p.rows.flatMap (fun r => r.src.map (fun a => (a.1, p.kind.aBytes))) ++ p.brows.map (fun b => (b.1, p.kind.bRow))
/-- A pass reads a byte of a range. -/
def Pass.reads (p : Pass) (pa n : Nat) : Bool := p.ranges.any (fun x => decide (x.1 < pa + n) && decide (pa < x.1 + x.2))
/-- A pass reads a byte that a request accesses. -/
def Pass.touches (p : Pass) (r : Req) : Bool := p.reads r.pa r.width
/-- A pass of a group still reads a byte of a range: a store or atomic of the group to it waits at issue, where it would change its die's copies before the
pass reads them (06 R118, 09 R179). -/
def State.passReads (s : State) (gid pa n : Nat) : Bool := s.passes.any (fun p => p.q.gid == gid && p.reads pa n)
/-- The class whose path a pass reads by (11 R213). -/
def Pass.cls (p : Pass) : Cls := if p.kind = .acld then .cb else .ca

/-- .unp and .nord: neither merged at the home nor at the return (R241). -/
def Req.stamped (r : Req) : Bool := r.use != .unp && r.use != .nord

/-! Hot rows. -/

/-- An access to an address would activate a row that is hot: 2,048 activations in the running refresh window (R219). A read of a line whose clearing bit is
set does not reach HBM4E (R225). -/
def State.isHot (s : State) (d lpa : Nat) (write : Bool) : Bool :=
  let x := s.die d
  decide (lpa < 0x020000000000) && !Tab.get false x.l2here (lpa / 256) && !Tab.get false x.mschere (lpa / 256) && (write || !s.clearingAt lpa) &&
  decide (2048 ≤ Tab.get 0 x.hot (Config.rowOf lpa))
/-- The activations of a hot row are 8 × 30 cycles apart, and this one would come too early (R219). -/
def State.hotHeld (s : State) (d lpa : Nat) (write : Bool) : Bool := s.isHot d lpa write && decide (s.cycles < Tab.get 0 (s.die d).hotLast (Config.rowOf lpa) + 240)

/-! When a request may be performed. -/

/-- A numbered write of a source to a home, numbered at or below n, is still to be performed (R238). -/
def State.unappliedTo (s : State) (src home : Nat) (n : BitVec 24) : Bool := s.unapplied.any (fun u => u.1 == src && u.2.1 == home && serialGe n u.2.2)

/-- The number a request to a home stands behind in its source's order: a write behind those before its own; a read or a .spec atomic behind those its
stamp covers, unless the source is the home itself, whose own entry the test leaves out (R238). -/
def Req.behind (r : Req) (home : Nat) : Option (BitVec 24) :=
  match r.num with
  | some n => some (n - 1)
  | none => if r.use = .unp ∨ r.use = .nord ∨ r.src = home then none else some (Tab.get 0 r.stamp r.src)

/-- Two accesses of a group to a common byte keep their issue order when one of them writes (06 R118), and when both are loads of one class (12 R235). -/
def Req.keepsOrder (q r : Req) : Bool := q.writes || r.writes || (q.isLoad && r.isLoad && q.cls == r.cls && !q.isPref && !r.isPref)

/-- An earlier access of the group to a common byte, a pass that still reads it among them (09 R179), must be performed first (06 R118, 12 R235). -/
def State.groupOrder (s : State) (r : Req) : Bool :=
  s.reqs.any (fun q => q.gid == r.gid && decide (q.id < r.id) && !q.performed && q.keepsOrder r && q.overlaps r) ||
  s.passes.any (fun p => p.q.gid == r.gid && decide (p.q.id < r.id) && (r.writes || (r.isLoad && !r.isPref && p.cls == r.cls)) && p.touches r)

/-- Requests of one group to device pages are performed in issue order (R216). -/
def State.deviceOrder (s : State) (r : Req) : Bool :=
  r.dev && s.reqs.any (fun q => q.dev && q.gid == r.gid && decide (q.id < r.id) && !q.performed)

/-- A load that fetches a sector waits for the die's earlier writes to it; for a line homed elsewhere until they are acknowledged (R236). -/
def State.sectorPending (s : State) (r : Req) (home : Nat) : Bool :=
  r.isLoad && s.reqs.any (fun q => q.src == r.src && q.writes && decide (q.id < r.id) && q.sector == r.sector && q.tgt == r.tgt
    && (!q.performed || home != r.src))

/-- A window request waits for the group's earlier ones. -/
def State.windowOrder (s : State) (r : Req) : Bool :=
  s.reqs.any (fun q => q.gid == r.gid && decide (q.id < r.id) && !q.performed && (match q.tgt with | .window _ => true | _ => false))

/-- A Bezel store is held until every earlier store and atomic of the group has been acknowledged, device-page writes transmitted, and every earlier
access to scratchpad performed at its row, through a window too (16 R310, 17 R319). -/
def State.bezelHeld (s : State) (r : Req) : Bool :=
  s.reqs.any (fun q => q.gid == r.gid && decide (q.id < r.id) &&
    (match q.tgt with | .window _ => q.op != .load || !q.performed | _ => q.op != .load && !(q.dev && q.performed)))

/-- The die at which a request is performed. -/
def Target.die : Target → Nat
  | .mem h => h
  | .window d => d
  | .pcie p | .remote p | .nowhere p => ioOfPort p
  | .bezel p => if p < 32768 then 32 else 33
  | .ctl io => io

/-- A .vg load or store that a block's request carries with it (11 R217). -/
def Req.follows (r : Req) : Bool := r.path == .vg && !r.dev && !r.isPref && (r.isLoad || r.isStore) && r.cls == .vg && r.span.2 == 0
/-- The access whose request carries another one. -/
def Req.leads (q r : Req) : Bool := q.gid == r.gid && q.issueNo == r.issueNo && q.op == r.op && q.pa / 128 == r.pa / 128 && q.span.2 != 0

/-- The request can be performed now, the spacing of a hot row apart. -/
def State.ready (s : State) (r : Req) : Bool :=
  !r.performed && s.reaches r.src r.tgt.die &&
  (match r.tgt with
   | .mem h =>
     (r.use != .qnt || r.num.isSome) && (!r.stamped || s.covers h r.src r.stamp) &&
     (match r.behind h with | some n => !s.unappliedTo r.src h n | none => true) &&
     !s.groupOrder r && !s.deviceOrder r && !s.sectorPending r h && !(r.follows && s.reqs.any (fun q => q.leads r && !q.performed))
   | .window _ => !s.windowOrder r
   | .bezel _ => !s.deviceOrder r && (r.isLoad || !s.bezelHeld r)
   | .pcie _ | .ctl _ | .remote _ => !s.deviceOrder r
   | .nowhere _ => !s.groupOrder r)

/-- An access that would activate a hot row waits for the row's spacing, and for the requests to the row that arrived before the one numbered `id`; requests
to other rows go past it (R219). -/
def State.rowBusy (s : State) (h lpa id : Nat) (write : Bool) : Bool :=
  s.isHot h lpa write && (s.hotHeld h lpa write ||
    s.reqs.any (fun q => decide (q.id < id) && q.homeIs h && Config.rowOf q.lpa == Config.rowOf lpa && s.ready q))
/-- A request waits so. -/
def State.rowHolds (s : State) (r : Req) : Bool :=
  match r.tgt with
  | .mem h => s.rowBusy h r.lpa r.id r.writes
  | _ => false

/-- The request can be performed now. -/
def State.performable (s : State) (r : Req) : Bool := s.ready r && !s.rowHolds r

end Sys2Proof.Machine
end

