-- ==== Sys2Proof/Machine/Caches.lean ====
section
/-!
DEFINITION. The caches: the L1 and L1I of a core, the L2I of a quadrant, the L2 of a die with its home sectors and its copies (11 R211 to R215, R226),
the memory-side cache and its Locket pins (R215, R220, R221), rows of HBM4E (R219), sealing what leaves a world's ways (23 R387), and reads of a die's
agents through its L2 (11 R204, R213, R222, 12 R236, R238).
-/

namespace Sys2Proof.Machine

/-! Where a line may stand. -/

/-- The slice of a line within its die: the exclusive or of the 6-bit chunks of PA[51:10] (R211). -/
def sliceOf (line : Nat) : Nat := (List.range 7).foldl (fun a k => a ^^^ (line / 2 ^ (6 * k) % 64)) 0
/-- The set of an L2 that a line falls in: its slice, and one of the slice's 128 sets (assumption 33). -/
def l2Set (line : Nat) : Nat := sliceOf line * 128 + line / 64 % 128
/-- The set of a memory-side cache that a 256-byte line falls in (assumption 33). -/
def mscSet (sec : Nat) : Nat := sec % 16384

/-- The lines, of four sectors, that a table of sectors holds. -/
def linesOf (t : Tab Sector) : List Nat := (t.map (fun p => p.1 / 4)).eraseDups

/-- A table of 8 ways of 16 sets of lines takes a sector (the L1, R212; the L1I, R226). A set that is full loses a line, which one the manual leaves
open; the flag says that a free value chose it. -/
def putInto (free : Nat) (t : Tab Sector) (sec : Nat) (x : Sector) : Tab Sector × Bool :=
  let lines := (linesOf t).filter (fun l => l % 16 == sec / 4 % 16 && l != sec / 4)
  if lines.length < 8 then (Tab.put t sec x, false)
  else
    let v := lines.getD ((Config.freeValue free).toNat % lines.length) 0
    (Tab.put (t.filter (fun p => p.1 / 4 != v)) sec x, true)

/-- The L1 of a core takes a sector. -/
def State.fillL1 (s : State) (cid sec : Nat) (x : Sector) : State :=
  let r := putInto s.free (s.core cid).l1d sec x
  (if r.2 then s.draw else s).setCore cid { s.core cid with l1d := r.1 }
/-- The L1I of a core takes a sector. -/
def State.fillL1i (s : State) (cid sec : Nat) (x : Sector) : State :=
  let r := putInto s.free (s.core cid).l1i sec x
  (if r.2 then s.draw else s).setCore cid { s.core cid with l1i := r.1 }

/-! The L2I of a quadrant. -/

/-- A sector leaves the L2Is of a die: it was written, dropped or fetched again in the L2 (R226). -/
def Die.dropI (x : Die) (sec : Nat) : Die := { x with l2i := x.l2i.map (fun q => (q.1, Tab.erase q.2 sec)) }
/-- The sector that names a sector of a die in the physical map: one in the die's spread pool bears its name in the spread window, which a fetch through
that window looks for, and by which its slice is chosen (R206, R211, assumption 103). -/
def State.nameOf (s : State) (d sec : Nat) : Nat := if 256 * sec / 2 ^ 36 = d then poolName (s.pool d) (256 * sec) / 256 else sec
/-- A home sector leaves the L2Is of its die under each of its names. -/
def State.dropHomeI (s : State) (d sec : Nat) : Die := ((s.die d).dropI sec).dropI (s.nameOf d sec)

/-- The L2I of a quadrant takes a sector; of its 2,048 lines one goes when it is full (assumption 33). -/
def State.fillL2i (s : State) (d q sec : Nat) (x : Sector) : State :=
  let t := Tab.get [] (s.die d).l2i q
  let lines := (linesOf t).filter (fun l => l != sec / 4)
  if lines.length < 2048 then s.setDie d { s.die d with l2i := Tab.put (s.die d).l2i q (Tab.put t sec x) }
  else
    let v := lines.getD ((Config.freeValue s.free).toNat % lines.length) 0
    s.draw.setDie d { s.die d with l2i := Tab.put (s.die d).l2i q (Tab.put (t.filter (fun p => p.1 / 4 != v)) sec x) }

/-! Copies in an L2. -/

/-- Put bytes into a sector of a table that holds it. -/
def writeSector (t : Tab Sector) (sec off : Nat) (bs : List Byte) : Tab Sector :=
  t.map (fun p => if p.1 = sec then (p.1, p.2.write off bs) else p)

/-- A copy goes. -/
def Die.dropCopy (x : Die) (sec : Nat) : Die := { x.dropI sec with l2 := Tab.erase x.l2 sec }
/-- A copy takes bytes. -/
def Die.writeCopy (x : Die) (sec off : Nat) (bs : List Byte) : Die := { x.dropI sec with l2 := writeSector x.l2 sec off bs }
/-- Only the copies that satisfy `p` stay. -/
def Die.keepCopies (x : Die) (p : Nat × Sector → Bool) : Die :=
  (x.l2.filter (fun c => !p c)).foldl (fun (x : Die) (c : Nat × Sector) => x.dropI c.1) { x with l2 := x.l2.filter p }

/-! Rows of HBM4E, and the memory-side cache. -/

/-- A row is activated (R219): once it is hot no sooner than 8 × 30 cycles after its last activation, up to which a core's request waits; an engine, a
distributor, an ordering point or a write-back goes on, and its activation follows in its turn (assumption 104). -/
def State.activate (s : State) (d lpa : Nat) : State :=
  let x := s.die d
  let row := Config.rowOf lpa
  let n := Tab.get 0 x.hot row
  s.setDie d { x with hot := Tab.put x.hot row (n + 1), hotLast := Tab.put x.hotLast row (if 2048 ≤ n then max s.cycles (Tab.get 0 x.hotLast row + 240) else s.cycles) }

/-- The valid Locket windows of a die whose range holds an address. -/
def Die.windowsAt (x : Die) (lpa : Nat) : List Nat :=
  (List.range 16).filter (fun w =>
    let c := (Tab.get 0 x.lkctl w).toNat
    let b := bitsOf (Tab.get 0 x.lkbase w).toNat 51 16 * 65536
    bitAt c 0 && !outside b (2 ^ bitsOf c 7 2) lpa)

/-- The access hits the windows whose range holds the address: CUR := FADE (R221). -/
def State.locketHit (s : State) (d lpa : Nat) : State :=
  let x := s.die d
  let hit := x.windowsAt lpa
  s.setDie d { x with
    lkctl := hit.foldl (fun t w => Tab.put t w (BitVec.ofNat 64 (putBits (Tab.get 0 t w).toNat 47 32 (bitsOf (Tab.get 0 t w).toNat 31 16)))) x.lkctl,
    lkhit := hit.foldl (fun t w => Tab.set false t w true) x.lkhit }

/-- The other lines of a line's set in the memory-side cache. -/
def Die.mscOthers (x : Die) (sec : Nat) : List Nat :=
  (x.mschere.filter (fun p => p.2 && mscSet p.1 == mscSet sec && p.1 != sec)).map Prod.fst
/-- A line is pinned by these windows, unless it would pin a ninth way of its set (R220). -/
def Die.pinLine (x : Die) (sec : Nat) (ws : List Nat) : Die :=
  let bits := ws.foldl (fun (m : BitVec 16) w => m ||| (1#16 <<< w)) 0
  let old := Tab.get 0 x.mscpin sec
  if bits = 0 ∨ (old = 0 ∧ 8 ≤ ((x.mscOthers sec).filter (fun k => Tab.get 0 x.mscpin k != 0)).length) then x
  else { x with mscpin := Tab.set 0 x.mscpin sec (old ||| bits) }

/-- A dirty sector with an error in its bits is written back: it is recorded at the home's core 0, which R333 does not name for it (assumption 107). -/
def State.movedBad (s : State) (d sec src : Nat) (moved : Bool) : State := if moved then s.mclog (d * 64) src (256 * sec) else s

/-- A line leaves the memory-side cache: what is dirty goes to HBM4E, its bits as they are (R215, 18 R333). -/
def State.evictMsc (s : State) (d sec : Nat) : State :=
  let x := s.die d
  let dirty := Tab.get false x.mscdirty sec
  let src := Tab.get 0 x.bad sec
  let s := s.setDie d { x with
    mschere := Tab.set false x.mschere sec false, mscdirty := Tab.set false x.mscdirty sec false, mscpin := Tab.set 0 x.mscpin sec 0,
    bad := if src = 2 then Tab.set 0 x.bad sec (if dirty then 1 else 0) else x.bad }
  if dirty then (s.movedBad d sec 2 (src == 2)).activate d (256 * sec) else s

/-- A line comes into the memory-side cache: of the 16 of a full set one that is not pinned goes, which one the manual leaves open. -/
def State.takeMsc (s : State) (d sec : Nat) : State :=
  if Tab.get false (s.die d).mschere sec then s
  else
    let others := (s.die d).mscOthers sec
    let loose := others.filter (fun k => Tab.get 0 (s.die d).mscpin k == 0)
    let s := if others.length < 16 ∨ loose = [] then s
      else s.draw.evictMsc d (loose.getD ((Config.freeValue s.free).toNat % loose.length) 0)
    let x := s.die d
    s.setDie d ({ x with mschere := Tab.set false x.mschere sec true }.pinLine sec (x.windowsAt (256 * sec)))

/-- An access reaches the memory-side cache of a die: a window is hit, and a line that is not there comes from HBM4E, activating its row (R215, R219);
a read of a line whose clearing bit is set does not reach HBM4E (R225). Memory of CXL has no such cache. -/
def State.reachMsc (s : State) (d lpa : Nat) (alloc write : Bool) : State :=
  if 0x020000000000 ≤ lpa then s
  else
    let s := s.locketHit d lpa
    if Tab.get false (s.die d).mschere (lpa / 256) then s
    else
      let t := if alloc then s.takeMsc d (lpa / 256) else s
      if write || !s.clearingAt lpa then t.activate d lpa else t

/-! Corrected errors. -/

/-- CECNT takes n corrected errors of a die's memory and caches, or of its register files and accumulators; each half up to its limit (24 R398). -/
def State.countCorrected (s : State) (d : Nat) (files : Bool) (n : Nat) : State :=
  let c := (s.die d).cecnt.toNat
  let m := if files then putBits c 63 32 (min 0xFFFFFFFF (bitsOf c 63 32 + n)) else putBits c 31 0 (min 0xFFFFFFFF (bitsOf c 31 0 + n))
  s.setDie d { s.die d with cecnt := BitVec.ofNat 64 m }
/-- A read of a place on a die corrects what errors it meets there (assumption 109). -/
def State.reads (s : State) (d : Nat) (files : Bool) (place : Nat) : State := (s.countCorrected d files (Config.corrected place s.free)).draw

/-! The L2 of a die. -/

/-- The world in whose ways a sector stands on a die; 0 for the shared ways (23 R386, R387). -/
def State.wayWorld (s : State) (d sec : Nat) : BitVec 12 :=
  match Tab.find (s.die d).l2 sec with
  | some x => if (s.sealedAt (localOf (s.pool d) (256 * sec))).isSome then x.world else 0
  | none => if Tab.get false (s.die d).l2open sec then (s.sealedAt (256 * sec)).getD 0 else 0

/-- The ones of a mask of ways. -/
def waysIn (m : BitVec 12) : Nat := ((List.range 12).filter (fun i => m.getLsbD i)).length
/-- How many ways of every slice are a world's, or shared. -/
def Die.waysOf (x : Die) (w : BitVec 12) : Nat :=
  if w = 0 then 12 - waysIn (x.wres.foldl (fun m p => m ||| p.2) 0) else waysIn (Tab.get 0 x.wres w.toNat)

/-- A sector leaves the L2 of a die: an open one is sealed first; what is dirty goes to the memory-side cache or to the CXL device (R214, R216, 23 R387). -/
def State.evictSector (s : State) (d sec : Nat) : State :=
  let x := s.die d
  if (Tab.find x.l2 sec).isSome then s.setDie d (x.dropCopy sec)
  else
    let dirty := Tab.get false x.l2dirty sec
    let hbm := decide (256 * sec < 0x020000000000)
    let s := (s.setDie d { x with l2open := Tab.set false x.l2open sec false }).sealSector (256 * sec)
    let s := s.movedBad d sec 3 (dirty && Tab.get 0 x.bad sec == 3)
    let s := if dirty && hbm then (s.locketHit d (256 * sec)).takeMsc d sec else s
    let x := s.dropHomeI d sec
    s.setDie d { x with
      l2here := Tab.set false x.l2here sec false, l2dirty := Tab.set false x.l2dirty sec false,
      mscdirty := if dirty && hbm then Tab.set false x.mscdirty sec true else x.mscdirty,
      bad := if Tab.get 0 x.bad sec = 3 then Tab.set 0 x.bad sec (if !dirty then 0 else if hbm then 2 else 1) else x.bad }

/-- The sectors that stand in an L2. -/
def Die.l2Sectors (x : Die) : List Nat := x.l2.map Prod.fst ++ (x.l2here.filter (fun p => p.2)).map Prod.fst

/-- The set of a die's L2 in which a sector stands: its slice is chosen by its physical address (R211). -/
def State.setOf (s : State) (d sec : Nat) : Nat := l2Set (s.nameOf d sec / 4)

/-- Room for a sector in the ways of a world, or in the shared ones: a line of a full set goes, which one the manual leaves open (R211). -/
def State.roomL2 (s : State) (d sec : Nat) (w : BitVec 12) : State :=
  let here := (s.die d).l2Sectors.filter (fun k => s.setOf d k == s.setOf d sec && s.wayWorld d k == w)
  let others := ((here.map (fun k => k / 4)).eraseDups).filter (fun l => l != sec / 4)
  if here.any (fun k => k / 4 == sec / 4) ∨ others.length < (s.die d).waysOf w ∨ others = [] then s
  else
    let v := others.getD ((Config.freeValue s.free).toNat % others.length) 0
    (here.filter (fun k => k / 4 == v)).foldl (fun s k => s.evictSector d k) s.draw

/-- The world whose ways on a die take a sector at an address within its home: the owner of its sealed region, where it has ways there. -/
def State.fillWorld (s : State) (d lpa : Nat) : BitVec 12 :=
  match s.sealedAt lpa with
  | some w => if Tab.get 0 (s.die d).wres w.toNat != 0 then w else 0
  | none => 0

/-- The L2 of a die takes a copy of a sector homed elsewhere. -/
def State.fillL2 (s : State) (d sec : Nat) (x : Sector) : State :=
  let s := s.roomL2 d sec (if s.fillWorld d (localOf (s.pool d) (256 * sec)) = x.world then x.world else 0)
  s.setDie d { (s.die d).dropI sec with l2 := Tab.put (s.die d).l2 sec x }

/-- The bookkeeping of an access at its home slice (R214, R215, R217): without a grain the sector comes into the slice, in plaintext into the ways of
the world that owns its region; with a grain nothing is allocated. -/
def State.touchHome (s : State) (h lpa : Nat) (grain write : Bool) : State :=
  let sec := lpa / 256
  let here := Tab.get false (s.die h).l2here sec
  let s := s.reads h false lpa
  if here || !grain then
    let s := if here then s
      else
        let w := s.fillWorld h lpa
        let s := (s.reachMsc h lpa true write).roomL2 h sec w
        if w = 0 then s else s.setDie h { s.die h with l2open := Tab.set false (s.die h).l2open sec true }
    let x := if write then s.dropHomeI h sec else s.die h
    s.setDie h { x with l2here := Tab.set false x.l2here sec true, l2dirty := if write then Tab.set false x.l2dirty sec true else x.l2dirty }
  else
    let s := s.reachMsc h lpa false write
    let x := s.die h
    if write && Tab.get false x.mschere sec then s.setDie h { x with mscdirty := Tab.set false x.mscdirty sec true } else s

/-- Bytes are written at their home; a sector held sealed is sealed again with them (23 R387). -/
def State.homeStore (s : State) (home lpa : Nat) (bs : List Byte) (grain : Bool) : State :=
  ((s.touchHome home lpa grain true).storeBytes lpa bs).sealSector lpa

/-- Bytes of several sectors are written at their home, each sector by itself. -/
def State.homeStores (s : State) (home : Nat) : List (Nat × Nat) → List Byte → State
  | [], _ => s
  | p :: ps, bs => (s.homeStore home p.1 (bs.take p.2) false).homeStores home ps (bs.drop p.2)

/-- A copy of a sealed sector stays only on a die where its world reserves a way (23 R387). -/
def State.mayCopy (s : State) (src lpa : Nat) (world : BitVec 12) : Bool :=
  (s.sealedAt lpa).isNone || Tab.get 0 (s.die src).wres world.toNat != 0

/-! Reads through a die's L2. -/

/-- Who reads through a die's L2: the die, the level, the space with the generation the request carries, the world. -/
structure Reader where
  src : Nat
  level : Nat
  asid : BitVec 12
  gen : BitVec 10
  world : BitVec 12
  deriving DecidableEq, Repr

/-- What a read through the L2 comes to: bytes, a rejection with its cause, or a wait until something before it is applied. -/
inductive Served where
  | ok (bs : List Byte) (s : State)
  | fault (cause : Nat)
  | wait
  deriving DecidableEq, Repr

/-- A copy that a die holds for a world. -/
def State.copyAt (s : State) (d sec : Nat) (world : BitVec 12) : Option Sector :=
  match Tab.find (s.die d).l2 sec with
  | some x => if x.world == world then some x else none
  | none => none

/-- Why a home refuses a read or write: stale generation, ownership, an uncorrectable error, a tag that does not match (R222, 23 R378, R384, R388, 18 R333). -/
def State.homeRefuses (s : State) (h lpa level : Nat) (asid : BitVec 12) (gen : BitVec 10) (world : BitVec 12) (reads : Bool) : Option Nat :=
  if gen ≠ (s.space asid.toNat).gen then some cGenStale
  else if s.refuses level world lpa then some cPermission
  else if reads && s.badAt h lpa then some cMachineCheck
  else if s.tagBad lpa then some cIntegrity
  else none

/-- Bytes within one sector as an agent of a die reads them on the .ca path of its L2: a local copy, or the home, whose sector the die then holds a
copy of, filled under the epoch of the request (R204, R213, R214, R222, R239). A system core's I/O die has no L2. -/
def State.l2Read (s : State) (r : Reader) (pa n : Nat) : Served :=
  if cxlHole pa then .ok (List.replicate n 0xFF) (s.logHole pa)
  else
    let (l, tgt, s1) := s.placeOf (s.pool r.src) pa
    match tgt with
    | .mem h =>
      match s.copyAt r.src (pa / 256) r.world with
      | some x =>
        if r.gen ≠ (s.space r.asid.toNat).gen then .fault cGenStale
        else if x.bad then .fault cMachineCheck
        else .ok (x.read (pa % 256) n) (s.reads r.src false pa)
      | none =>
        match s.homeRefuses h l r.level r.asid r.gen r.world true with
        | some cause => .fault cause
        | none =>
          if !s.settledAt r.src h || s.dieWrites r.src (pa / 256) h || s.rowBusy h l (2 ^ 64) false then .wait
          else
            let e := (s.die r.src).epoch
            let s2 := (((s1.carried r.src h (s1.kvec r.src)).touchHome h l false false).carried h r.src (s1.die h).mst).mergeStamp r.src (s1.die h).mst
            let s3 := if h ≠ r.src ∧ r.src < 32 ∧ s2.mayCopy r.src l r.world then
                s2.fillL2 r.src (pa / 256) { bytes := s2.sectorBytes l, asid := r.asid, gen := r.gen, world := r.world, epoch := e, bad := false }
              else s2
            .ok (s2.bytesAt l n) s3
    | _ => .fault cPermission

/-- The SRC code of an error that a read of a die met: that of a local copy, or of the home (18 R334). -/
def State.readSrc (s : State) (src pa : Nat) (world : BitVec 12) : Nat :=
  match s.copyAt src (pa / 256) world with
  | some _ => 3
  | none => s.errSrc (homeOf (s.pool src) pa) (localOf (s.pool src) pa)

/-! Reads of agents, and of the device's tables. -/

/-- An agent of a die reads bytes of one sector at a place of its home; the home's applied stamp merges into its K (R239). -/
def State.agentReadAt (s : State) (src h l n : Nat) : List Byte × State :=
  let s := ((s.carried src h (s.kvec src)).touchHome h l false false).carried h src (s.die h).mst
  (s.bytesAt l n, s.mergeStamp src (s.die h).mst)

/-- An agent of a die reads bytes of one sector; a part of the CXL range without a device gives 0xFF (R205). -/
def State.agentReadSec (s : State) (src pool pa n : Nat) : List Byte × State :=
  if cxlHole pa then (List.replicate n 0xFF, s.logHole pa)
  else
    let (l, tgt, s) := s.placeOf pool pa
    match tgt with
    | .mem h => s.agentReadAt src h l n
    | _ => (List.replicate n 0, s)

/-- A read of a table of the device by a die, as system software's: why its home refuses it (R222, 23 R378, R384, 18 R333). -/
def State.tableRefused (s : State) (d pa : Nat) : Option Nat :=
  let p := s.placeOf (s.pool d) pa
  match p.2.1 with
  | .mem h => s.homeRefuses h p.1 2 0 (s.space 0).gen 0 true
  | _ => none
/-- A number of n bytes in a table of the device, as a die reads it: the requester and PASID tables (16 R303), the virtual-device table (19 R341). Where no
device answers it reads as bytes of 0xFF (R205), where its home refuses the read as 0 (assumption 105). -/
def State.tableAt (s : State) (d pa n : Nat) : Nat :=
  if cxlHole pa then 2 ^ (8 * n) - 1 else if (s.tableRefused d pa).isSome then 0 else s.numAt (s.placeOf (s.pool d) pa).1 n
/-- The writes that such a read must see are applied at its home (12 R238). -/
def State.tableReady (s : State) (d pa : Nat) : Bool :=
  cxlHole pa || (match (s.placeOf (s.pool d) pa).2.1 with | .mem h => s.settledAt d h | _ => true)
/-- What such a read of n bytes leaves behind it: the home slice takes the sector, a window is hit, the die's stamp merges (R211, R214, R215, R221, 12 R239); a
range without a device and an error are logged (R205, 18 R334). -/
def State.tableLook (s : State) (d pa n : Nat) : State :=
  match (if cxlHole pa then none else s.tableRefused d pa) with
  | some cause => if cause = cMachineCheck then s.mclog (homeOf (s.pool d) pa * 64) (s.errSrc (homeOf (s.pool d) pa) (localOf (s.pool d) pa)) (localOf (s.pool d) pa) else s
  | none => (s.agentReadSec d (s.pool d) pa n).2

end Sys2Proof.Machine
end

