-- ==== Sys2Proof/Machine/Walks.lean ====
section
/-!
DEFINITION. Page walks and translation (11 R199 to R204, 18 R330, R331) and instruction fetch (03 R53, 11 R226).
-/

namespace Sys2Proof.Machine

/-! Page walks. -/

/-- Fields of a table entry, R201. -/
def pteV (e : Nat) : Bool := bitAt e 0
def pteL (e : Nat) : Bool := bitAt e 1
def pteR (e : Nat) : Bool := bitAt e 2
def pteW (e : Nat) : Bool := bitAt e 3
def pteU (e : Nat) : Bool := bitAt e 4
def ptePfn (e : Nat) : Nat := bitsOf e 51 12 * 4096
def pteMt (e : Nat) : Nat := bitsOf e 58 57
def pteSz (e : Nat) : Nat := bitsOf e 62 59
def pteXd (e : Nat) : Bool := bitAt e 63

/-- A leaf met at a level is legal, R202. -/
def leafOk (pool lvl e : Nat) : Bool :=
  let size := 2 ^ (12 + pteSz e)
  let r0 := regionOf pool (ptePfn e)
  let r1 := regionOf pool (ptePfn e + size - 1)
  ((lvl == 1 && decide (pteSz e ≤ 8)) || (lvl == 2 && decide (9 ≤ pteSz e))) && bitsOf e 56 52 == 0 && decide (pteMt e < 2) &&
  ptePfn e % size == 0 && r0 != .hole && r1 != .hole && !((r0.device || r1.device) && pteMt e == 0)

/-- A non-leaf entry is legal, R202. -/
def nodeOk (lvl e : Nat) : Bool :=
  lvl != 1 && bitsOf e 63 52 == 0 && bitsOf e 4 2 == 0

/-- A table may stand only in HBM4E or CXL memory, R202. -/
def tableOk (pool pa : Nat) : Bool :=
  pa % 4096 == 0 && (match regionOf pool pa with | .hbm _ | .cxl => true | _ => false)

/-- What a walk ends in: a leaf, or a cause with the address of the entry whose read was refused; a walk that must wait for a write has not ended. -/
inductive WalkRes where
  | leaf (e : TlbEntry)
  | fault (cause at_ : Nat)
  | wait
  deriving DecidableEq, Repr

/-- The index bits of a level begin here, R200. -/
def lvlShift (lvl : Nat) : Nat := 12 + 9 * (lvl - 1)
def lvlIndex (lvl va : Nat) : Nat := va / 2 ^ lvlShift lvl % (if lvl = 5 then 256 else 512)
/-- The name of a cached non-leaf entry: its level and the address bits above its index. -/
def nodeKey (lvl va : Nat) : Nat := lvl * 2 ^ 64 + va / 2 ^ lvlShift lvl

/-- The reader that a walk is: it carries the level, world and generation of the request that needs it (11 R222). -/
def Walk.reader (w : Walk) (die : Nat) : Reader := { src := die, level := w.level, asid := w.asid, gen := w.gen, world := w.world }

/-- A walk from a level down, each entry read as a relaxed load through the die's L2 (R200 to R202, R204, 18 R330): its end, the non-leaf entries it
read, and the state after those reads. -/
def State.walkFrom (s : State) (r : Reader) (va : Nat) : Nat → Nat → WalkRes × List Node × State
  | 0, _ => (.fault cPageFault 0, [], s)
  | lvl + 1, table =>
    let at_ := table + 8 * lvlIndex (lvl + 1) va
    if !tableOk (s.pool r.src) table then (.fault cPageFault 0, [], s)
    else match s.l2Read r at_ 8 with
      | .wait => (.wait, [], s)
      | .fault cause => (.fault cause at_, [], s)
      | .ok bs s1 =>
        let e := ofBytesLE bs
        if !pteV e then (.fault cPageFault 0, [], s1)
        else if pteL e then
          if leafOk (s.pool r.src) (lvl + 1) e then
            (.leaf { asid := r.asid, vbase := va / 2 ^ (12 + pteSz e) * 2 ^ (12 + pteSz e), sz := 12 + pteSz e, leaf := BitVec.ofNat 64 e, world := r.world }, [], s1)
          else (.fault cPageFault 0, [], s1)
        else if nodeOk (lvl + 1) e then
          let q := s1.walkFrom r va lvl (ptePfn e)
          (q.1, { asid := r.asid.toNat, key := nodeKey (lvl + 1) va, entry := BitVec.ofNat 64 e, world := r.world } :: q.2.1, q.2.2)
        else (.fault cPageFault 0, [], s1)

/-- The deepest cached non-leaf entry for an address: the level below it and the table it names. -/
def cachedNode (wc : List Node) (asid va : Nat) : Option (Nat × Nat) :=
  [2, 3, 4, 5].findSome? (fun lvl =>
    (wc.find? (fun p => p.asid == asid && p.key == nodeKey lvl va)).map (fun p => (lvl - 1, ptePfn p.entry.toNat)))

/-- A whole walk on a die; one that a TLBI reached begins at the root (06 R114). -/
def State.walk (s : State) (die : Nat) (w : Walk) : WalkRes × List Node × State :=
  let va := w.page * 4096
  match (if w.fromRoot then none else cachedNode (s.die die).wcache w.asid.toNat va) with
  | some (lvl, t) => s.walkFrom (w.reader die) va lvl t
  | none => s.walkFrom (w.reader die) va 5 (s.space w.asid.toNat).root.toNat

/-! Translation. -/

/-- The kinds of access of R203. -/
inductive Acc where
  | load | store | atomic | fetch
  deriving DecidableEq, Repr

/-- A leaf grants an access at a level, R203. -/
def grants (leaf : Nat) (acc : Acc) (priv : Nat) : Bool :=
  (match acc with
   | .load => pteR leaf
   | .store => pteW leaf
   | .atomic => pteR leaf && pteW leaf
   | .fetch => pteR leaf && !pteXd leaf && pteMt leaf == 0 && (priv == 0 || !pteU leaf)) &&
  (priv != 0 || pteU leaf)

def TlbEntry.covers (e : TlbEntry) (asid : BitVec 12) (va : Nat) : Bool := e.asid == asid && va / 2 ^ e.sz * 2 ^ e.sz == e.vbase

/-- The die whose quadrant TLBs and walkers serve a core: an I/O die serves its system cores. -/
def quadOf (cid : Nat) : Nat := coreNo cid / 16

/-- The leaf a core finds in its own TLB, then in its quadrant's (R331). -/
def State.tlbFind (s : State) (cid : Nat) (asid : BitVec 12) (va : Nat) : Option TlbEntry :=
  match (s.core cid).tlb.find? (fun e => e.covers asid va) with
  | some e => some e
  | none => (Tab.get [] (s.die (coreDie cid)).qtlb (quadOf cid)).find? (fun e => e.covers asid va)

/-- The translation of one address for a group. -/
inductive Trans where
  | ok (pa : Nat) (dev : Bool) (leaf : TlbEntry)
  | fault (cause : Nat)
  | miss
  deriving DecidableEq, Repr

def State.translate (s : State) (gid : Nat) (asid : BitVec 12) (va : Nat) (acc : Acc) (priv : Nat) : Trans :=
  if 2 ^ 56 ≤ va then .fault cPageFault
  else match (s.group gid).walkFaults.find? (fun f => f.asid == asid && f.page == va / 4096) with
  | some f => .fault f.cause.toNat
  | none =>
    match s.tlbFind (coreOf gid) asid va with
    | none => .miss
    | some e =>
      if grants e.leaf.toNat acc priv then .ok (ptePfn e.leaf.toNat + (va - e.vbase)) (pteMt e.leaf.toNat == 1) e
      else .fault cPermission

/-- A TLB takes a leaf: the newest first, at most `n` entries; an older entry for the same page goes. -/
def tlbPut (n : Nat) (t : List TlbEntry) (e : TlbEntry) : List TlbEntry :=
  (e :: t.filter (fun x => !(x.asid == e.asid && x.vbase == e.vbase && x.sz == e.sz))).take n

/-- A group's request for a walk joins the walk of its page, or starts one with the request's level, world and generation (R331, 11 R222). -/
def joinWalk (ws : List Walk) (gid level : Nat) (world asid : BitVec 12) (gen : BitVec 10) (page : Nat) : List Walk :=
  if ws.any (fun w => w.asid == asid && w.page == page) then
    ws.map (fun w => if w.asid == asid && w.page == page && !w.waiters.contains gid then { w with waiters := w.waiters ++ [gid] } else w)
  else ws ++ [{ asid := asid, page := page, level := level, world := world, gen := gen, waiters := [gid], fromRoot := false }]

/-- Ask for walks of the pages of several addresses, and wait (R327: the wait is no descheduling point). -/
def State.askWalks (s : State) (gid : Nat) (asid : BitVec 12) (vas : List Nat) : State :=
  let d := dieOf gid
  let g := s.group gid
  let x := s.die d
  (s.setDie d { x with walks := vas.foldl (fun ws va => joinWalk ws gid g.priv g.world asid (s.space asid.toNat).gen (va / 4096)) x.walks }).stall gid

/-! Instruction fetch. -/

/-- A fetched word, why not, a translation that is missing, or a write that must be applied before the read. -/
inductive FetchRes where
  | ok (w : Nat) (s : State)
  | fault (cause : Nat)
  | miss
  | wait
  deriving DecidableEq, Repr

/-- A sector that an access matches: same space, generation and world, its bits sound; any other is a miss (11 R222, 18 R333, 23 R383). -/
def Sector.matches (x : Sector) (asid : BitVec 12) (gen : BitVec 10) (world : BitVec 12) : Bool :=
  x.asid == asid && x.gen == gen && x.world == world && !x.bad

/-- A sector of a table that an access matches. -/
def hitIn (t : Tab Sector) (sec : Nat) (asid : BitVec 12) (gen : BitVec 10) (world : BitVec 12) : Option Sector :=
  match Tab.find t sec with
  | some x => if x.matches asid gen world then some x else none
  | none => none

/-- A sector of a table that an access would match but for an error in its bits. -/
def unsound (t : Tab Sector) (sec : Nat) (asid : BitVec 12) (gen : BitVec 10) (world : BitVec 12) : Bool :=
  (Tab.find t sec).any (fun x => x.bad && x.asid == asid && x.gen == gen && x.world == world)

/-- The reader that a group's fetch is. -/
def Group.fetcher (g : Group) (die level : Nat) : Reader := { src := die, level := level, asid := g.k.casid, gen := g.cgen, world := g.world }

/-- What a fetch leaves in an instruction cache: the sector it read. -/
def Reader.codeSector (r : Reader) (bs : List Byte) : Sector :=
  { bytes := Tab.ofBytes bs, asid := r.asid, gen := r.gen, world := r.world, epoch := 0, bad := false }
/-- A fetch may leave its sector in the caches of its die: a sealed one only where the world reserves a way (23 R387). -/
def State.mayKeep (s : State) (r : Reader) (pa : Nat) : Bool := s.mayCopy r.src (localOf (s.pool r.src) pa) r.world
/-- A fetch leaves its sector in the core's L1I. -/
def State.keepL1i (s : State) (cid : Nat) (r : Reader) (pa : Nat) (bs : List Byte) : State :=
  if s.mayKeep r pa then s.fillL1i cid (pa / 256) (r.codeSector bs) else s

/-- A sector that a fetch would hit in an instruction cache has an error in its bits: it is invalidated and recorded, and the fetch misses (18 R333). -/
def State.l2iSound (s : State) (cid : Nat) (r : Reader) (pa : Nat) : State :=
  let x := s.die r.src
  let t := Tab.get [] x.l2i (quadOf cid)
  if r.src < 32 ∧ unsound t (pa / 256) r.asid r.gen r.world = true then
    (s.setDie r.src { x with l2i := Tab.put x.l2i (quadOf cid) (Tab.erase t (pa / 256)) }).mclog cid 7 pa
  else s
def State.l1iSound (s : State) (cid : Nat) (r : Reader) (pa : Nat) : State :=
  let k := s.core cid
  if unsound k.l1i (pa / 256) r.asid r.gen r.world then (s.setCore cid { k with l1i := Tab.erase k.l1i (pa / 256) }).mclog cid 7 pa else s

/-- The whole sector of an address through the quadrant's L2I and the die's L2, which fills the L2I (R226). An I/O die has no L2I. -/
def State.fetchSector (s : State) (cid : Nat) (r : Reader) (pa : Nat) : Served :=
  match (if r.src < 32 then hitIn (Tab.get [] (s.die r.src).l2i (quadOf cid)) (pa / 256) r.asid r.gen r.world else none) with
  | some x => .ok (x.read 0 256) s
  | none =>
    match (s.l2iSound cid r pa).l2Read r (pa / 256 * 256) 256 with
    | .ok bs s1 => .ok bs (if r.src < 32 ∧ s1.mayKeep r pa then s1.fillL2i r.src (quadOf cid) (pa / 256) (r.codeSector bs) else s1)
    | q => q

/-- A fetch that misses the L1I fills its sector. -/
def State.fetchMiss (s : State) (cid : Nat) (r : Reader) (pa : Nat) : FetchRes :=
  match s.fetchSector cid r pa with
  | .ok bs s1 => .ok (ofBytesLE ((r.codeSector bs).read (pa % 256) 4)) (s1.keepL1i cid r pa bs)
  | .fault cause => .fault cause
  | .wait => .wait

/-- The fetch of the word at an address in a group's code space at a level (03 R53, 11 R203, R226). The address is taken as it stands, its bits [1:0]
too (assumption 85). -/
def State.fetchWord (s : State) (gid : Nat) (va : DWord) (priv : Nat) : FetchRes :=
  let g := s.group gid
  let cid := coreOf gid
  let asid := g.k.casid
  match s.translate gid asid va.toNat .fetch priv with
  | .miss => .miss
  | .fault c => .fault c
  | .ok pa _ _ =>
    let pool := s.pool (dieOf gid)
    if !((regionOf pool pa).memory || beyondPool pool pa) then .fault cPermission
    else if g.cgen ≠ (s.space asid.toNat).gen then .fault cGenStale
    else match hitIn (s.core cid).l1i (pa / 256) asid g.cgen g.world with
      | some x => .ok (ofBytesLE (x.read (pa % 256) 4)) s
      | none => (s.l1iSound cid (g.fetcher (dieOf gid) priv) pa).fetchMiss cid (g.fetcher (dieOf gid) priv) pa

/-- The words of an instruction, or the address of the first that cannot be fetched, or a wait. -/
inductive FetchAll where
  | ok (ws : List Nat) (s : State)
  | fault (cause : Nat) (addr : DWord)
  | miss (addr : DWord)
  | wait
  deriving DecidableEq, Repr

/-- `n` words from an address on. -/
def State.fetchWords (s : State) (gid : Nat) (priv : Nat) (va : DWord) : Nat → FetchAll
  | 0 => .ok [] s
  | n + 1 =>
    match s.fetchWord gid va priv with
    | .miss => .miss va
    | .wait => .wait
    | .fault c => .fault c va
    | .ok w s1 =>
      match s1.fetchWords gid priv (va + 4) n with
      | .ok ws s2 => .ok (w :: ws) s2
      | r => r

/-- All words of the instruction at an address (R36, R53). They are read in one step: of code rewritten meanwhile, which 03 R54 lets a fetch see in any
mixture, the words of one cached sector are all old or all new (assumption 86). -/
def State.fetchInstr (s : State) (gid : Nat) (priv : Nat) (va : DWord) : FetchAll :=
  match s.fetchWords gid priv va 1 with
  | .ok [w] s1 => s1.fetchWords gid priv va (lenOf w / 4)
  | r => r

end Sys2Proof.Machine
end

