-- ==== Sys2Proof/Machine/Halting.lean ====
section
/-!
DEFINITION. Groups wherever they are; dependency counters (15 R290), the halt of a queue (R298), the halt of a world (23 R388).
-/

namespace Sys2Proof.Machine

/-! Groups wherever they are. -/

/-- The key of a group in a saved gang: what its entries name while it is off its core. -/
def savedKey (gang gid : Nat) : Nat := (gang + 1) * 2 ^ 20 + gid

/-- Change a group wherever it is. -/
def State.onGroup (s : State) (key : Nat) (f : Group → Group) : State :=
  if key < 2 ^ 20 then s.setGroup key (f (s.group key))
  else
    { s with saved := s.saved.map (fun v => if v.gang.id + 1 = key / 2 ^ 20 then
        { v with groups := v.groups.map (fun p => if p.1 = key % 2 ^ 20 then (p.1, f p.2) else p) } else v) }
/-- The group of a key. -/
def State.groupAt (s : State) (key : Nat) : Option Group :=
  if key < 2 ^ 20 then some (s.group key)
  else (s.saved.find? (fun v => v.gang.id + 1 == key / 2 ^ 20)).bind (fun v => (v.groups.find? (fun p => p.1 == key % 2 ^ 20)).map Prod.snd)

/-! Fields of an entry and of a queue. -/

def Entry.w (e : Entry) (i : Nat) : Nat := (e.words.getD i 0).toNat
def entQf (w0 : Nat) : Bool := bitAt w0 10
def entQmask (w0 : Nat) : Nat := bitsOf w0 23 16
def qScope (q : Queue) : Scope := (Scope.ofCode (bitsOf q.qctl.toNat 15 12)).getD .core

/-! Dependency counters, which follow a group that pre-emption took off its core (R290). -/

/-- The wider of two scopes. -/
def widerScope (a : Option Scope) (b : Scope) : Option Scope := match a with | some x => some (if x.rank < b.rank then b else x) | none => some b

/-- Lower a counter by one, remembering the queue's scope. -/
def Group.lowerDc (g : Group) (n : Nat) (sc : Scope) : Group :=
  { g with dc := Tab.set 0 g.dc n (Tab.get 0 g.dc n - 1), dcScope := Tab.set none g.dcScope n (widerScope (Tab.get none g.dcScope n) sc) }

/-- Lower the counter of an entry's group, which may have waited for it (07 R143). -/
def State.lowered (s : State) (e : Entry) (sc : Scope) : State :=
  match e.dc with | some n => s.onGroup e.gid (fun g => (g.lowerDc n sc).unblocked s.clock) | none => s
/-- The groups of a core whose wait at FEWAIT, CQWAIT or DCWAIT may have ended look again in their turn from now on. -/
def State.unblockWaiters (s : State) (cid : Nat) : State :=
  { s with groups := s.groups.map (fun p => (p.1, if p.1 / 32 = cid ∧ p.2.looksAgain then p.2.unblocked s.clock else p.2)) }

/-! Extensions, R286, and misses, R296. -/

/-- Some cycles join others: rising disjoint spans, first and end. -/
def addSpan : List (Nat × Nat) → Nat × Nat → List (Nat × Nat)
  | [], p => [p]
  | q :: r, p => if p.2 < q.1 then p :: q :: r else if q.2 < p.1 then q :: addSpan r p else addSpan r (min p.1 q.1, max p.2 q.2)
def joinSpans (xs ys : List (Nat × Nat)) : List (Nat × Nat) := ys.foldl addSpan xs
def spanLength (xs : List (Nat × Nat)) : Nat := (xs.map (fun p => p.2 - p.1)).sum

/-- The cycle by which an entry completes: its promise with its extension. -/
def Entry.dueBy (e : Entry) : Nat := e.promise + spanLength e.extend
/-- The first entry of a queue past its promise that has not missed it. -/
def State.missOf (s : State) (cid q : Nat) : Option Entry := (s.queue cid q).entries.find? (fun e => !e.missed && decide (e.dueBy ≤ s.clock))

/-- A PROMISE_MISSED handler is running in the group. -/
def Group.inPromise (g : Group) : Bool := [0, 1, 2, 3].any (fun m => g.act m && (g.tr m).cause.toNat == cPromise)

/-- MISSES counts a miss. -/
def State.countMiss (s : State) (cid q : Nat) : State :=
  let y := s.queue cid q
  s.setQueue cid q { y with qstat := BitVec.ofNat 64 (putBits y.qstat.toNat 63 48 (min 0xFFFF (bitsOf y.qstat.toNat 63 48 + 1))) }

/-- An entry misses: the miss counts in MISSES, or the handing group has PROMISE_MISSED pending (R296). -/
def State.miss (s : State) (cid q : Nat) (e : Entry) : State :=
  let x := s.queue cid q
  let s1 := s.setQueue cid q { x with entries := x.entries.map (fun d => if d.seq = e.seq then { d with missed := true } else d) }
  let takes := match s.groupAt e.gid with
    | some g => g.status == .running && g.pend.promise.isNone && !g.inPromise
    | none => false
  if bitAt (e.w 0) 9 && takes then s1.onGroup e.gid (fun g => { g with pend := { g.pend with promise := some (e.addr, cid * 8 + q) } }) else s1.countMiss cid q

/-- The misses of cycles that are over, before something takes the entries away. -/
def State.misses (s : State) (cid q : Nat) : State :=
  ((s.queue cid q).entries.filter (fun e => !e.missed && decide (e.dueBy < s.clock))).foldl (fun s e => s.miss cid q e) s

/-- A group that will not issue again: a miss still pending in it counts in MISSES (R296). -/
def State.dropPromise (s : State) (gid : Nat) : State :=
  match (s.group gid).pend.promise with
  | none => s
  | some (_, k) => (s.setGroup gid { s.group gid with pend := { (s.group gid).pend with promise := none } }).countMiss (k / 8) (k % 8)

/-! Halting a queue, R298. -/

/-- Every entry of the queues of a core that waits by a fence for an entry that was aborted. -/
def State.markFences (s : State) (cid q : Nat) (cause : BitVec 8) (dead : List Entry) : State :=
  (List.range 8).foldl (fun s i =>
    if i = q then s
    else
      let x := s.queue cid i
      s.setQueue cid i { x with entries := x.entries.map (fun e =>
        if entQf (e.w 0) && bitAt (entQmask (e.w 0)) q && dead.any (fun d => decide (d.handed < e.handed)) && e.fenceFault.isNone then { e with fenceFault := some cause } else e) }) s

/-- The queue halts: misses of earlier cycles stand, cause and address are recorded, every accepted entry is aborted and lowers its counter, HSEQ becomes CSEQ. -/
def State.haltQueue (s : State) (cid q cause addr : Nat) : State :=
  let s := s.misses cid q
  let x := s.queue cid q
  let dead := x.entries
  let st := putBits (putBits x.qstat.toNat 31 24 cause) 0 0 1
  let s1 := s.setQueue cid q { x with qstat := BitVec.ofNat 64 st, qfaddr := BitVec.ofNat 64 addr, hseq := x.cseq, entries := [], regs := [] }
  let s2 := dead.foldl (fun s e => s.lowered e (qScope x)) s1
  (s2.markFences cid q (BitVec.ofNat 8 cause) dead).unblockWaiters cid

/-! Halting a world, 23 R388. -/

/-- The queues of a core whose entries work for a world halt with FCAUSE 0x15 (23 R388). -/
def State.haltWorldQueues (s : State) (w : BitVec 12) (pa : Nat) : State :=
  s.cores.foldl (fun s p => (List.range 8).foldl (fun s q =>
    if (s.queue p.1 q).entries.any (fun e => e.world == w) then s.haltQueue p.1 q cIntegrity pa else s) s) s

/-- A world halts over the sector of an address: its groups have INTEGRITY pending, its queues halt (23 R388). -/
def State.haltWorld (s : State) (w : BitVec 12) (at_ : DWord) : State :=
  let pa := BitVec.ofNat 64 (at_.toNat / 256 * 256)
  let s1 := s.setWorld w.toNat { s.world w.toNat with halted := true }
  let s2 := s1.haltWorldQueues w pa.toNat
  let hit (g : Group) : Group := if g.resident && g.world == w && g.pend.integrity.isNone then { g with pend := { g.pend with integrity := some pa } } else g
  { s2 with
    groups := s2.groups.map (fun (p : Nat × Group) => (p.1, hit p.2))
    saved := s2.saved.map (fun (v : Saved) => { v with groups := v.groups.map (fun (p : Nat × Group) => (p.1, hit p.2)) }) }

end Sys2Proof.Machine
end

