-- ==== Sys2Proof/Machine/Issue.lean ====
section
/-!
DEFINITION. What stands before an issue: traps between issues (18 R329), breakpoints (R336), the fetch and its faults (03 R53), decoding;
the choice of the next group (07 R143), the passing of cycles and the counters that count them (24 R399).
-/

namespace Sys2Proof.Machine

/-- A wait that pre-emption stops at (19 R349): a barrier wait, a sleep, an XACQ. -/
def Wait.stopPoint : Wait → Bool
  | .sleep _ | .tree | .rows _ | .xacq .. => true
  | _ => false

/-- Some level's trap is in progress. -/
def Group.inTrap (g : Group) : Bool := g.act 0 || g.act 1 || g.act 2 || g.act 3

/-- The breakpoint of a core that an issue address matches (R336). -/
def State.breakpointAt (s : State) (gid : Nat) (pc : DWord) : Option Nat :=
  let g := s.group gid
  let k := s.core (coreOf gid)
  if g.pend.noBreak = some pc ∨ k.level cBreakpoint ≤ g.priv then none
  else [0, 1, 2, 3].find? (fun i =>
    let b := (Tab.get 0 k.ibrk i).toNat
    bitAt b 0 && bitsOf b 63 56 == g.vdev.toNat && bitsOf b 55 2 * 4 == pc.toNat)

/-- The traps between issues (R329). -/
inductive Between where
  | report
  | integrity (pa : DWord)
  | step
  | promise
  | watchdog
  | preempt
  | breakpoint
  deriving DecidableEq, Repr

/-- A report can be taken: one that comes precisely, or a deferred one when no trap of an earlier deferred report is in progress (R328). -/
def Group.reportOpen (g : Group) : Bool :=
  g.pend.reports.any (fun r => r.precise) || (!g.pend.reports.isEmpty && !([0, 1, 2, 3].any (fun m => g.act m && (g.tr m).tstat.getLsbD 3)))

/-- The trap that the group takes before its next issue, in the order of R329; a wait that it may interrupt leaves STEP to its end, and a
breakpoint does not interrupt a wait. -/
def State.pendingTrap (s : State) (gid : Nat) : Option Between :=
  let g := s.group gid
  let p := g.pend
  let waits := g.wait != .none
  if waits && !g.wait.stopPoint then none
  else if g.reportOpen then some .report
  else match p.integrity with
  | some pa => some (.integrity pa)
  | none =>
    if p.step && !waits then some .step
    else if p.promise.isSome then some .promise
    else if p.watchdog then some .watchdog
    else if p.preempt && !waits then some .preempt
    else if waits || g.looksAgain then none
    else match g.issueAddr with
      | some pc => (s.breakpointAt gid pc).map (fun _ => .breakpoint)
      | none => none

/-- A result is on its way to a loop counter of the group: the counter has no full bit, and the group waits (assumption 16). -/
def State.ctrBusy (s : State) (gid : Nat) : Bool := s.reqs.any (fun r => r.gid == gid && (match r.dst with | .lc _ => true | _ => false))

/-- Signet exchanges a tile or reloads a table slot for a group of a world that stands at level 3 with ACC_NOT_OWNER: the group does nothing meanwhile
(23 R382, assumption 108). -/
def State.exchanging (s : State) (gid : Nat) : Bool :=
  let g := s.group gid
  !isSystem gid && g.world != 0 && g.priv == 3 && g.act 3 && (g.tr 3).cause.toNat == cAccOwner && g.wait == .none

/-- The group can do something at its turn: it is resident, not held for pre-emption, has a live lane, its issue interval has passed (07 R141), Signet is not at work for it, and it either
issues or takes a trap. -/
def State.canIssue (s : State) (gid : Nat) : Bool :=
  let g := s.group gid
  g.status == .running && !g.held && decide (g.readySince ≤ s.clock) && !s.ctrBusy gid && g.issueAddr.isSome && !s.exchanging gid && (g.wait == .none || (s.pendingTrap gid).isSome)

/-- What comes of a group's turn: an instruction or a trap between issues to execute, or a state. -/
inductive Turn where
  | exec (i : Instr) (s : State)
  | trap (b : Between) (s : State)
  | done (s : State)
  deriving DecidableEq, Repr

/-- A machine check of a fetch is recorded with the word's address (R333). -/
def State.fetchLog (s : State) (gid cause : Nat) (addr : DWord) : State :=
  if cause = cMachineCheck then s.mclog (coreOf gid) 7 addr.toNat else s

/-- The physical address of a word of a group's code, where its translation is known. -/
def State.codePa (s : State) (gid : Nat) (addr : DWord) : Nat :=
  match s.translate gid (s.group gid).k.casid addr.toNat .fetch (s.group gid).priv with | .ok pa _ _ => pa | _ => 0

/-- A fault of the fetch of a word at a level is one on the private region (23 R382). -/
def State.codePrivate (s : State) (gid : Nat) (addr : DWord) (priv cause : Nat) : Bool :=
  match s.translate gid (s.group gid).k.casid addr.toNat .fetch priv with
  | .ok pa _ _ => privateFault cause priv (localOf (s.pool (dieOf gid)) pa)
  | _ => false

/-- A tag that does not match, met by the fetch of a word: the world halts (23 R388). -/
def State.fetchHalt (s : State) (gid : Nat) (addr : DWord) : State := s.haltWorld (s.group gid).world (BitVec.ofNat 64 (s.codePa gid addr))

/-- A fault of the fetch, raised by the instruction at the issue address (R53), or the halt of the world. -/
def State.fetchFault (s : State) (gid : Nat) (pc : DWord) (cause : Nat) (addr : DWord) : State :=
  if cause = cIntegrity then s.fetchHalt gid addr else
  let g := s.group gid
  let s := s.fetchLog gid cause addr
  (s.setGroup gid { g with walkFaults := [], lastIssue := s.clock, readySince := s.clock + 4, issueNo := g.issueNo + 1, faulted := true }).trap gid
    { cause := cause, lanes := g.atPc pc, addr := addr, pc := pc, defr := none, pr := s.codePrivate gid addr g.priv cause }

/-- The issue of an instruction, by the fields of its extended form. -/
def State.ctxOf (s : State) (i : Instr) : Ctx := s.ctx i ((i.parts.map (fun p => p.x)).getD (Ext.ofBase 0x01 .none .none .none))
/-- The cycle from which the latch sources of an issue can be read: a read of a latch whose producer has not finished holds issue (02 R24). -/
def Ctx.latchesAt (c : Ctx) : Nat :=
  ([c.x.a, c.x.b, c.x.c].flatMap (fun o => match o with
    | .la n => (c.en.lanes.filter (fun l => (c.g.lane l).laOk.getLsbD n.val)).map (fun l => ((c.g.lane l).laAt[n.val]?).getD 0)
    | _ => [])).foldl max 0

/-- The instruction at the issue address: fetched, decoded, or the trap that this raises. A group with an unfinished latch source is not ready until its
producer is done (07 R143). -/
def State.fetchTurn (s : State) (gid : Nat) (pc : DWord) : Turn :=
  match s.fetchInstr gid (s.group gid).priv pc with
  | .miss a => .done (s.askWalks gid (s.group gid).k.casid [a.toNat])
  | .wait => .done (s.stall gid)
  | .fault c a => .done (s.fetchFault gid pc c a)
  | .ok ws s1 =>
    match decodeWords (ws.getD 0 0) (ws.getD 1 0) (ws.getD 2 0) (ws.getD 3 0) (ws.getD 4 0) with
    | .ok i =>
      let n := (s1.ctxOf i).latchesAt
      if n ≤ s1.clock then .exec i s1 else .done (s1.setGroup gid { s1.group gid with readySince := n, blocked := false })
    | .error _ =>
      let w := if ws.getD 0 0 % 4 ≥ 2 then ws.getD 0 0 + 2 ^ 32 * ws.getD 1 0 else ws.getD 0 0
      let g := s1.group gid
      .done ((s1.setGroup gid { g with lastIssue := s1.clock, readySince := s1.clock + 4, issueNo := g.issueNo + 1, faulted := true }).trap gid
        { cause := cIllegal, lanes := g.atPc pc, addr := BitVec.ofNat 64 w, pc := pc, defr := none, pr := false })

/-- A group's turn (R329, R53). A group that cannot do anything lets its turn pass. -/
def State.turnOf (s : State) (gid : Nat) : Turn :=
  let s := { s with cur := gid }
  if s.canIssue gid then
    match s.pendingTrap gid with
    | some b => .trap b s
    | none =>
      match (s.group gid).issueAddr with
      | some pc => s.fetchTurn gid pc
      | none => .done s
  else .done s

/-- The die of a core withholds issue (24 R396). -/
def State.withholds (s : State) (gid : Nat) : Bool := (s.die (dieOf gid)).withheld

/-- Among the groups that satisfy `p` and can issue, the one that has been ready longest; ties go to the earlier key (R143). -/
def State.readiest (s : State) (p : Nat → Bool) : Option Nat :=
  (s.groups.foldl (fun (a : Option (Nat × Nat)) q =>
    if p q.1 && s.canIssue q.1 then
      match a with
      | some (_, r) => if q.2.readySince < r then some (q.1, q.2.readySince) else a
      | none => some (q.1, q.2.readySince)
    else a) none).map Prod.fst

/-- The next group to issue; one whose die withholds issue comes last. -/
def State.nextGroup (s : State) : Option Nat :=
  match s.readiest (fun g => !s.withholds g) with
  | some g => some g
  | none => s.readiest s.withholds

/-- One of n registers is empty under the policy that waits. -/
def Group.blocks (g : Group) (pol : Bool) (o : Opnd) (n : Nat) : Bool :=
  match o with
  | .v r => !pol && (List.range n).any (fun i => g.isEmpty (r.val + i))
  | _ => false
/-- The instruction waits for an empty register: a source under the block policy, the registers that MOVX and MOVXW select once the index can be read, or
its destination (07 R143). -/
def Ctx.blocked (c : Ctx) (i : Instr) : Bool :=
  let x := c.x
  let g := c.g
  let picked (n : Nat) (o : Opnd) (pol : Bool) : Bool := !g.blocks false o 1 && !pol && c.en.lanes.any (fun l => g.isEmpty (n + (c.rd32 l o).toNat))
  c.en != 0 &&
  (match i with
   | .movx _ => g.blocks x.fb x.b 1 || g.blocks false x.d 1 || picked x.a.code x.b x.fa
   | .movxw _ => g.blocks x.fa x.a 1 || g.blocks x.fb x.b 1 || picked x.d.code x.a false
   | _ =>
     match i.parts.bind (fun p => formOf p.maj p.min p.x) with
     | some f =>
       g.blocks x.fa x.a f.a.regs || g.blocks x.fb x.b f.b.regs || g.blocks x.fc x.c f.c.regs || g.blocks false x.d f.d.regs ||
       (c.mode == .rsr && g.blocks false x.rsrc 1) ||
       (match i, x.w2 with
        | .mmaq _, .x _ _ _ _ _ _ _ sca scw => g.blocks false sca 1 || g.blocks false scw 1
        | _, _ => false)
     | none => false)

/-- The first cause of R399 that holds for a group that does not issue; waits at RFL and FEWAIT, which the list does not name, count as waits
(assumption 87). -/
def State.stallCause (s : State) (gid : Nat) : Nat :=
  let g := s.group gid
  match g.issueAddr with
  | none => 4
  | some pc =>
    match s.fetchInstr gid g.priv pc with
    | .miss _ | .fault _ _ | .wait => 0
    | .ok ws s1 =>
      if (s1.core (coreOf gid)).l1i ≠ (s.core (coreOf gid)).l1i then 0
      else match decodeWords (ws.getD 0 0) (ws.getD 1 0) (ws.getD 2 0) (ws.getD 3 0) (ws.getD 4 0) with
      | .error _ => 6
      | .ok i =>
        let c := { s with cur := gid }.ctxOf i
        if g.wait == .none && c.blocked i then 1
        else if g.wait == .none && decide (s.clock < c.latchesAt) then 2
        else if g.wait == .none && (match i with | .cqadvX x => bitAt x.imm 2 && Tab.get 0 g.dc (x.imm % 4) == 63 | _ => false) then 3
        else if g.held && g.satisfied then 7
        else if g.wait != .none || g.looksAgain || g.parked != 0 then 4
        else if s.clock < g.lastIssue + 4 || (!g.blocked && decide (s.clock < g.readySince)) then 5
        else 6

/-- A 48-bit counter that saturates takes n more counts. -/
def satAdd (x : BitVec 48) (n : Nat) : BitVec 48 := BitVec.ofNat 48 (min (2 ^ 48 - 1) (x.toNat + n))

/-- Of the n cycles from now, those that a counter counts, which counts from cycle `from_` on. -/
def cyclesFrom (now n from_ : Nat) : Nat := n - (from_ - now)
/-- Each resident compute-core group that is neither draining nor issuing counts n cycles under one cause, the group that issued all but the first (R399). -/
def State.countStalls (s : State) (n : Nat) (issuer : Option Nat) : State :=
  s.groups.foldl (fun t p =>
    if isSystem p.1 || !(p.2.status == .running || p.2.status == .stopped) then t
    else
      let k := t.core (coreOf p.1)
      let c := s.stallCause p.1
      let m := cyclesFrom s.cycles n (max (Tab.get 0 k.pcFrom (0x208 + c)) (if issuer == some p.1 then s.cycles + 1 else 0))
      if m = 0 then t else t.setCore (coreOf p.1) { k with pcstl := Tab.put k.pcstl c (satAdd (Tab.get 0 k.pcstl c) m) }) s

end Sys2Proof.Machine
end

