-- ==== Sys2Proof/Machine/Items.lean ====
section
/-!
DEFINITION. Items and where they come from: chunks, distributors, item queues, filling a lane, refill and draining (07 R126 to R134, 19 R346).
-/

namespace Sys2Proof.Machine

def State.launch? (s : State) (seq : Nat) : Option Launch := s.launches.find? (fun l => l.seq == seq)
/-- Change a launch. -/
def State.onLaunch (s : State) (seq : Nat) (f : Launch → Launch) : State :=
  { s with launches := s.launches.map (fun l => if l.seq = seq then f l else l) }

def Launch.items (l : Launch) : Nat := l.nx * l.ny * l.nz
def Launch.chunks (l : Launch) : Nat := (l.items + 255) / 256
/-- The items of a chunk, R127. -/
def Launch.chunk (l : Launch) (c : Nat) : List Nat := (List.range (min 256 (l.items - 256 * c))).map (fun i => 256 * c + i)
/-- How many chunks belong to die d. -/
def Launch.own (l : Launch) (d : Nat) : Nat := (l.chunks + 31 - d) / 32
/-- How many own chunks of die d are not dealt. -/
def Launch.undealt (l : Launch) (d : Nat) : Nat := l.own d - Tab.get 0 l.first d - Tab.get 0 l.taken d

/-- Insert an item in ascending order. -/
def insertItem (i : Nat) : List Nat → List Nat
  | [] => [i]
  | j :: r => if i ≤ j then i :: j :: r else j :: insertItem i r

/-- What die d's distributor deals next: returned items first (R346), then the rest of the current chunk, then its next own chunk, then the next chunk it
stole (R127). -/
def Launch.deal (l : Launch) (d : Nat) : Option (List Nat × Launch) :=
  let back := Tab.get [] l.back d
  let cur := Tab.get [] l.cur d
  if !back.isEmpty then some (back.take 256, { l with back := Tab.put l.back d (back.drop 256) })
  else if !cur.isEmpty then some (cur, { l with cur := Tab.put l.cur d [] })
  else if 0 < l.undealt d then
    some (l.chunk (32 * Tab.get 0 l.first d + d), { l with first := Tab.put l.first d (Tab.get 0 l.first d + 1) })
  else match Tab.get [] l.stolen d with
    | c :: r => some (c, { l with stolen := Tab.put l.stolen d r })
    | [] => none

/-- What die d gives away to a steal message (R346): its highest undealt chunk, else returned items, else the rest of its current chunk, a chunk it
stole and has not dealt among them. -/
def Launch.give (l : Launch) (d : Nat) : Option (List Nat × Launch) :=
  let back := Tab.get [] l.back d
  let cur := Tab.get [] l.cur d
  if 0 < l.undealt d then
    some (l.chunk (32 * (Tab.get 0 l.first d + l.undealt d - 1) + d), { l with taken := Tab.put l.taken d (Tab.get 0 l.taken d + 1) })
  else if !back.isEmpty then some (back.take 256, { l with back := Tab.put l.back d (back.drop 256) })
  else if !cur.isEmpty then some (cur, { l with cur := Tab.put l.cur d [] })
  else match Tab.get [] l.stolen d with
    | c :: r => some (c, { l with stolen := Tab.put l.stolen d r })
    | [] => none

/-- The distributor holds something to deal. -/
def Launch.holds (l : Launch) (d : Nat) : Bool :=
  !(Tab.get [] l.back d).isEmpty || !(Tab.get [] l.cur d).isEmpty || decide (0 < l.undealt d) || !(Tab.get [] l.stolen d).isEmpty

/-- A lane receives item i: R131, R132. -/
def Group.fill (g : Group) (l i nx ny : Nat) : Group :=
  let x := g.lane l
  let wrap : Bool := x.gen == 0xFFFF#16
  let g := if wrap then { g with tag := g.tag.filter (fun p => p.1 % 32 != l) } else g
  let oc : Tab OcSlot := g.oc.map (fun (p : Nat × OcSlot) => (p.1, { p.2 with vals := Tab.set 0 p.2.vals l 0 }))
  { g with oc := oc }.setLane l
    { occupied := true, pc := g.k.entry, p := 0, lc := [], la := x.la, laOk := 0, laAt := [], fflag := 0, gen := if wrap then 1 else x.gen + 1, loops := [],
      item := BitVec.ofNat 32 (i % nx), itemy := BitVec.ofNat 32 (i / nx % ny), itemz := BitVec.ofNat 32 (i / (nx * ny)) }

/-- Empty lanes take items, lowest lane first and oldest item first. -/
def Group.fillFrom (g : Group) (nx ny : Nat) : List Nat → List Nat → Group × List Nat
  | [], items => (g, items)
  | _, [] => (g, [])
  | l :: ls, i :: is => (g.fill l i nx ny).fillFrom nx ny ls is

/-- The lanes that hold no item. -/
def Group.emptyLanes (g : Group) : List Nat := laneList.filter (fun l => !(g.lane l).occupied)

/-- A queue of 256 items or fewer fetches the next chunk while the launch has one (R127). -/
def Workgroup.wantsChunk (w : Workgroup) : Workgroup :=
  if w.items.length ≤ 256 && !w.fetching && !w.dry then { w with fetching := true } else w

/-- The refill of R129, after its conditions. -/
def State.refill (s : State) (gid : Nat) : State :=
  let g := s.group gid
  let w := s.wg g.wg
  match s.launch? g.launch with
  | none => s
  | some l =>
    let (g1, rest) := g.fillFrom l.nx l.ny g.emptyLanes w.items
    (s.setGroup gid g1).setWg g.wg { w with items := rest }.wantsChunk

/-- A refill must wait for the fetch in flight (R129). -/
def State.refillWaits (s : State) (gid : Nat) : Bool :=
  let w := s.wg (s.group gid).wg
  w.items.isEmpty && w.fetching

/-- A refill waits behind those that reached the queue before it (R129). -/
def State.awaitChunk (s : State) (gid : Nat) : State :=
  let n := (s.group gid).wg
  let w := s.wg n
  if w.waiters.contains gid then s else s.setWg n { w with waiters := w.waiters ++ [gid] }

/-- The group enters the draining state (R134); the expected count of its gang's wire tag falls, since it counts groups that do not drain. A miss pending
in it counts in MISSES (15 R296). -/
def State.drain (s : State) (gid : Nat) : State := (s.setGroup gid { s.group gid with status := .draining }).dropPromise gid

/-- After an EXIT: a group without a live or parked lane refills (R130) or drains (R134). -/
def State.afterExit (s : State) (gid : Nat) : State :=
  let g := s.group gid
  if g.status ≠ .running ∨ g.holding ≠ 0 then s
  else if !g.k.refill then s.drain gid
  else if s.refillWaits gid then s.awaitChunk gid
  else
    let s1 := s.refill gid
    if (s1.group gid).holding = 0 then s1.drain gid else s1

end Sys2Proof.Machine
end

