-- ==== Sys2Proof/Machine/Control.lean ====
section
/-!
DEFINITION. Branches, calls, hardware loops, ending and refilling lanes, sleeping, traps from instructions and RETT (06 R100 to R109),
and the end of a wait.
-/

namespace Sys2Proof.Machine

/-! Branches and calls. -/

/-- The byte offset of a relative branch: words of Word 2, or bytes of the literal (R14, R45). -/
def Ext.byteOffset (x : Ext) : DWord := match x.lit with | some l => l | none => BitVec.ofInt 64 (4 * toSigned 32 x.wval)
/-- The target of a relative branch. -/
def Ctx.target (c : Ctx) : DWord := c.pc + Ext.byteOffset c.x

/-- Send the lanes of a set to their targets, without a test of their loop stacks (R105). -/
def Group.jump (g : Group) (ls : Mask) (tgt : Nat → DWord) : Group :=
  ls.lanes.foldl (fun g l => g.setLane l { g.lane l with pc := tgt l }) g

/-- The issue ends: the lanes of `moved` have their PCs, the others of at_pc advance, and the issue is counted. -/
def State.commitExcept (s : State) (c : Ctx) (moved : Mask) (g : Group) : State :=
  s.setGroup c.gid ((g.advance (c.at_ &&& ~~~moved) c.pc c.next).issued s.clock)

/-- R101. `must`: uniformity is required by the opcode; `cond`: D is a condition. -/
def State.branch (s : State) (i : Instr) (x : Ext) (must cond : Bool) : Host.Outcome State Fault Refusal :=
  let c := s.ctx i x
  let srcs := if cond then [Src.plain x.d 1] else []
  let taken := maskOf (fun l => c.en.has l && (!cond || c.rd32 l x.d != 0#32))
  s.gate c (c.chk srcs .none 0)
    (if (must || x.uni) && taken != 0 && taken != c.at_ then s.trapAt c cUniform c.at_ c.target
     else s.commitExcept c taken (c.g.jump taken (fun _ => c.target)))

def braMeaning (i : Instr) (x : Ext) (s : State) : Host.Outcome State Fault Refusal := s.branch i x false false
def execBra (off : BitVec 16) (s : State) : Host.Outcome State Fault Refusal := braMeaning (.bra off) (branchBase 0x20 .none off) s
def execBraX (x : Ext) (s : State) : Host.Outcome State Fault Refusal := braMeaning (.braX x) x s
def brcMeaning (i : Instr) (x : Ext) (s : State) : Host.Outcome State Fault Refusal := s.branch i x false true
def execBrc (d : Opnd) (off : BitVec 16) (s : State) : Host.Outcome State Fault Refusal := brcMeaning (.brc d off) (branchBase 0x21 d off) s
def execBrcX (x : Ext) (s : State) : Host.Outcome State Fault Refusal := brcMeaning (.brcX x) x s
def bruMeaning (i : Instr) (x : Ext) (s : State) : Host.Outcome State Fault Refusal := s.branch i x true true
def execBru (d : Opnd) (off : BitVec 16) (s : State) : Host.Outcome State Fault Refusal := bruMeaning (.bru d off) (branchBase 0x22 d off) s
def execBruX (x : Ext) (s : State) : Host.Outcome State Fault Refusal := bruMeaning (.bruX x) x s

/-- R102: uniformity first, then alignment, then the link and the jump in every enabled lane. With UNI the enabled lanes must form all of at_pc, so an
issue that enables none of it traps too; TADDR of a disagreement is the target of the first enabled lane, or, with none enabled, of the first lane there
(assumption 83). -/
def State.callTo (s : State) (i : Instr) (x : Ext) (srcs : List Src) (tgt : Ctx → Nat → DWord) : Host.Outcome State Fault Refusal :=
  let c := s.ctx i x
  let t := tgt c
  let bad := maskOf (fun l => c.en.has l && (t l).toNat % 4 != 0)
  s.gate c (c.chk srcs x.d 2)
    (if x.uni && (c.en != c.at_ || !allSame (c.en.lanes.map t)) then
       s.trapAt c cUniform c.at_ (t (c.en.first.getD (c.at_.first.getD 0)))
     else match bad.first with
       | some l => s.trapAt c cMisalign bad (t l)
       | none => s.commitExcept c c.en ((c.after srcs .w64 x.d false (fun _ => Eff.v c.next.toNat)).jump c.en t))

def callMeaning (i : Instr) (x : Ext) (s : State) : Host.Outcome State Fault Refusal := s.callTo i x [] (fun c _ => c.target)
def execCall (d : Opnd) (off : BitVec 16) (s : State) : Host.Outcome State Fault Refusal := callMeaning (.call d off) (branchBase 0x23 d off) s
def execCallX (x : Ext) (s : State) : Host.Outcome State Fault Refusal := callMeaning (.callX x) x s
def execCalli (x : Ext) (s : State) : Host.Outcome State Fault Refusal := s.callTo (.calli x) x [x.srcA 2] (fun c l => c.rd64 l x.a)
def execRet (x : Ext) (s : State) : Host.Outcome State Fault Refusal := s.callTo (.ret x) x [x.srcA 2] (fun c l => c.rd64 l x.a)
def execJmpi (x : Ext) (s : State) : Host.Outcome State Fault Refusal := s.callTo (.jmpi x) x [x.srcA 2] (fun c l => c.rd64 l x.a)

/-! Hardware loops. -/

/-- The counter that D names. -/
def ctrOf : Opnd → Nat | .lc n => n.val | _ => 0

/-- TADDR of a REG_BOUND of LOOP and BRKL: 18 R326 puts a register number there, and a loop counter has none beside its specifier 0xCC + N
(assumption 22). -/
def ctrCode (n : Nat) : Nat := 0xCC + n

/-- Push an entry and load its counter. -/
def Lane.push (x : Lane) (n : Nat) (count : Word) (start stop : DWord) : Lane :=
  { x with lc := Tab.set 0 x.lc n count, loops := ⟨n, start, stop⟩ :: x.loops, pc := start }

/-- Pop entries down to and including the one that names counter n, each one's counter becoming 0. -/
def popTo (n : Nat) : List LoopEntry → Lane → Lane
  | [], x => { x with loops := [] }
  | e :: r, x =>
    let x' := { x with lc := Tab.set 0 x.lc e.ctr 0, loops := r }
    if e.ctr = n then x' else popTo n r x'

/-- LOOP after its precise checks: lanes with a count push; lanes without skip the body, or fault when the end word cannot be fetched. -/
def State.loopGo (s : State) (c : Ctx) (x : Ext) : State :=
  let n := ctrOf x.d
  let zero := maskOf (fun l => c.en.has l && c.rd32 l x.a == 0#32)
  let push := c.en &&& ~~~zero
  let g0 := c.g.killSrcs [x.srcA 1]
  let g1 := push.lanes.foldl (fun g l => g.setLane l ((g.lane l).push n (c.rd32 l x.a) c.next c.target)) g0
  if zero = 0 then s.commitExcept c c.en g1
  else match s.fetchWord c.gid c.target c.g.priv with
    | .miss => s.askWalks c.gid c.g.k.casid [c.target.toNat]
    | .wait => s.stall c.gid
    | .ok w s1 => s1.commitExcept c c.en (g1.jump zero (fun _ => c.target + BitVec.ofNat 64 (lenOf w)))
    | .fault cause =>
      if cause = cIntegrity then s.fetchHalt c.gid c.target
      else ((s.commitExcept c c.en g1).fetchLog c.gid cause c.target).trapPr c cause zero c.target (s.codePrivate c.gid c.target c.g.priv cause)

/-- LOOP, R104. -/
def execLoop (x : Ext) (s : State) : Host.Outcome State Fault Refusal :=
  let c := s.ctx (.loop x) x
  let n := ctrOf x.d
  let bad := maskOf (fun l => c.en.has l && ((c.g.lane l).loops.length == 4 || (c.g.lane l).loops.any (fun e => e.ctr == n)))
  s.gate c (c.chk [x.srcA 1] .none 0)
    (if c.en = 0 then s.commit c c.g else if bad != 0 then s.trapAt c cRegBound bad (BitVec.ofNat 64 (ctrCode n)) else s.loopGo c x)

/-- BRKL, R104. -/
def execBrkl (x : Ext) (s : State) : Host.Outcome State Fault Refusal :=
  let c := s.ctx (.brkl x) x
  let n := ctrOf x.d
  let bad := maskOf (fun l => c.en.has l && !(c.g.lane l).loops.any (fun e => e.ctr == n))
  .next (if bad != 0 then s.trapAt c cRegBound bad (BitVec.ofNat 64 (ctrCode n))
    else s.commitExcept c c.en (c.en.lanes.foldl (fun g l => g.setLane l { popTo n (g.lane l).loops (g.lane l) with pc := c.target }) c.g))

/-! NOP, YIELD, EXIT, RFL, SLEEP. -/

def nopMeaning (i : Instr) (x : Ext) (s : State) : Host.Outcome State Fault Refusal := let c := s.ctx i x; .next (s.commit c c.g)
def execNop (s : State) : Host.Outcome State Fault Refusal := nopMeaning .nop (Ext.ofBase 0x01 .none .none .none) s
def execNopX (x : Ext) (s : State) : Host.Outcome State Fault Refusal := nopMeaning (.nopX x) x s

/-- YIELD: a descheduling point; the group goes behind every group that is ready now, as its own readiness starts after its issue interval (R106). -/
def execYield (x : Ext) (s : State) : Host.Outcome State Fault Refusal :=
  let c := s.ctx (.yield x) x
  .next (s.commit c c.g.desched)

/-- EXIT: the enabled lanes become empty; the last one refills or drains the group (R106, R130). -/
def exitMeaning (i : Instr) (x : Ext) (s : State) : Host.Outcome State Fault Refusal :=
  let c := s.ctx i x
  if isSystem c.gid then .next (s.illegal c)
  else
    let g := c.en.lanes.foldl (fun g l => g.setLane l { g.lane l with occupied := false }) c.g
    .next ((s.commitExcept c c.en g).afterExit c.gid)
def execExit (s : State) : Host.Outcome State Fault Refusal := exitMeaning .exit (Ext.ofBase 0x25 .none .none .none) s
def execExitX (x : Ext) (s : State) : Host.Outcome State Fault Refusal := exitMeaning (.exitX x) x s

/-- A group waits at this instruction: its lanes keep their PCs, the issue is counted. -/
def State.waitAt (s : State) (c : Ctx) (g : Group) (w : Wait) : State :=
  s.setGroup c.gid { g.issued s.clock with wait := w, waitLen := c.len }

/-- RFL, R106, R129: one that must wait for a chunk takes its place among the refills of its queue. -/
def execRfl (x : Ext) (s : State) : Host.Outcome State Fault Refusal :=
  let c := s.ctx (.rfl x) x
  if isSystem c.gid then .next (s.illegal c)
  else if c.en = 0 ∨ !c.g.k.refill ∨ c.g.emptyLanes = [] then .next (s.commit c c.g)
  else if s.refillWaits c.gid then .next ((s.waitAt c c.g .refill).awaitChunk c.gid)
  else .next ((s.commit c c.g).refill c.gid)

/-- The wait ends: the lanes at the instruction advance past it; a group stopped for pre-emption is marked satisfied (19 R349). -/
def State.finishWait (s : State) (gid : Nat) : State :=
  let g := s.group gid
  match g.issueAddr with
  | none => s.setGroup gid { g with wait := .none, satisfied := g.held }
  | some pc =>
    s.setGroup gid { g.advance (g.atPc pc) pc (pc + BitVec.ofNat 64 g.waitLen) with wait := .none, satisfied := g.held, readySince := max s.clock g.readySince }

/-- SLEEP and SLEEPD: a descheduling point; the wake cycle is the largest over the enabled lanes, and no lane enabled waits for nothing (R107).
A sleep that RETT resumes keeps its wake cycle and reads nothing (18 R326). -/
def State.sleepTo (s : State) (i : Instr) (x : Ext) (n : Nat) (wake : Ctx → Nat → Nat) : Host.Outcome State Fault Refusal :=
  let c := s.ctx i x
  match c.g.resume with
  | some w => .next (s.waitAt c c.g.desched (.sleep w))
  | none =>
    s.gate c (c.chk [x.srcA n] .none 0)
      (if c.en = 0 then s.commit c c.g.desched
       else s.waitAt c (c.g.killSrcs [x.srcA n]).desched (.sleep (BitVec.ofNat 64 ((c.en.lanes.map (wake c)).foldl max s.clock))))

def sleepMeaning (i : Instr) (x : Ext) (s : State) : Host.Outcome State Fault Refusal :=
  s.sleepTo i x 1 (fun c l => s.clock + (c.rd32 l x.a).toNat)
def execSleep (a : Opnd) (s : State) : Host.Outcome State Fault Refusal := sleepMeaning (.sleep a) (Ext.ofBase 0x26 .none a .none) s
def execSleepX (x : Ext) (s : State) : Host.Outcome State Fault Refusal := sleepMeaning (.sleepX x) x s
def execSleepd (x : Ext) (s : State) : Host.Outcome State Fault Refusal := s.sleepTo (.sleepd x) x 2 (fun c l => (c.rd64 l x.a).toNat)

/-- The wake cycle of a sleep has come. -/
def State.sleepDue (s : State) (gid : Nat) : Bool := match (s.group gid).wait with | .sleep w => decide (w.toNat ≤ s.clock) | _ => false
/-- SLEEP_WAKE: from W the group is ready (R107). -/
def execSleepWake (gid : Nat) (s : State) : Host.Outcome State Fault Refusal := .next (if s.sleepDue gid then s.finishWait gid else s)

/-! Traps from instructions, R108. -/

/-- TRAP and BKPT: cause and TADDR = k, when a lane is enabled. -/
def State.trapInstr (s : State) (i : Instr) (x : Ext) (cause : Nat) : Host.Outcome State Fault Refusal :=
  let c := s.ctx i x
  .next (if c.en = 0 then s.commit c c.g else s.trapAt c cause c.en (BitVec.ofNat 64 x.imm))
def trapMeaning (i : Instr) (x : Ext) (s : State) : Host.Outcome State Fault Refusal := s.trapInstr i x cSoftware
def execTrap (s : State) : Host.Outcome State Fault Refusal := trapMeaning .trap (Ext.ofBase 0x27 .none .none .none) s
def execTrapX (x : Ext) (s : State) : Host.Outcome State Fault Refusal := trapMeaning (.trapX x) x s
def execBkpt (x : Ext) (s : State) : Host.Outcome State Fault Refusal := s.trapInstr (.bkpt x) x cBreakpoint

/-- TFENCE waits until the group's passes have raised their flags, then traps in the lanes with an enabled flag. -/
def execTfence (x : Ext) (s : State) : Host.Outcome State Fault Refusal :=
  let c := s.ctx (.tfence x) x
  let fl := fun l => (c.g.lane l).fflag &&& BitVec.ofNat 5 c.g.aen
  let hit := maskOf (fun l => c.en.has l && fl l != 0#5)
  if c.en != 0 && s.passes.any (fun p => p.q.gid == c.gid) then .next (s.stall c.gid)
  else if hit = 0 then .next (s.commit c c.g)
  else .next (s.trapAt c cArith hit ((hit.lanes.foldl (fun a l => a ||| fl l) 0#5).zeroExtend 64))

/-- The registers of a world that ENTER or a trap out of it put away come back, 23 R381 (assumption 14). -/
def State.restoreWorld (s : State) (gid m : Nat) : State :=
  match (if isSystem gid && m == 2 then s.hosts.find? (fun h => h.core == coreOf gid && h.g.world != 0) else none) with
  | none => s
  | some h =>
    let g := s.group gid
    { s.setGroup gid { g with v := h.g.v, tag := h.g.tag, world := h.g.world,
                              lanes := g.lanes.map (fun p => (p.1, { p.2 with p := (h.g.lane p.1).p, lc := (h.g.lane p.1).lc, la := (h.g.lane p.1).la,
                                                                              fflag := (h.g.lane p.1).fflag, gen := (h.g.lane p.1).gen })) } with
      hosts := s.hosts.filter (fun k => !(k.core == h.core && k.g.world != 0)) }

/-- RETT, R109, R325. -/
def execRett (x : Ext) (s : State) : Host.Outcome State Fault Refusal :=
  let c := s.ctx (.rett x) x
  let m := c.g.priv
  let t := c.g.tr m
  let back (s : State) (tgt : DWord) : State := (s.setGroup c.gid ((c.g.issued s.clock).rett m tgt)).restoreWorld c.gid m
  if !c.g.act m then .next (s.privTrap c)
  else if c.en = 0 then .next (s.commit c c.g.desched)
  else if t.cause.toNat ≠ cSoftware then .next (back s t.pc)
  else match s.fetchWord c.gid t.pc t.priv.toNat with
    | .miss => .next (s.askWalks c.gid c.g.k.casid [t.pc.toNat])
    | .wait => .next (s.stall c.gid)
    | .ok w s1 => .next (back s1 (t.pc + BitVec.ofNat 64 (lenOf w)))
    | .fault cause => .next (if cause = cIntegrity then s.fetchHalt c.gid t.pc else (s.fetchLog c.gid cause t.pc).trapPr c cause c.en t.pc (s.codePrivate c.gid t.pc t.priv.toNat cause))

end Sys2Proof.Machine
end

