-- ==== Sys2Proof/Machine/Endpoint.lean ====
section
/-!
DEFINITION. The requester tables of the root ports (16 R303), the functions that bind a space (R306), and the error registers of an I/O die (R316, R317).
-/

namespace Sys2Proof.Machine

/-- Where a requester's entry stands in a port's table (R303). -/
def State.rqtEntry (s : State) (port rid : Nat) : Nat := (Tab.get 0 (s.io (ioOfPort port)).rqtbase (port % 16)).toNat + 16 * rid
/-- The two words of a requester's entry in a port's table. -/
def State.rqt (s : State) (port rid : Nat) : Nat × Nat :=
  let a := s.rqtEntry port rid
  (s.tableAt (ioOfPort port) a 8, s.tableAt (ioOfPort port) (a + 8) 8)
/-- A word of the PASID table of a requester's entry. -/
def State.pasidWord (s : State) (port rid pasid : Nat) : Nat := s.tableAt (ioOfPort port) ((s.rqt port rid).2 + 4 * pasid) 4

def rqtV (w : Nat) : Bool := bitAt w 63
def rqtPen (w : Nat) : Bool := bitAt w 62
def rqtAte (w : Nat) : Bool := bitAt w 61
def rqtPre (w : Nat) : Bool := bitAt w 60
def rqtWorld (w : Nat) : BitVec 12 := BitVec.ofNat 12 (bitsOf w 51 40)
def rqtVdev (w : Nat) : BitVec 8 := BitVec.ofNat 8 (bitsOf w 39 32)
def rqtDasid (w : Nat) : Nat := bitsOf w 11 0

/-- A function as one number. -/
def fnKey (port rid : Nat) : Nat := port * 65536 + rid

/-- The addresses of a block, as a die names them, that memory lists; every other byte there reads as `Memory.fill`. -/
def State.listed (s : State) (d base size : Nat) : List Nat :=
  (s.mem.flatMap (fun p => [p.1, poolName (s.pool d) p.1])).filter (fun a => !outside base size a)

/-- The requesters of a port whose entry is valid and takes translation requests, unless they count as ATE = 0 (R306). -/
def State.ateFns (s : State) (port : Nat) : List Nat :=
  let base := s.rqtEntry port 0
  ((s.listed (ioOfPort port) base (2 ^ 20)).map (fun a => (a - base) / 16)).eraseDups.filter (fun rid =>
    let w := (s.rqt port rid).1
    rqtV w && rqtAte w && !Tab.get false (s.io (ioOfPort port)).noAte (fnKey port rid))

/-- The spaces that an entry binds: its DASID, and those of its PASID table. -/
def State.fnSpaces (s : State) (port rid : Nat) : List Nat :=
  let w := s.rqt port rid
  let words := if cxlHole w.2 then [0] else ((s.listed (ioOfPort port) w.2 16384).map (fun a => (a - w.2) / 4)).eraseDups
  (rqtDasid w.1 :: (if rqtPen w.1 then (words.map (s.pasidWord port rid)).filterMap (fun e =>
    if bitAt e 31 then some (bitsOf e 11 0) else none) else [])).eraseDups

/-- The functions, by their keys, that bind a space which satisfies `p` with the world of their entry, each with that space (R306). -/
def State.boundFns (s : State) (p : BitVec 12 → Nat → Bool) : List (Nat × Nat) :=
  (List.range 32).flatMap (fun port => (s.ateFns port).flatMap (fun rid =>
    ((s.fnSpaces port rid).filter (p (rqtWorld (s.rqt port rid).1))).map (fun a => (fnKey port rid, a))))

/-- What an invalidation request names: the space, and the first address and the size of the range. -/
def invalData (asid base size : Nat) : List Byte := bytesLE 2 asid ++ bytesLE 8 base ++ bytesLE 8 size

/-- Invalidation requests for a range of spaces go out to functions; the group waits for their completions (R306). -/
def State.sendInvals (s : State) (gid : Nat) (fns : List (Nat × Nat)) (base size : Nat) : State :=
  fns.foldl (fun s f =>
    let io := ioOfPort (f.1 / 65536)
    s.setIo io { s.io io with inval := (s.io io).inval ++ [(f.1, gid, s.cycles)],
                              sent := (f.1 / 65536, f.1 % 65536, 3, invalData f.2 base size) :: (s.io io).sent }) s

/-- An invalidation that a group waits for is outstanding. -/
def State.invalsOf (s : State) (gid : Nat) : Bool := [32, 33].any (fun io => (s.io io).inval.any (fun p => p.2.1 == gid))

/-- Errors of Bezel and Clasp stores (R316). -/
def State.bezerr (s : State) (io reason index data : Nat) : State :=
  let x := s.io io
  s.setIo io { x with bezerr := errRecord x.bezerr reason index 0 data }
def State.clasperr (s : State) (io reason index port data : Nat) : State :=
  let x := s.io io
  s.setIo io { x with clasperr := errRecord x.clasperr reason index port data }

/-- What a root port sends to an endpoint: kind and data (1 read completion, 2 translation completion, 3 invalidation, 4 page response,
5 time, 6 unsupported request, 7 completer abort, 8 write: 8 bytes of the address, then the bytes written,
11 remote write: window, peer, generation, partition, issuer, offset, bytes, 21 R370). -/
def State.send (s : State) (port rid kind : Nat) (data : List Byte) : State :=
  let x := s.io (ioOfPort port)
  s.setIo (ioOfPort port) { x with sent := (port, rid, kind, data) :: x.sent }

end Sys2Proof.Machine
end

