-- ==== Sys2Proof/Machine/System.lean ====
section
/-!
DEFINITION. System registers (06 R110, R111 and the tables of the other chapters), IPF, WFI, TLBI (R112 to R114, 16 R306).
-/

namespace Sys2Proof.Machine

/-! System registers. -/

/-- The read level of a register; banked copies are read at their own level. -/
def sysReadLevel (n : Nat) : Nat :=
  if n = 0x18 then 1
  else if 0x20 ≤ n ∧ n ≤ 0x23 then max (n - 0x20) 1
  else if (0x30 ≤ n ∧ n ≤ 0x33) ∨ n = 0x38 then 1
  else if n = 0x39 then 2
  else if (0x100 ≤ n ∧ n ≤ 0x13F) ∨ (0x141 ≤ n ∧ n ≤ 0x147) then 1
  else if n = 0x180 ∨ (0x1C0 ≤ n ∧ n ≤ 0x20F) then 1
  else 0

/-- The write level; 4 is the level "none" that nothing reaches (R110). -/
def sysWriteLevel (n : Nat) : Nat :=
  if n = 0x18 ∨ n = 0x38 ∨ n = 0x39 ∨ n = 0x160 then 2
  else if 0x20 ≤ n ∧ n ≤ 0x23 then max (n - 0x20) 1
  else if 0x30 ≤ n ∧ n ≤ 0x33 then 1
  else if 0x100 ≤ n ∧ n ≤ 0x13F then 2
  else if 0x140 ≤ n ∧ n ≤ 0x143 then 4
  else if 0x144 ≤ n ∧ n ≤ 0x147 then 2
  else if (0x148 ≤ n ∧ n ≤ 0x150) ∨ n = 0x170 ∨ n = 0x1A0 then 4
  else if n = 0x180 then 1
  else if 0x1C0 ≤ n ∧ n ≤ 0x20F then 2
  else 0

/-- A register as MFS reads it in a lane, zero-extended (R110). -/
def State.sysRead (s : State) (gid l n : Nat) : DWord :=
  let g := s.group gid
  let k := s.core (coreOf gid)
  let t := g.tr g.priv
  let counter (x : Nat) : DWord := if isSystem gid then 0 else BitVec.ofNat 64 x
  if n = 0x00 then g.gsw.zeroExtend 64
  else if n = 0x01 then (g.lane l).fflag.zeroExtend 64
  else if n = 0x10 then t.cause.zeroExtend 64
  else if n = 0x11 then t.addr
  else if n = 0x12 then t.lanes.zeroExtend 64
  else if n = 0x13 then t.pc
  else if n = 0x14 then t.priv.zeroExtend 64
  else if n = 0x15 then t.tstat.zeroExtend 64
  else if n = 0x16 then Tab.get 0 t.scr0 l
  else if n = 0x17 then Tab.get 0 t.scr1 l
  else if n = 0x18 then k.troute.zeroExtend 64
  else if n = 0x19 then t.dpc
  else if n = 0x1A then t.dlanes.zeroExtend 64
  else if 0x20 ≤ n ∧ n ≤ 0x23 then Tab.get 0 k.tvec (n - 0x20)
  else if 0x30 ≤ n ∧ n ≤ 0x33 then Tab.get 0 k.ibrk (n - 0x30)
  else if n = 0x38 then k.wdog.zeroExtend 64
  else if n = 0x39 then k.mclog
  else if 0x100 ≤ n ∧ n ≤ 0x13F then (Tab.get Tile.reset k.tiles (n - 0x100)).own.zeroExtend 64
  else if n = 0x140 then (g.ac1 ++ g.ac0).zeroExtend 64
  else if n = 0x141 then g.ctxid.zeroExtend 64
  else if n = 0x142 then g.accslot0
  else if n = 0x143 then g.accslot1
  else if 0x144 ≤ n ∧ n ≤ 0x147 then (Tab.get 0 k.lutown (n - 0x144)).zeroExtend 64
  else if 0x148 ≤ n ∧ n ≤ 0x14B then Tab.get 0 g.lutsrc (n - 0x148)
  else if n = 0x150 then g.spbase.zeroExtend 64
  else if n = 0x160 then k.quantum.zeroExtend 64
  else if n = 0x170 then (Tab.get 0 g.dc 3 ++ Tab.get 0 g.dc 2 ++ Tab.get 0 g.dc 1 ++ Tab.get 0 g.dc 0).zeroExtend 64
  else if n = 0x180 then k.ipend
  else if n = 0x1A0 then g.world.zeroExtend 64
  else if 0x1C0 ≤ n ∧ n ≤ 0x1FF then (Tab.get Tile.reset k.tiles (n - 0x1C0)).recAddr
  else if n = 0x200 then counter (min (2 ^ 48 - 1) (s.cycles - k.pccycFrom))
  else if n = 0x201 then counter k.pciss.toNat
  else if 0x208 ≤ n ∧ n ≤ 0x20F then counter (Tab.get 0 k.pcstl (n - 0x208)).toNat
  else 0

/-- TROUTE as written: each field at least its cause's least level (18 R322). -/
def trouteOf (v : DWord) : BitVec 48 :=
  BitVec.ofNat 48 ((List.range 24).foldl (fun a i =>
    let c := i + 1
    a + (if c = cIntegrity then 3 else max (bitsOf v.toNat (2 * c - 1) (2 * c - 2)) (leastLevel c)) * 2 ^ (2 * i)) 0)

/-- GSW as written at a level: STEP, AEN and DRM (02 R33). -/
def Group.writeGsw (g : Group) (v : DWord) : Group :=
  let old := g.gsw.toNat
  let st := if g.priv = 0 then bitsOf old 28 28 else bitsOf v.toNat 28 28
  let drm := bitsOf v.toNat 10 8
  { g with gsw := BitVec.ofNat 32 (putBits (putBits (putBits old 28 28 st) 20 16 (bitsOf v.toNat 20 16)) 10 8 (if drm = 7 then 0 else drm)) }

/-- A write of a register of the group: GSW and the trap registers of the current level. -/
def Group.sysWrite (g : Group) (n : Nat) (v : DWord) : Group :=
  let m := g.priv
  let t := g.tr m
  if n = 0x00 then g.writeGsw v
  else if n = 0x10 then g.setTr m { t with cause := v.truncate 8 }
  else if n = 0x11 then g.setTr m { t with addr := v }
  else if n = 0x12 then g.setTr m { t with lanes := v.truncate 32 }
  else if n = 0x13 then g.setTr m { t with pc := v }
  else if n = 0x14 then g.setTr m { t with priv := v.truncate 2 }
  else if n = 0x15 then (if m = 0 then g else g.setTr m { t with tstat := (t.tstat &&& 0xFB#8) ||| (v.truncate 8 &&& 4#8) })
  else if n = 0x19 then g.setTr m { t with dpc := v }
  else if n = 0x1A then g.setTr m { t with dlanes := v.truncate 32 }
  else g

/-- A write of a register that each lane has: %fflag, TSCR0, TSCR1. -/
def Group.sysWriteLane (g : Group) (l n : Nat) (v : DWord) : Group :=
  let m := g.priv
  let t := g.tr m
  if n = 0x01 then g.setLane l { g.lane l with fflag := v.truncate 5 }
  else if n = 0x16 then g.setTr m { t with scr0 := Tab.set 0 t.scr0 l v }
  else if n = 0x17 then g.setTr m { t with scr1 := Tab.set 0 t.scr1 l v }
  else g

/-- The bits of a write-1-to-clear register that stay. -/
def w1c (old v mask : DWord) : DWord := old &&& ~~~(v &&& mask)

/-- A write of a register of the core. A counter that is written counts again from the next cycle on (24 R399). -/
def Core.sysWrite (k : Core) (cycles n : Nat) (v : DWord) : Core :=
  let tile (t : Nat) := Tab.get Tile.reset k.tiles t
  if n = 0x18 then { k with troute := trouteOf v }
  else if 0x20 ≤ n ∧ n ≤ 0x23 then { k with tvec := Tab.set 0 k.tvec (n - 0x20) (v &&& ~~~3#64) }
  else if 0x30 ≤ n ∧ n ≤ 0x33 then { k with ibrk := Tab.set 0 k.ibrk (n - 0x30) (v &&& ~~~2#64) }
  else if n = 0x38 then { k with wdog := v.truncate 16 }
  else if n = 0x39 then { k with mclog := w1c k.mclog v (3#64 <<< 62) }
  else if 0x100 ≤ n ∧ n ≤ 0x13F then { k with tiles := Tab.put k.tiles (n - 0x100) { tile (n - 0x100) with own := v.truncate 17 } }
  else if 0x144 ≤ n ∧ n ≤ 0x147 then { k with lutown := Tab.set 0 k.lutown (n - 0x144) (v.truncate 17) }
  else if n = 0x160 then { k with quantum := v.truncate 32 }
  else if n = 0x180 then { k with ipend := w1c k.ipend v (BitVec.allOnes 64) }
  else if 0x1C0 ≤ n ∧ n ≤ 0x1FF then { k with tiles := Tab.put k.tiles (n - 0x1C0) { tile (n - 0x1C0) with recAddr := v } }
  else if n = 0x200 then { k with pccycFrom := cycles + 1 }
  else if n = 0x201 then { k with pciss := 0, pcFrom := Tab.set 0 k.pcFrom n (cycles + 1) }
  else if 0x208 ≤ n ∧ n ≤ 0x20F then { k with pcstl := Tab.set 0 k.pcstl (n - 0x208) 0, pcFrom := Tab.set 0 k.pcFrom n (cycles + 1) }
  else k

/-- MFS, R110: each enabled lane reads its copy. -/
def mfsMeaning (i : Instr) (x : Ext) (s : State) : Host.Outcome State Fault Refusal :=
  let c := s.ctx i x
  let n := x.wval
  if n = 0x180 ∧ ¬ isSystem c.gid then .next (s.illegal c)
  else if c.g.priv < sysReadLevel n then .next (s.privTrap c)
  else s.runLanes c [] .w64 x.d false (fun l => Eff.v (s.sysRead c.gid l n).toNat)
def execMfs (d : Opnd) (s : State) : Host.Outcome State Fault Refusal := mfsMeaning (.mfs d) (Ext.ofBase 0x28 d .none .none) s
def execMfsX (x : Ext) (s : State) : Host.Outcome State Fault Refusal := mfsMeaning (.mfsX x) x s

/-- The write of MTS after the issue: it holds from the group's next issue (R110). -/
def State.mtsWrite (s : State) (c : Ctx) (n : Nat) (val : Nat → DWord) : State :=
  match c.en.first with
  | none => s
  | some l0 =>
    if n = 0x01 ∨ n = 0x16 ∨ n = 0x17 then
      s.setGroup c.gid (c.en.lanes.foldl (fun g l => g.sysWriteLane l n (val l)) (s.group c.gid))
    else
      let s1 := s.setGroup c.gid ((s.group c.gid).sysWrite n (val l0))
      s1.setCore (coreOf c.gid) ((s1.core (coreOf c.gid)).sysWrite s.cycles n (val l0))

/-- MTS, R110. -/
def execMts (x : Ext) (s : State) : Host.Outcome State Fault Refusal :=
  let c := s.ctx (.mts x) x
  let n := x.wval
  if n = 0x180 ∧ ¬ isSystem c.gid then .next (s.illegal c)
  else if c.g.priv < sysWriteLevel n then .next (s.privTrap c)
  else s.gate c (c.chk [x.srcA 2] .none 0)
    ((s.commit c (c.after [x.srcA 2] .none .none false (fun _ => Eff.v 0))).mtsWrite c n (fun l => c.rd64 l x.a))

/-! Fetch and waiting. -/

/-- One sector of an IPF comes into the named level: 0 the L1I, 1 the L2I, 2 the L2. What cannot be read is dropped (R112); none where the read must wait. -/
def State.ipfSector (s : State) (gid lvl pa : Nat) : Option State :=
  let r := (s.group gid).fetcher (dieOf gid) (s.group gid).priv
  match (if lvl = 2 then s.l2Read r pa 256 else s.fetchSector (coreOf gid) r pa) with
  | .ok bs s1 => some (if lvl = 0 then s1.keepL1i (coreOf gid) r pa bs else s1)
  | .fault _ => some s
  | .wait => none
/-- Several sectors. -/
def State.ipfSectors (s : State) (gid lvl : Nat) : List Nat → Option State
  | [] => some s
  | pa :: r => (s.ipfSector gid lvl pa).bind (fun t => t.ipfSectors gid lvl r)

/-- The 1 KiB blocks of code memory that the lanes of an IPF name, each once; an address that does not translate for a fetch is dropped. -/
def State.ipfBlocks (s : State) (c : Ctx) (ea : Nat → Nat) : List Nat :=
  (c.en.lanes.filterMap (fun l => match s.translate c.gid c.g.k.casid (ea l) .fetch c.g.priv with
    | .ok pa _ _ => if (regionOf (s.pool (dieOf c.gid)) pa).memory then some (pa / 1024) else none
    | _ => none)).eraseDups

/-- IPF brings blocks into an instruction cache or the L2: it never faults and has no visible effect (R112). -/
def ipfMeaning (i : Instr) (x : Ext) (s : State) : Host.Outcome State Fault Refusal :=
  let c := s.ctx i x
  let ea := fun l => (c.rd64 l x.a).toNat
  let missing := (c.en.lanes.map ea).filter (fun a => s.translate c.gid c.g.k.casid a .fetch c.g.priv == .miss)
  s.gate c (c.chk [x.srcA 2] .none 0)
    (if missing ≠ [] then s.askWalks c.gid c.g.k.casid missing
     else match s.ipfSectors c.gid (x.imm % 4) ((s.ipfBlocks c ea).flatMap (fun b => [0, 1, 2, 3].map (fun k => b * 1024 + 256 * k))) with
       | some s1 => s1.commit c (c.after [x.srcA 2] .none .none false (fun _ => Eff.v 0))
       | none => s.stall c.gid)
def execIpf (a : Opnd) (s : State) : Host.Outcome State Fault Refusal := ipfMeaning (.ipf a) (Ext.ofBase 0x29 .none a .none) s
def execIpfX (x : Ext) (s : State) : Host.Outcome State Fault Refusal := ipfMeaning (.ipfX x) x s

/-- WFI, R113: on a system core at level 1 or above; a wake that came before ends it at once. -/
def wfiMeaning (i : Instr) (x : Ext) (s : State) : Host.Outcome State Fault Refusal :=
  let c := s.ctx i x
  let cid := coreOf c.gid
  if !isSystem c.gid then .next (s.illegal c)
  else if c.g.priv < 1 then .next (s.privTrap c)
  else s.gate c (c.chk [x.srcA 2] .none 0)
    (if c.en = 0 then s.commit c c.g
     else if (s.core cid).wakeHeld then
       let s1 := s.commit c (c.g.killSrcs [x.srcA 2])
       s1.setCore cid { s1.core cid with wakeHeld := false }
     else s.waitAt c (c.g.killSrcs [x.srcA 2]) (.wfi (match c.en.first with | some l => c.rd64 l x.a | none => 0)))
def execWfi (a : Opnd) (s : State) : Host.Outcome State Fault Refusal := wfiMeaning (.wfi a) (Ext.ofBase 0x2A .none a .none) s
def execWfiX (x : Ext) (s : State) : Host.Outcome State Fault Refusal := wfiMeaning (.wfiX x) x s

/-- The counter has reached a WFI's nonzero deadline. -/
def State.wfiDue (s : State) (gid : Nat) : Bool :=
  match (s.group gid).wait with | .wfi d => d != 0 && decide (d.toNat ≤ s.clock) | _ => false
/-- WFI_DEADLINE. -/
def execWfiDeadline (gid : Nat) (s : State) : Host.Outcome State Fault Refusal := .next (if s.wfiDue gid then s.finishWait gid else s)

/-- A wake of a system core: it ends the WFI that the core holds, or is held for the next (R113, 16 R317). -/
def State.wakeCore (s : State) (cid : Nat) : State :=
  match (s.group (cid * 32)).wait with
  | .wfi _ => s.finishWait (cid * 32)
  | _ => s.setCore cid { s.core cid with wakeHeld := true }
/-- WAKE: a write reached the core's WAKE register. -/
def execWake (cid : Nat) (s : State) : Host.Outcome State Fault Refusal := .next (if isSystem (cid * 32) then s.wakeCore cid else s)

/-! Translation caches and generations. -/

/-- Remove the entries that satisfy `p` from every core TLB, quadrant TLB and inbound TLB (R114). -/
def State.dropTlb (s : State) (p : TlbEntry → Bool) : State :=
  { s with
    cores := s.cores.map (fun c => (c.1, { c.2 with tlb := c.2.tlb.filter (fun e => !p e) })),
    dies := s.dies.map (fun d => (d.1, { d.2 with qtlb := d.2.qtlb.map (fun q => (q.1, q.2.filter (fun e => !p e))) })),
    ios := s.ios.map (fun d => (d.1, { d.2 with tlb := d.2.tlb.filter (fun e => !p e) })) }

/-- Remove the cached non-leaf entries that satisfy `p`. -/
def State.dropNodes (s : State) (p : Node → Bool) : State :=
  { s with dies := s.dies.map (fun d => (d.1, { d.2 with wcache := d.2.wcache.filter (fun e => !p e) })) }

/-- Walks in flight that satisfy `p` restart from the root. -/
def State.restartWalks (s : State) (p : Walk → Bool) : State :=
  { s with dies := s.dies.map (fun d => (d.1, { d.2 with walks := d.2.walks.map (fun w => if p w then { w with fromRoot := true } else w) })) }

/-- The spaces of a world: those that its groups use, on their cores or saved, those of the functions bound to it, and those that its accesses walked
(assumption 34). -/
def State.spacesOf (s : State) (w : BitVec 12) : List Nat :=
  let used (gs : List (Nat × Group)) : List Nat := (gs.filter (fun p => p.2.resident && p.2.world == w)).flatMap (fun p => [p.2.asid.toNat, p.2.k.casid.toNat])
  let walked (es : List TlbEntry) : List Nat := (es.filter (fun e => e.world == w)).map (fun e => e.asid.toNat)
  (used s.groups ++ s.saved.flatMap (fun v => used v.groups) ++ (s.boundFns (fun v _ => v == w)).map Prod.snd ++ s.cores.flatMap (fun k => walked k.2.tlb) ++
    s.dies.flatMap (fun d => d.2.qtlb.flatMap (fun q => walked q.2) ++ (d.2.wcache.filter (fun n => n.world == w)).map Node.asid ++
      (d.2.walks.filter (fun x => x.world == w)).map (fun x => x.asid.toNat)) ++
    s.ios.flatMap (fun io => walked io.2.tlb)).eraseDups

/-- One removal of TLBI, by kind; kind 2 removes the entries of every space of the current world. -/
def State.tlbiOne (s : State) (world : BitVec 12) (k asid va : Nat) : State :=
  let a12 : BitVec 12 := BitVec.ofNat 12 asid
  if k = 0 then (s.dropTlb (fun e => e.covers a12 va)).restartWalks (fun w => w.asid == a12)
  else if k = 1 then ((s.dropTlb (fun e => e.asid == a12)).dropNodes (fun n => n.asid == asid)).restartWalks (fun w => w.asid == a12)
  else
    let mine := s.spacesOf world
    ((s.dropTlb (fun e => mine.contains e.asid.toNat)).dropNodes (fun n => mine.contains n.asid)).restartWalks (fun w => mine.contains w.asid.toNat)

/-- The level does not control the space, or the identifier names none (11 R199, R114; assumption 15). -/
def Group.foreign (g : Group) (asid : Nat) : Bool :=
  decide (4096 ≤ asid) || (g.priv == 1 && asid != g.asid.toNat && asid != g.k.casid.toNat)

/-- TLBI, R114; the group waits for the ATS completions of the functions that bind the spaces (16 R306). -/
def tlbiMeaning (i : Instr) (x : Ext) (s : State) : Host.Outcome State Fault Refusal :=
  let c := s.ctx i x
  let k := x.imm % 4
  let srcs := if k = 0 then [x.srcA 2, x.srcB 1] else [x.srcB 1]
  let sp := fun l => (c.rd32 l x.b).toNat
  let bad := maskOf (fun l => c.en.has l && (if k = 2 then decide (4096 ≤ sp l) else c.g.foreign (sp l)))
  if c.g.priv < (if k = 2 then 2 else 1) then .next (s.privTrap c)
  else s.gate c (c.chk srcs .none 0)
    (match bad.first with
     | some l => s.trapAt c cPermission bad (BitVec.ofNat 64 (sp l))
     | none =>
       if c.en = 0 then s.commit c c.g
       else
         let g := c.g.killSrcs srcs
         let pages := if k = 0 then (c.en.lanes.map (fun l => (sp l, (c.rd64 l x.a).toNat / 4096 * 4096))).eraseDups else []
         let fns := s.boundFns (fun w a => if k = 2 then w == c.g.world else c.en.lanes.any (fun l => sp l == a))
         let s1 := if k = 0 then pages.foldl (fun t p => t.sendInvals c.gid (fns.filter (fun f => f.2 == p.1)) p.2 4096) s
           else s.sendInvals c.gid fns 0 (2 ^ 56)
         let s2 := c.en.lanes.foldl (fun s l => s.tlbiOne c.g.world k (sp l) (c.rd64 l x.a).toNat) s1
         if fns.isEmpty then s2.commit c g else s2.waitAt c g .tlbi)
def execTlbi (a b : Opnd) (s : State) : Host.Outcome State Fault Refusal := tlbiMeaning (.tlbi a b) (Ext.ofBase 0x2B .none a b) s
def execTlbiX (x : Ext) (s : State) : Host.Outcome State Fault Refusal := tlbiMeaning (.tlbiX x) x s

end Sys2Proof.Machine
end

