-- ==== Sys2Proof/Machine/Requests.lean ====
section
/-!
DEFINITION. Requests in flight and the caches they touch: scopes (12 R227), acquires (R232, R239), what is outstanding, caches of a core and a die
(11 R212 to R215), late results (02 R28, 07 R133), rejections (18 R119, R327, R328); FENCEI (06 R112) and generations of spaces (06 R114, 11 R223).
-/

namespace Sys2Proof.Machine

/-! What a group waits for. -/

/-- The number of registers of a value of some bytes. -/
def regsOfBytes (w : Nat) : Nat := if w = 16 then 4 else if w = 8 then 2 else 1
/-- The request will write register r. -/
def Req.covers (r : Req) (q : Nat) : Bool :=
  r.returns && (match r.dst with | .v n => decide (n.val ≤ q) && decide (q < n.val + regsOfBytes r.width) | _ => false)

/-- A load or atomic is outstanding for a register of the group (R28). -/
def State.regBusy (s : State) (gid q : Nat) : Bool := s.reqs.any (fun r => r.gid == gid && r.covers q)

/-- A write to a device page, or one through a remote window below partition scope, that has been transmitted: nothing more is waited for (16 R302,
21 R370). -/
def Req.gone (r : Req) (sc : Scope) : Bool :=
  r.performed && r.writes && (match r.tgt with | .remote _ => decide (sc.rank < 11) | _ => r.dev)
/-- Accesses of the group that its releases order: prefetches, .unp and .qnt atomics are none (12 R241, R242). -/
def Req.ordered (r : Req) (gid : Nat) : Bool := r.gid == gid && !r.isPref && r.use != .unp && r.use != .qnt
/-- A matrix pass of the group has not read its rows: its reads are relaxed loads of the group (09 R179, R183). -/
def State.passOut (s : State) (gid : Nat) : Bool := s.passes.any (fun p => p.q.gid == gid)

/-- Earlier accesses of a group that a release or fence at a scope waits for: accesses to device pages only at system scope or wider (R302). -/
def State.outstanding (s : State) (gid : Nat) (sc : Scope) : Bool :=
  s.passOut gid || s.reqs.any (fun r => r.ordered gid && (!r.dev || decide (10 ≤ sc.rank)) && !r.gone sc)
/-- Earlier accesses of a group that an arrival waits for: every one, to device pages too (08 R160, R166). -/
def State.arrivalHeld (s : State) (gid : Nat) : Bool := s.passOut gid || s.reqs.any (fun r => r.ordered gid && !r.gone .gang)
/-- Earlier loads and returning atomics not yet bound, those from device pages apart (12 R232, 16 R302). -/
def State.loadsOut (s : State) (gid : Nat) : Bool := s.passOut gid || s.reqs.any (fun r => r.gid == gid && !r.isPref && r.returns && r.use != .unp && !r.dev)
/-- Earlier .qnt atomics not yet applied. -/
def State.qntOut (s : State) (gid : Nat) : Bool := s.reqs.any (fun r => r.gid == gid && r.use == .qnt)
/-- An acquire load or atomic of the group has not returned: later accesses wait (R232). -/
def State.acqOut (s : State) (gid : Nat) : Bool :=
  s.reqs.any (fun r => r.gid == gid && (r.isLoad || r.isAtomic) && (r.ord == .acq || r.ord == .ar))
/-- A release fence still holds the group's later stores and atomics (R231): of accesses to device pages it waits at system scope or wider for the
transmission of writes alone (16 R302). -/
def State.relHeld (s : State) (gid : Nat) : Bool :=
  match (s.group gid).relBound with
  | none => false
  | some (n, sc) =>
    s.passes.any (fun p => p.q.gid == gid && decide (p.q.id < n)) ||
    s.reqs.any (fun r => r.gid == gid && !r.isPref && r.use != .unp && decide (r.id < n) && (!r.dev || (r.writes && decide (10 ≤ sc.rank))) && !r.gone sc)

/-- A window access of the group has not arrived: scratchpad accesses wait, since one group's accesses to a byte take effect in issue order (R118). -/
def State.windowOut (s : State) (gid : Nat) : Bool :=
  s.reqs.any (fun r => r.gid == gid && !r.performed && (match r.tgt with | .window _ => true | _ => false))

/-! Caches. -/

/-- A store issues: the core's L1 sector and the die's copy take the bytes when present (R212 to R214). -/
def State.storeCaches (s : State) (cid pa : Nat) (bs : List Byte) : State :=
  let d := coreDie cid
  let s := s.setCore cid { s.core cid with l1d := writeSector (s.core cid).l1d (pa / 256) (pa % 256) bs }
  s.setDie d ((s.die d).writeCopy (pa / 256) (pa % 256) bs)

/-- The core's L1 sector and the die's copy go: an atomic issues there (R212, 13 R258), or a home has refused what a store left in them (R222). -/
def State.dropSector (s : State) (cid sec : Nat) : State :=
  let d := coreDie cid
  let s := s.setCore cid { s.core cid with l1d := Tab.erase (s.core cid).l1d sec }
  s.setDie d ((s.die d).dropCopy sec)

/-! Acquires. -/

/-- Copies that a die holds of other dies' sectors stay only as `p` says, and so do the fills of its requests on their way. -/
def State.keepForeign (s : State) (d : Nat) (p : Sector → Bool) : State :=
  { s.setDie d ((s.die d).keepCopies (fun c => p c.2)) with
    reqs := s.reqs.map (fun r => if r.src == d && !r.performed && r.fill.any (fun f => !p f) then { r with fill := none } else r) }

/-- An acquire of a group at a scope: above core the core's L1 goes; at row or wider the die's copies of an older epoch go (R232, R239). -/
def State.acquire (s : State) (gid : Nat) (sc : Scope) : State :=
  let cid := coreOf gid
  let d := coreDie cid
  let s := if 5 ≤ sc.rank then s.setCore cid { s.core cid with l1d := [] } else s
  if 8 ≤ sc.rank then s.keepForeign d (fun f => f.epoch == (s.die d).epoch) else s

/-- A FENCE.sc at row scope or wider takes its place in the order of R240: no copy of the die outlives it, since a store that was performed at its
home before an earlier fence must be seen. -/
def State.acquireSc (s : State) (gid : Nat) (sc : Scope) : State :=
  let s := s.acquire gid sc
  if 8 ≤ sc.rank then s.keepForeign (dieOf gid) (fun _ => false) else s

/-! Late results. -/

/-- Mark the registers of a destination empty (R28). -/
def Group.markEmpty (g : Group) (d : Opnd) (w : Nat) : Group :=
  match d with | .v n => g.setEmpties n.val (regsOfBytes w) true | _ => g

/-- Write a late value of w bytes into a destination of a lane. -/
def Group.wrLate (g : Group) (l : Nat) (d : Opnd) (w : Nat) (x : BitVec 128) : Group :=
  match d with
  | .v n => (List.range (regsOfBytes w)).foldl (fun g i => g.wrReg l (n.val + i) ((x >>> (32 * i)).truncate 32)) g
  | .lc _ => g.wr32 l d (x.truncate 32)
  | _ => g

/-- The lanes of a result whose generation still stands take it; a refilled lane's part is discarded (07 R133). -/
def Group.deliver (g : Group) (r : Req) : Group :=
  r.members.foldl (fun g m =>
    match Tab.find r.result m.lane with
    | some x => if (g.lane m.lane).gen == m.gen then g.wrLate m.lane r.dst r.width x else g
    | none => g) g

/-- A request leaves the set of requests. -/
def State.dropReq (s : State) (id : Nat) : State := { s with reqs := s.reqs.filter (fun r => r.id != id) }

/-- The request has brought its data, or its rejection: its registers become full once nothing else is outstanding to them (R28, R133). -/
def State.settle (s : State) (r : Req) : State :=
  let s := (s.dropReq r.id).unblock r.gid
  if !r.returns then s
  else match r.dst with
    | .v n => (List.range (regsOfBytes r.width)).foldl (fun s i =>
        if s.regBusy r.gid (n.val + i) then s else s.setGroup r.gid ((s.group r.gid).setEmpty (n.val + i) false)) s
    | _ => s

/-- Add a request. -/
def State.addReq (s : State) (r : Req) : State := { s with reqs := s.reqs ++ [{ r with id := s.seq, since := s.cycles }], seq := s.seq + 1 }

/-- A request of a group with nothing filled in yet: its issue, space, world. -/
def State.blankReq (s : State) (c : Ctx) (i : Nat) : Req :=
  { id := 0, gid := c.gid, src := dieOf c.gid, op := .load, tgt := .window (dieOf c.gid), dev := false, pa := 0, lpa := 0, va := 0, width := 4,
    data := 0, members := [], dst := .none, cls := .ca, ord := .rlx, use := .none, scope := .grp, num := none, stamp := [], asid := c.g.asid,
    gen := (s.space c.g.asid.toNat).gen, world := c.g.world, vdev := c.g.vdev, ctxid := c.g.ctxid, level := c.g.priv, pc := c.pc, issueNo := i,
    performed := false, result := [], mst := none, fill := none, span := (0, 0), since := 0 }

/-- A value already known, on its way to D in some lanes (LDS, barrier objects, CPIN): D is empty until LOAD_RETURN brings it. -/
def State.late (s : State) (c : Ctx) (d : Opnd) (w : Nat) (vals : List (Nat × BitVec 128)) (ord : Ord) (sc : Scope) : State :=
  let g := s.group c.gid
  (s.setGroup c.gid (g.markEmpty d w)).addReq
    { s.blankReq c g.issueNo with
      dst := d, width := w, ord := ord, scope := sc, performed := true,
      members := vals.map (fun p => ⟨p.1, (g.lane p.1).gen, 0, 0⟩), result := vals, pa := 2 ^ 64 }

/-! Rejections. -/

/-- Merge a report into the last one of the same issue and cause, or append it (R328). -/
def addReport (rs : List Report) (r : Report) : List Report :=
  match rs.getLast? with
  | some q =>
    if q.issue = r.issue ∧ q.cause = r.cause ∧ q.precise = r.precise then
      rs.dropLast ++ [{ q with lanes := q.lanes ||| r.lanes, pr := q.pr || r.pr, addr := if (q.lanes.first.getD 32) ≤ (r.lanes.first.getD 32) then q.addr else r.addr }]
    else rs ++ [r]
  | none => [r]

/-- A lane goes back to where it stood before the latest access. -/
def Group.putBack (g : Group) (ls : Mask) : Group :=
  ls.lanes.foldl (fun g l => match Tab.find g.prior l with
    | some x => g.setLane l { g.lane l with pc := x.pc, loops := x.loops, lc := x.lc }
    | none => g) g

/-- A tag that does not match, met for a request: the world halts. Of its instruction a MACHINE_CHECK that another lane met stands in MCLOG alone (23 R388). -/
def State.integrityMet (s : State) (r : Req) (pa : Nat) : State :=
  (s.onGroup r.gid (fun g => { g with pend := { g.pend with reports := g.pend.reports.filter (fun p => !(p.cause.toNat == cMachineCheck && p.issue == r.issueNo)) } })).haltWorld
    r.world (BitVec.ofNat 64 pa)

/-- A request is rejected: the group learns it before its next issue, precisely, or as a deferred report (R119, R327, R328). What a rejected store or
atomic left in the caches of its core and die goes. An error is logged with its place, `src` (R334), and with nothing more where INTEGRITY came to
another lane of the instruction (23 R388). Where the instruction has trapped already the lane keeps its PC and nothing more, as with a later cause (R327).
A request without members is a prefetch and is dropped (13 R264). -/
def State.reject (s : State) (r : Req) (cause src : Nat) : State :=
  let cid := coreOf (r.gid % 2 ^ 20)
  let s := if cause = cMachineCheck && !r.members.isEmpty then s.mclog cid src r.lpa else s
  let s := if r.writes then s.dropSector cid r.sector else s
  let s := s.settle r
  let g := (s.groupAt r.gid).getD Group.vacant
  if r.members.isEmpty || (cause == cMachineCheck && g.pend.integrity.isSome && g.issueNo == r.issueNo) then s else
  let ls := maskOf (fun l => r.members.any (fun m => m.lane == l))
  let precise := decide (r.gid < 2 ^ 20) && r.returns && g.issueNo == r.issueNo && g.status == .running
  let g := if precise then g.putBack ls else g
  let p : Report := { cause := BitVec.ofNat 8 cause, pc := r.pc, lanes := ls, addr := r.va, issue := r.issueNo, precise := precise
                      pr := privateFault cause r.level (localOf (s.pool r.src) r.lpa) }
  if precise && g.faulted then s.onGroup r.gid (fun _ => g)
  else if g.resident then s.onGroup r.gid (fun _ => { g with pend := { g.pend with reports := addReport g.pend.reports p } }) else s

/-! FENCEI, and generations. -/

/-- FENCEI waits for the acknowledgements of the group's stores and for its acquires (12 R232, R247), then discards the core's L1I (R112). -/
def execFencei (x : Ext) (s : State) : Host.Outcome State Fault Refusal :=
  let c := s.ctx (.fencei x) x
  if c.en = 0 then .next (s.commit c c.g)
  else if s.acqOut c.gid || s.reqs.any (fun r => r.gid == c.gid && r.op == .store) then .next (s.stall c.gid)
  else
    let s1 := s.commit c c.g
    .next (s1.setCore (coreOf c.gid) { s1.core (coreOf c.gid) with l1i := [] })

/-- Advance a space's generation. -/
def State.bumpSpace (s : State) (a : Nat) : State := s.setSpace a { s.space a with gen := (s.space a).gen + 1 }

/-- A store of a named space on its way has left bytes in a cache where another group could read them, though its home would reject it once the generation
has advanced (11 R222). -/
def State.bytesAhead (s : State) (spaces : List Nat) : Bool :=
  s.reqs.any (fun r => r.isStore && !r.performed && spaces.contains r.asid.toNat && (match r.tgt with | .mem _ => true | _ => false) &&
    ((Tab.find (s.core (coreOf (r.gid % 2 ^ 20))).l1d r.sector).isSome || (Tab.find (s.die r.src).l2 r.sector).isSome))

/-- GENB, 06 R114: each named space advances once, when no cache holds bytes of a store of it that has not arrived; the result is written when the old
generation is out of use (11 R223). -/
def execGenb (x : Ext) (s : State) : Host.Outcome State Fault Refusal :=
  let c := s.ctx (.genb x) x
  let sp := fun l => (c.rd32 l x.a).toNat
  let bad := maskOf (fun l => c.en.has l && c.g.foreign (sp l))
  if c.g.priv < 1 then .next (s.privTrap c)
  else s.gate c (c.chk [x.srcA 1] x.d 1)
    (match bad.first with
     | some l => s.trapAt c cPermission bad (BitVec.ofNat 64 (sp l))
     | none =>
       let spaces := (c.en.lanes.map sp).eraseDups
       if c.en = 0 then s.commit c c.g
       else if s.bytesAhead spaces then s.stall c.gid
       else
         let s1 := spaces.foldl (fun s a => s.bumpSpace a) s
         let vals := c.en.lanes.map (fun l => (l, (s1.space (sp l)).gen.zeroExtend 32))
         let fns := s.boundFns (fun _ a => spaces.contains a)
         (s1.sendInvals c.gid fns 0 (2 ^ 56)).waitAt c (c.g.killSrcs [x.srcA 1]) (.genb x.d vals (spaces.map (fun a => (a, (s.space a).gen.toNat)))))

/-- Discard every L1, L1I and L2I sector of a space (11 R223). -/
def State.dropSpace (s : State) (a : Nat) : State :=
  let out (t : Tab Sector) : Tab Sector := t.filter (fun p => p.2.asid.toNat != a)
  { s with
    cores := s.cores.map (fun c => (c.1, { c.2 with l1d := out c.2.l1d, l1i := out c.2.l1i })),
    dies := s.dies.map (fun d => (d.1, { d.2 with l2i := d.2.l2i.map (fun q => (q.1, out q.2)) })) }

/-- What an ordering point holds with a space and generation: the parts of a write, a read. -/
def OpEntry.spaces : OpEntry → List (BitVec 12 × BitVec 10)
  | .read _ _ _ a _ => a.toList
  | e => e.parts.filterMap (fun p => p.2.asid)

/-- Something with an old generation of a space is still under way: a request, a matrix pass, an inbound request, a walk (11 R223). -/
def State.carriesOld (s : State) (a g : Nat) : Bool :=
  s.reqs.any (fun r => !r.performed && r.asid.toNat == a && r.gen.toNat == g) ||
  s.passes.any (fun p => p.q.asid.toNat == a && p.q.gen.toNat == g) ||
  s.ios.any (fun io => io.2.entries.any (fun e => e.spaces.any (fun p => p.1.toNat == a && p.2.toNat == g))) ||
  s.dies.any (fun d => d.2.walks.any (fun w => w.asid.toNat == a && w.gen.toNat == g))

/-- Everything with an old generation has arrived or been rejected, and ATS is done (11 R223, 16 R306). -/
def State.genbDue (s : State) (gid : Nat) : Bool :=
  match (s.group gid).wait with
  | .genb _ _ old => !s.invalsOf gid && old.all (fun p => !s.carriesOld p.1 p.2)
  | _ => false

/-- Every access performed so far happens before what the group issues from now on: its die's stamp takes what every home has applied, and no copy of
another die's sector outlives that (12 R239, R248). -/
def State.afterAll (s : State) (gid : Nat) : State :=
  ((List.range 32).foldl (fun s h => s.mergeStamp (dieOf gid) (s.die h).mst) s).acquireSc gid .sys

/-- GENB_COMPLETION. A generation that has come round to 0 takes every sector of its space along (11 R223). -/
def execGenbCompletion (gid : Nat) (s : State) : Host.Outcome State Fault Refusal :=
  match (s.group gid).wait with
  | .genb d vals old =>
    if s.genbDue gid then
      let g := s.group gid
      let g1 := vals.foldl (fun g p => g.wr32 p.1 d p.2) g
      let s1 := ((s.setGroup gid g1).finishWait gid).afterAll gid
      .next (old.foldl (fun s p => if p.2 = 1023 then s.dropSpace p.1 else s) s1)
    else .next s
  | _ => .next s

end Sys2Proof.Machine
end

