-- ==== Sys2Proof/Machine/GroupOps.lean ====
section
/-!
DEFINITION. Cross-lane operations (08 R145 to R153), the extended block, slots and full/empty bits (R154 to R158), the Vertex tree (R159 to R161)
and scratchpad barrier objects (R162 to R167).
-/

namespace Sys2Proof.Machine

/-! Participants and cross-lane reads. -/

/-- The lanes of en that are in their own mask (R146): the participants, once the mask is known to be uniform. -/
def Ctx.parts (c : Ctx) (m : Opnd) : Mask := if m = .none then c.en else maskOf (fun l => c.en.has l && (c.rd32 l m).getLsbD l)

/-- The mask's traps, R146. -/
def Ctx.maskChk (c : Ctx) (m : Opnd) : Option (Nat × Mask × DWord) :=
  match (if m = .none then none else c.en.first) with
  | none => none
  | some l0 =>
    let v := c.rd32 l0 m
    let bad := maskOf (fun l => v.getLsbD l && (c.g.lane l).occupied && !c.en.has l)
    if !allSame (c.en.lanes.map (fun l => c.rd32 l m)) then some (cUniform, c.en, 0)
    else if bad != 0 then some (cMask, bad, v.zeroExtend 64)
    else none

/-- The effects of the participants; every read comes before every write, dead sources go in between (R147). -/
def Ctx.afterOn (c : Ctx) (p : Mask) (srcs : List Src) (dk : Dst) (d : Opnd) (latch : Bool) (f : Nat → Eff) : Group :=
  if c.en = 0 then c.g else p.lanes.foldl (fun g l => g.apply dk d latch l (f l)) (c.g.killSrcs srcs)

/-- A cross-lane form: the mask is read in the enabled lanes, the other sources in the participants (R146, R147);
then its uniformity and coverage; then a trap of the form itself. -/
def State.cross (s : State) (i : Instr) (x : Ext) (srcs : Ctx → List Src) (wide : Bool) (own : Ctx → Mask → Option (Nat × Mask × DWord))
    (f : Ctx → Mask → Nat → Eff) : Host.Outcome State Fault Refusal :=
  let c := s.ctx i x
  let p := c.parts x.c
  let dk : Dst := if wide then .w64 else .w32
  let cm := if x.c = .none then [] else [x.srcC 1]
  s.gate c ((c.chk cm .none 0).and ({ c with en := p }.chk (srcs c) x.d dk.n))
    (match c.maskChk x.c with
     | some (cause, ls, a) => s.trapAt c cause ls a
     | none => match own c p with
       | some (cause, ls, a) => s.trapAt c cause ls a
       | none => s.commit c (c.afterOn p (srcs c ++ cm) dk x.d true (f c p)))

/-- The sources of a form in which lane l takes A from lane k l: A is read in those lanes. -/
def Ctx.moveSrcs (c : Ctx) (useB : Bool) (k : Nat → Nat) : List Src :=
  (c.x.srcA (regsOf c.x.dty)).over ((c.parts c.x.c).lanes.map k) :: (if useB then [c.x.srcB 1] else [])

/-- A move of read_lane(k, A) into each participant (R149, R150). On a system core, whose group has the one lane 0, the other lanes hold no item and were
never filled: what a move takes from one of them, of which 02 R35 says nothing, is 0, as from any lane never filled (assumption 106). -/
def State.laneMove (s : State) (i : Instr) (x : Ext) (useB : Bool) (k : Ctx → Nat → Nat) : Host.Outcome State Fault Refusal :=
  s.cross i x (fun c => c.moveSrcs useB (k c)) x.dty.wide (fun _ _ => none)
    (fun c _ l => Eff.v (c.rdLane (k c l) x.dty.wide x.a))

/-- QXCH, R149. -/
def qxchMeaning (i : Instr) (x : Ext) (s : State) : Host.Outcome State Fault Refusal :=
  s.laneMove i x false (fun _ l => l / 4 * 4 + x.imm / 4 ^ (l % 4) % 4)
def execQxch (d a : Opnd) (s : State) : Host.Outcome State Fault Refusal := qxchMeaning (.qxch d a) (Ext.ofBase 0x30 d a .none) s
def execQxchX (x : Ext) (s : State) : Host.Outcome State Fault Refusal := qxchMeaning (.qxchX x) x s
/-- QBC. -/
def execQbc (x : Ext) (s : State) : Host.Outcome State Fault Refusal :=
  s.laneMove (.qbc x) x true (fun c l => l / 4 * 4 + (c.rd32 l x.b).toNat % 4)
/-- GSHF, R150. -/
def gshfMeaning (i : Instr) (x : Ext) (s : State) : Host.Outcome State Fault Refusal := s.laneMove i x true (fun c l => (c.rd32 l x.b).toNat % 32)
def execGshf (d a b : Opnd) (s : State) : Host.Outcome State Fault Refusal := gshfMeaning (.gshf d a b) (Ext.ofBase 0x31 d a b) s
def execGshfX (x : Ext) (s : State) : Host.Outcome State Fault Refusal := gshfMeaning (.gshfX x) x s
def execGshfx (x : Ext) (s : State) : Host.Outcome State Fault Refusal :=
  s.laneMove (.gshfx x) x true (fun c l => l ^^^ ((c.rd32 l x.b).toNat % 32))
def execGshfup (x : Ext) (s : State) : Host.Outcome State Fault Refusal :=
  s.laneMove (.gshfup x) x true (fun c l => let b := (c.rd32 l x.b).toNat; if b ≤ l then l - b else l)
def execGshfdn (x : Ext) (s : State) : Host.Outcome State Fault Refusal :=
  s.laneMove (.gshfdn x) x true (fun c l => let b := (c.rd32 l x.b).toNat; if l + b ≤ 31 then l + b else l)
/-- GBCAST: b is the same in every participant, or it traps UNIFORM_DIV with TLANES the participants. -/
def execGbcast (x : Ext) (s : State) : Host.Outcome State Fault Refusal :=
  s.cross (.gbcast x) x (fun c => c.moveSrcs true (fun l => (c.rd32 l x.b).toNat % 32)) x.dty.wide
    (fun c p => if allSame (p.lanes.map (fun l => c.rd32 l x.b)) then none else some (cUniform, p, 0))
    (fun c _ l => Eff.v (c.rdLane ((c.rd32 l x.b).toNat % 32) x.dty.wide x.a))

/-! Votes, matches, reductions, scans. -/

/-- GVOTE, R151. -/
def voteOf (k : Nat) (p : Mask) (a : Nat → Word) : Nat :=
  match k with
  | 0 => if p.lanes.all (fun l => a l != 0) then 1 else 0
  | 1 => if p.lanes.any (fun l => a l != 0) then 1 else 0
  | 2 => (maskOf (fun l => p.has l && a l != 0)).toNat
  | _ => if allSame (p.lanes.map a) then 1 else 0
def gvoteMeaning (i : Instr) (x : Ext) (s : State) : Host.Outcome State Fault Refusal :=
  s.cross i x (fun _ => [x.srcA 1]) false (fun _ _ => none) (fun c p _ => Eff.v (voteOf (x.imm % 4) p (fun l => c.rd32 l x.a)))
def execGvote (d a : Opnd) (s : State) : Host.Outcome State Fault Refusal := gvoteMeaning (.gvote d a) (Ext.ofBase 0x32 d a .none) s
def execGvoteX (x : Ext) (s : State) : Host.Outcome State Fault Refusal := gvoteMeaning (.gvoteX x) x s
/-- GMATCH, R151. -/
def execGmatch (x : Ext) (s : State) : Host.Outcome State Fault Refusal :=
  s.cross (.gmatch x) x (fun _ => [x.srcA (regsOf x.dty)]) false (fun _ _ => none)
    (fun c p l => Eff.v (maskOf (fun k => p.has k && c.rd k x.dty.wide x.a == c.rd l x.dty.wide x.a)).toNat)

/-- A node of the tree, R152: the lower lanes' operand on the left. -/
def combine (op : Nat) (t : Ty) (a b : Nat) : Nat × Fl :=
  if t.isFloat then
    let f := t.fmt
    if op = 0 then f.sum .rne false 0 [Term.of (f.decode a), Term.of (f.decode b)] else f.minMax (op == 2) false a b
  else
    let u := t.readInt a
    let v := t.readInt b
    (match op with
     | 0 => t.intResult false (u + v)
     | 1 => t.intResult false (min u v)
     | 2 => t.intResult false (max u v)
     | 3 => t.intResult false ((a &&& b : Nat) : Int)
     | 4 => t.intResult false ((a ||| b : Nat) : Int)
     | _ => t.intResult false ((a ^^^ b : Nat) : Int), 0)

/-- One level of the tree of 04 R73: an absent child passes the other unchanged. So a sole present leaf that is a signalling NaN, or a NaN that is not
the canonical one, is the result as it stands and raises nothing, where R58 would have a NaN result canonical and NV (DESIGN CHOICE, assumption 110). -/
def treeLevel (op : Nat) (t : Ty) : List (Option (Nat × Fl)) → List (Option (Nat × Fl))
  | a :: b :: r =>
    (match a, b with
     | some x, some y => let n := combine op t x.1 y.1; some (n.1, x.2 ||| y.2 ||| n.2)
     | some x, none => some x
     | none, y => y) :: treeLevel op t r
  | l => l

/-- The value of the tree over 32 leaves, and the flags of its nodes (R73). -/
def treeOf (op : Nat) (t : Ty) (leaf : Nat → Option Nat) : Nat × Fl :=
  let lv := treeLevel op t
  match lv (lv (lv (lv (lv (laneList.map (fun l => (leaf l).map (fun v => (v, 0)))))))) with
  | some r :: _ => r
  | _ => (0, 0)

/-- A result as it is written: narrow values are extended or stand with zero bits above (04 R55, R59). -/
def finishVal (t : Ty) (v : Nat) : Nat := if t.isFloat then v % 2 ^ t.fmt.w else t.intResult false (t.readInt v)

/-- The type of a reduction: code 0 is .s32. -/
def redTy (t : Ty) : Ty := if t = .dflt then .s32 else t

/-- GRED: the tree over the participants; the flags of every node go to every participant (R153). -/
def gredMeaning (i : Instr) (x : Ext) (s : State) : Host.Outcome State Fault Refusal :=
  let t := redTy x.dty
  s.cross i x (fun _ => [x.srcA (regsOf t)]) t.wide (fun _ _ => none) (fun c p _ =>
    let r := treeOf (x.imm % 8) t (fun l => if p.has l then some (c.rd l t.wide x.a) else none)
    ⟨finishVal t r.1, [], r.2⟩)
def execGred (d a : Opnd) (s : State) : Host.Outcome State Fault Refusal := gredMeaning (.gred d a) (Ext.ofBase 0x33 d a .none) s
def execGredX (x : Ext) (s : State) : Host.Outcome State Fault Refusal := gredMeaning (.gredX x) x s
/-- GSCAN: lane L's value is that of the tree without the leaves above L (04 R74). -/
def execGscan (x : Ext) (s : State) : Host.Outcome State Fault Refusal :=
  let t := redTy x.dty
  s.cross (.gscan x) x (fun _ => [x.srcA (regsOf t)]) t.wide (fun _ _ => none) (fun c p l =>
    let upTo (m : Nat) := treeOf (x.imm % 8) t (fun k => if p.has k && decide (k ≤ m) then some (c.rd k t.wide x.a) else none)
    ⟨finishVal t (upTo l).1, [], p.lanes.foldl (fun f m => f ||| (upTo m).2) 0⟩)

/-! The extended block. -/

/-- Extended registers of a core's pool that no group holds (07 R137); a system core's pool of 128 is its group's alone (02 R35). -/
def State.poolFree (s : State) (cid : Nat) : Nat :=
  (if isSystem (cid * 32) then 128 else 2048) - s.groups.foldl (fun n p => if coreOf p.1 = cid && p.2.resident then n + p.2.ext else n) 0

/-- Registers from r on, n of them, lose their tags (R132): they read as zero, full and alive. -/
def Group.clearRegs (g : Group) (r n : Nat) : Group :=
  let ks := (List.range n).flatMap (fun i => laneList.map (key (r + i)))
  { g.setEmpties r n false with
    tag := Tab.setAll 0 0 ks g.tag, v := Tab.setAll 0 0 ks g.v, dead := (List.range n).foldl (fun t i => Tab.set false t (r + i) false) g.dead,
    oc := g.oc.map (fun p => if p.2.valid && decide (r ≤ p.2.reg) && decide (p.2.reg < r + n) then (p.1, { p.2 with valid := false }) else p) }

/-- The block takes a size (R155, R156). -/
def Group.resize (g : Group) (n : Nat) : Group := { g.clearRegs (64 + min n g.ext) (max n g.ext - min n g.ext) with ext := n }

/-- The common operand checks of XACQ and XSHR: uniform, at most 128 (R154). -/
def Ctx.sizeChk (c : Ctx) (a : Opnd) (growLimit : Option Nat) : Except (Nat × DWord) Nat :=
  match c.en.first with
  | none => .ok 0
  | some l =>
    let n := (c.rd32 l a).toNat
    if !allSame (c.en.lanes.map (fun k => c.rd32 k a)) then .error (cUniform, 0)
    else if 128 < n then .error (cRegBound, BitVec.ofNat 64 n)
    else match growLimit with
      | some e => if e < roundUp n 16 then .error (cRegBound, BitVec.ofNat 64 n) else .ok (roundUp n 16)
      | none => .ok (roundUp n 16)

/-- The new bound goes to D in the enabled lanes. -/
def Group.writeBound (g : Group) (en : Mask) (d : Opnd) : Group := en.lanes.foldl (fun g l => g.wr32 l d (BitVec.ofNat 32 g.bound)) g

/-- XACQ, R154, R155: a descheduling point; a request that grows the block waits for its turn and for the pool. A system core's pool is its group's
alone, so there it never waits (02 R35). -/
def xacqMeaning (i : Instr) (x : Ext) (s : State) : Host.Outcome State Fault Refusal :=
  let c := s.ctx i x
  let lim := if isSystem c.gid || c.g.k.xq then none else some c.g.k.ext
  let lim := match lim, c.en.first with
    | some e, some l => if roundUp (c.rd32 l x.a).toNat 16 ≤ c.g.ext then none else some e
    | m, _ => m
  s.gate c (c.chk [x.srcA 1] x.d 1)
    (if c.en = 0 then s.commit c c.g.desched
     else match c.sizeChk x.a lim with
       | .error (cause, a) => s.trapAt c cause c.en a
       | .ok n =>
         let g := (c.g.killSrcs [x.srcA 1]).desched
         if n ≤ c.g.ext then s.commit c (g.writeBound c.en x.d)
         else if isSystem c.gid then s.commit c ((g.resize n).writeBound c.en x.d)
         else
           let s1 := s.waitAt c g (.xacq n x.d c.en)
           s1.setCore (coreOf c.gid) { s1.core (coreOf c.gid) with xacqs := (s1.core (coreOf c.gid)).xacqs ++ [c.gid] })
def execXacq (d a : Opnd) (s : State) : Host.Outcome State Fault Refusal := xacqMeaning (.xacq d a) (Ext.ofBase 0x2C d a .none) s
def execXacqX (x : Ext) (s : State) : Host.Outcome State Fault Refusal := xacqMeaning (.xacqX x) x s

/-- The group's request is the oldest of its core and the pool holds enough. -/
def State.xacqDue (s : State) (gid : Nat) : Bool :=
  match (s.group gid).wait with
  | .xacq n _ _ => (s.core (coreOf gid)).xacqs.head? == some gid && decide (n - (s.group gid).ext ≤ s.poolFree (coreOf gid))
  | _ => false

/-- XACQ_GRANT, R155. -/
def execXacqGrant (gid : Nat) (s : State) : Host.Outcome State Fault Refusal :=
  match (s.group gid).wait with
  | .xacq n d en =>
    if s.xacqDue gid then
      let cid := coreOf gid
      let s1 := s.setCore cid { s.core cid with xacqs := (s.core cid).xacqs.filter (fun q => q != gid) }
      .next ((s1.setGroup gid (((s1.group gid).resize n).writeBound en d)).finishWait gid)
    else .next s
  | _ => .next s

/-- A load or atomic is outstanding to a register of a run. -/
def State.runBusy (s : State) (gid r n : Nat) : Bool := (List.range n).any (fun i => s.regBusy gid (r + i))

/-- XREL and XSHR: the released registers have nothing outstanding; D takes the new bound (R156). -/
def State.shrink (s : State) (c : Ctx) (x : Ext) (srcs : List Src) (n : Nat) : State :=
  let m := min n c.g.ext
  if s.runBusy c.gid (64 + m) (c.g.ext - m) then s.stall c.gid
  else
    let g := c.g.killSrcs srcs
    s.commit c ((c.en.lanes.foldl (fun g l => g.wr32 l x.d (BitVec.ofNat 32 (64 + m))) g).resize m)
def execXrel (x : Ext) (s : State) : Host.Outcome State Fault Refusal :=
  let c := s.ctx (.xrel x) x
  .next (if c.en = 0 then s.commit c c.g else s.shrink c x [] 0)
def execXshr (x : Ext) (s : State) : Host.Outcome State Fault Refusal :=
  let c := s.ctx (.xshr x) x
  s.gate c (c.chk [x.srcA 1] x.d 1)
    (if c.en = 0 then s.commit c c.g
     else match c.sizeChk x.a none with
       | .error (cause, a) => s.trapAt c cause c.en a
       | .ok n => s.shrink c x [x.srcA 1] n)

/-! Operand-cache slots and full/empty bits. -/

/-- OCLD, R157. -/
def execOcld (x : Ext) (s : State) : Host.Outcome State Fault Refusal :=
  let c := s.ctx (.ocld x) x
  s.gate c (c.chk [(x.srcA 1).over laneList] .none 0)
    (if c.en = 0 then s.commit c c.g
     else
       let vals := laneList.foldl (fun t l => Tab.set 0 t l (c.rd32 l x.a)) []
       s.commit c ((c.g.killSrcs [x.srcA 1]).setSlot (x.d.code - 0xC0) { valid := true, reg := x.a.code, vals := vals }))
/-- OCINV, R157. -/
def execOcinv (x : Ext) (s : State) : Host.Outcome State Fault Refusal :=
  let c := s.ctx (.ocinv x) x
  let drop (g : Group) (n : Nat) : Group := g.setSlot n { g.slot n with valid := false }
  .next (s.commit c (if c.en = 0 then c.g else if x.d = .none then (List.range 8).foldl drop c.g else drop c.g (x.d.code - 0xC0)))

/-- The run of R158 and its bound. A run that reaches the bound records N and the enabled lanes: R158 names neither (DESIGN CHOICE, assumption 111). -/
def State.feRun (s : State) (i : Instr) (x : Ext) (rest : Ctx → Nat → Nat → State) (none' : Ctx → State) : Host.Outcome State Fault Refusal :=
  let c := s.ctx i x
  let n := x.imm % 64 + 1
  .next (if c.en = 0 then none' c
    else if c.g.bound < x.d.code + n then s.trapAt c cRegBound c.en (BitVec.ofNat 64 x.d.code)
    else rest c x.d.code n)
/-- FESET and FECLR, R158. -/
def State.feMark (s : State) (i : Instr) (x : Ext) (empty : Bool) : Host.Outcome State Fault Refusal :=
  s.feRun i x (fun c r n => if s.runBusy c.gid r n then s.stall c.gid else s.commit c (c.g.setEmpties r n empty)) (fun c => s.commit c c.g)
def execFeset (x : Ext) (s : State) : Host.Outcome State Fault Refusal := s.feMark (.feset x) x false
def execFeclr (x : Ext) (s : State) : Host.Outcome State Fault Refusal := s.feMark (.feclr x) x true
/-- FEWAIT: a descheduling point; it waits until the run is full. -/
def execFewait (x : Ext) (s : State) : Host.Outcome State Fault Refusal :=
  s.feRun (.fewait x) x (fun c r n =>
    if (List.range n).any (fun i => c.g.isEmpty (r + i)) then (s.setGroup c.gid c.g.desched).stallWait c.gid else s.commit c c.g.desched)
    (fun c => s.commit c c.g.desched)

/-! The Vertex tree. -/

/-- The wait ends as an acquire at a scope, which a group stopped for pre-emption performs again after its restore (19 R351). -/
def State.endWait (s : State) (gid : Nat) (sc : Scope) : State :=
  let t := s.finishWait gid
  (t.setGroup gid { t.group gid with owed := if (t.group gid).held then some sc else none }).acquire gid sc

def State.gang? (s : State) (id : Nat) : Option Gang := s.gangs.find? (fun g => g.id == id)
/-- The wire tag of a group's gang, with its die. -/
def State.wireOf (s : State) (gid : Nat) : Option (Nat × Nat) :=
  match s.gang? (s.group gid).gang with
  | some g => if g.groups.contains gid then g.wire.map (fun w => (g.die, w)) else none
  | none => none
def State.wire (s : State) (d w : Nat) : Wire := Tab.get Wire.free (s.die d).wires w
def State.setWire (s : State) (d w : Nat) (x : Wire) : State := s.setDie d { s.die d with wires := Tab.put (s.die d).wires w x }
/-- The expected count: the groups of the gang that are not draining (R159). -/
def State.expected (s : State) (g : Gang) : Nat :=
  (g.groups.filter (fun q => match (s.group q).status with | .running | .stopped => true | _ => false)).length

/-- GBAR, GBARA, GBARW (R160). An arrival waits until the group's accesses are performed. Where ARR is 0 a GBARW, or a GBAR issued again after the end of
its wait, goes on without an acquire: R160 gives one to the end of a wait alone (assumption 89). TLANES of the UNIFORM_DIV of a guard that enables a part
of at_pc is all of at_pc, which R160 and R326 leave unsaid (DESIGN CHOICE, assumption 111). -/
def State.gbarForm (s : State) (i : Instr) (x : Ext) (arrive wait : Bool) : Host.Outcome State Fault Refusal :=
  let c := s.ctx i x
  let g1 := if wait then c.g.desched else c.g
  let out := c.g.live &&& ~~~c.at_
  match (if isSystem c.gid then none else s.wireOf c.gid) with
  | none => .next (s.illegal c)
  | some (d, w) =>
    if c.en != 0 && c.en != c.at_ then .next (s.trapAt c cUniform c.at_ 0)
    else if c.en = 0 then .next (s.commit c g1)
    else if out != 0 then .next (s.trapAt c cMask out 0)
    else if arrive && !c.g.arr && s.arrivalHeld c.gid then .next (s.stall c.gid)
    else
      let arr := arrive && !c.g.arr
      let s1 := if arr then s.setWire d w { s.wire d w with arrivals := (s.wire d w).arrivals + 1 } else s
      let g2 := { g1 with arr := g1.arr || arrive }
      .next (if wait && g2.arr then s1.waitAt c g2 .tree else s1.commit c g2)
def gbarMeaning (i : Instr) (x : Ext) (s : State) : Host.Outcome State Fault Refusal := s.gbarForm i x true true
def execGbar (s : State) : Host.Outcome State Fault Refusal := gbarMeaning .gbar (Ext.ofBase 0x34 .none .none .none) s
def execGbarX (x : Ext) (s : State) : Host.Outcome State Fault Refusal := gbarMeaning (.gbarX x) x s
def execGbara (x : Ext) (s : State) : Host.Outcome State Fault Refusal := s.gbarForm (.gbara x) x true false
def execGbarw (x : Ext) (s : State) : Host.Outcome State Fault Refusal := s.gbarForm (.gbarw x) x false true

/-- The gang of a wire tag whose phase is complete (R161). -/
def State.phaseDue (s : State) (d w : Nat) : Option Gang :=
  let x := s.wire d w
  match x.gang.bind s.gang? with
  | some g => if 0 < x.arrivals ∧ s.expected g ≤ x.arrivals then some g else none
  | none => none

/-- PHASE_COMPLETE: ARR is cleared in the whole gang, the count returns to 0, the waiting groups go on with an acquire at gang scope (R161). -/
def execPhaseComplete (die w : Nat) (s : State) : Host.Outcome State Fault Refusal :=
  match s.phaseDue die w with
  | none => .next s
  | some g =>
    let s1 := s.setWire die w { s.wire die w with arrivals := 0 }
    .next (g.groups.foldl (fun s q =>
      let s := s.setGroup q { s.group q with arr := false }
      if (s.group q).wait == .tree then s.endWait q .gang else s) s1)

/-! Barrier objects. -/

/-- Where a byte range of a group's scratchpad lies: the core and the offset there; none outside what its workgroup, or joined gang, holds (R136, R119).
The group of a system core holds the scratchpad of its core whole, 256 KiB as on any core (assumption 84). -/
def State.spadAt (s : State) (gid a n : Nat) : Option (Nat × Nat) :=
  let g := s.group gid
  let w := s.wg g.wg
  let ws := match s.gang? g.gang with | some k => k.wgs | none => [g.wg]
  if isSystem gid then (if a + n ≤ 262144 then some (coreOf gid, a) else none)
  else if w.size = 0 || decide (w.size * ws.length < a + n) then none
  else
    let m := s.wg (ws.getD (a / w.size) g.wg)
    some (m.core, m.base + a % w.size)

/-- Bytes of a core's scratchpad. -/
def Core.spadBytes (k : Core) (off : Nat) : Nat → List Byte
  | 0 => []
  | n + 1 => Tab.get 0 k.spad off :: k.spadBytes (off + 1) n
def Core.spadWrite (k : Core) (off : Nat) : List Byte → Core
  | [] => k
  | b :: r => { k with spad := Tab.set 0 k.spad off b }.spadWrite (off + 1) r
/-- Bytes put into a scratchpad: a row written whole is sound (18 R333). -/
def Core.spadPut (k : Core) (off : Nat) (bs : List Byte) : Core :=
  { k.spadWrite off bs with badSpad := Tab.keep (fun r => decide (16 * r < off) || decide (off + bs.length < 16 * r + 16)) k.badSpad }
/-- A row of the scratchpad that n bytes from an offset on touch has a parity error. -/
def Core.spadBad (k : Core) (off n : Nat) : Bool := (List.range ((off % 16 + n + 15) / 16)).any (fun i => Tab.get false k.badSpad (off / 16 + i))
/-- The 16-byte row at an offset is tagged as a barrier. -/
def Core.tagged (k : Core) (off : Nat) : Bool := Tab.get false k.bar (off / 16)

/-- The fields of a barrier row, R162. -/
def rowPending (v : Nat) : Nat := v % 65536
def rowExpected (v : Nat) : Nat := v / 65536 % 65536
def rowPhase (v : Nat) : Bool := bitAt v 32
def rowOf (pending expected : Nat) (phase : Bool) : Nat := pending % 65536 + expected % 65536 * 65536 + (if phase then 2 ^ 32 else 0)
def State.row (s : State) (cid off : Nat) : Nat := ofBytesLE ((s.core cid).spadBytes off 16)
def State.setRow (s : State) (cid off v : Nat) : State := s.setCore cid ((s.core cid).spadPut off (bytesLE 16 v))

/-- A completion ends the waits registered on a row. -/
def endRows (cid row : Nat) (sys : Bool) (ws : List RowWait) : List RowWait :=
  ws.map (fun w => if w.core = cid ∧ w.row = row then { w with done := true, sys := w.sys || (sys && !w.done) } else w)
/-- The scope of the acquire at the end of a row wait (R166, 16 R314). -/
def rowScope (cid : Nat) (ws : List RowWait) : Scope := if ws.any (fun w => w.sys) then .sys else if ws.any (fun w => w.core != cid) then .gang else .wg

/-- A row completes, or is untagged: registered waits on it end, and a group none of whose waits is left goes on (R164, R165). -/
def State.completeRow (s : State) (cid off : Nat) (sys : Bool) : State :=
  s.groups.foldl (fun s p =>
    match (s.group p.1).wait with
    | .rows ws =>
      let ws' := endRows cid (off / 16) sys ws
      let s := s.setGroup p.1 { s.group p.1 with wait := .rows ws' }
      if ws'.all (fun w => w.done) then s.endWait p.1 (rowScope (coreOf p.1) ws') else s
    | _ => s) s

/-- The latest completion of a row was caused by a kind-0 Clasp message, or was not (16 R314). -/
def State.markRow (s : State) (cid off : Nat) (sys : Bool) : State :=
  s.setCore cid { s.core cid with sysRow := Tab.set false (s.core cid).sysRow (off / 16) sys }

/-- arrive(row, cnt), R164: the phase before it, whether it completes, and the state after. -/
def State.arrive (s : State) (cid off cnt : Nat) (sys : Bool) : Bool × Bool × State :=
  let v := s.row cid off
  if rowPending v ≤ cnt then
    (rowPhase v, true, ((s.setRow cid off (rowOf (rowExpected v) (rowExpected v) (!rowPhase v))).markRow cid off sys).completeRow cid off sys)
  else (rowPhase v, false, s.setRow cid off (rowOf (rowPending v - cnt) (rowExpected v) (rowPhase v)))

/-- The first failing check of R164 in a lane: 1 MISALIGN (item 1), 2 PERMISSION (items 2 and 3); 3 a row with a parity error that is read (18 R333). -/
def State.rowChk (s : State) (gid a : Nat) (needTag : Bool) : Nat :=
  if a % 16 ≠ 0 then 1
  else match s.spadAt gid a 16 with
    | none => 2
    | some (cid, off) => if needTag && !(s.core cid).tagged off then 2 else if needTag && (s.core cid).spadBad off 16 then 3 else 0

/-- The cause of the first failing check, with every lane that has it (R164). -/
def firstRowFail (en : Mask) (f : Nat → Nat) : Option (Nat × Mask) :=
  ([(1, cMisalign), (2, cPermission), (3, cMachineCheck)].map (fun k => (k.2, maskOf (fun l => en.has l && f l == k.1)))).find? (fun p => p.2 != 0)

/-- A trap that a lane's access to the scratchpad raises; a parity error is logged (18 R333, R334). -/
def State.spadTrap (s : State) (c : Ctx) (cause : Nat) (m : Mask) (addr : Nat) : State :=
  (if cause = cMachineCheck then s.mclog (coreOf c.gid) 6 addr else s).trapAt c cause m (BitVec.ofNat 64 addr)

/-- What a barrier form does in one lane, R164. -/
inductive RowOp where
  | init | untag | arrive | wait | arriveWait | test
  deriving DecidableEq, Repr
def RowOp.waits : RowOp → Bool | .wait | .arriveWait => true | _ => false
def RowOp.arrives : RowOp → Bool | .arrive | .arriveWait => true | _ => false
def RowOp.result : RowOp → Bool | .arrive | .arriveWait | .test => true | _ => false

/-- The state, the results and the waits while the lanes of a barrier form act in order. -/
structure RowAcc where
  s : State
  vals : List (Nat × BitVec 128)
  ws : List RowWait
  deriving DecidableEq, Repr

/-- A lane registers on a row, or its wait holds at once (R165); the completion that it finds counts like one it waits for (16 R314, 17 R320). -/
def RowAcc.register (a : RowAcc) (l cid off : Nat) (phase : Bool) : RowAcc :=
  let done := rowPhase (a.s.row cid off) != phase
  { a with ws := a.ws ++ [{ lane := l, core := cid, row := off / 16, phase := phase, done := done, sys := done && Tab.get false (a.s.core cid).sysRow (off / 16) }] }

def RowAcc.act (a : RowAcc) (op : RowOp) (gid l cid off b : Nat) : RowAcc :=
  let k := a.s.core cid
  match op with
  | .init => { a with s := ((a.s.setCore cid { k with bar := Tab.set false k.bar (off / 16) true }).setRow cid off (rowOf b b false)).markRow cid off false }
  | .untag =>
    { a with s := (((a.s.setCore cid { k with bar := Tab.set false k.bar (off / 16) false }).setRow cid off 0).markRow cid off false).completeRow cid off false }
  | .arrive | .arriveWait =>
    let (ph, done, s1) := a.s.arrive cid off b false
    let a1 : RowAcc := { s := s1, vals := a.vals ++ [(l, if ph then 1 else 0)], ws := if done then endRows cid (off / 16) false a.ws else a.ws }
    if op = .arriveWait then a1.register l cid off ph else a1
  | .wait => a.register l cid off (bitAt b 0)
  | .test =>
    let one := rowPhase (a.s.row cid off) != bitAt b 0
    { a with s := if one then a.s.acquire gid (if cid = coreOf gid then .wg else .gang) else a.s, vals := a.vals ++ [(l, if one then 1 else 0)] }

/-- A barrier form, R163 to R166. -/
def State.rowForm (s : State) (i : Instr) (x : Ext) (op : RowOp) : Host.Outcome State Fault Refusal :=
  let c := s.ctx i x
  let srcs := x.srcA 1 :: (if op = .untag then [] else [x.srcB 1])
  let addr := fun l => (c.rd32 l x.a).toNat
  let needTag := !(op == .init || op == .untag)
  let at_ := fun l => (s.spadAt c.gid (addr l) 16).getD (0, 0)
  s.gate c (c.chk srcs (if op.result then x.d else .none) 1)
    (match firstRowFail c.en (fun l => s.rowChk c.gid (addr l) needTag) with
     | some (cause, m) => s.spadTrap c cause m ((m.first.map addr).getD 0)
     | none =>
       if c.en = 0 then s.commit c (if op.waits then c.g.desched else c.g)
       else if (op.arrives && s.arrivalHeld c.gid) || s.windowOut c.gid then s.stall c.gid
       else
         let g := c.g.killSrcs srcs
         let g := if op.waits then g.desched else g
         let a := c.en.lanes.foldl (fun a l => a.act op c.gid l (at_ l).1 (at_ l).2 (c.rd32 l x.b).toNat) (⟨s.setGroup c.gid g, [], []⟩ : RowAcc)
         let g := a.s.group c.gid
         let s1 := if a.ws.all (fun w => w.done) then
             (let s2 := a.s.commit c g; if op.waits then s2.acquire c.gid (rowScope (coreOf c.gid) a.ws) else s2)
           else a.s.waitAt c g (.rows a.ws)
         if op.result && x.d != .none then s1.late c x.d 4 a.vals .rlx .grp else s1)

/-- BINIT tags a row with a count, or untags it (R164). -/
def binitMeaning (i : Instr) (x : Ext) (s : State) : Host.Outcome State Fault Refusal := s.rowForm i x (if bitAt x.imm 0 then .untag else .init)
def execBinit (a b : Opnd) (s : State) : Host.Outcome State Fault Refusal := binitMeaning (.binit a b) (Ext.ofBase 0x35 .none a b) s
def execBinitX (x : Ext) (s : State) : Host.Outcome State Fault Refusal := binitMeaning (.binitX x) x s
def execBarv (x : Ext) (s : State) : Host.Outcome State Fault Refusal := s.rowForm (.barv x) x .arrive
def execBwait (x : Ext) (s : State) : Host.Outcome State Fault Refusal := s.rowForm (.bwait x) x .wait
def execBarw (x : Ext) (s : State) : Host.Outcome State Fault Refusal := s.rowForm (.barw x) x .arriveWait
def execBtest (x : Ext) (s : State) : Host.Outcome State Fault Refusal := s.rowForm (.btest x) x .test

end Sys2Proof.Machine
end

