-- ==== Sys2Proof/Machine/Windows.lean ====
section
/-!
DEFINITION. The on-chip map (11 R208 to R210, 09 R195, 15 R276, R284, 19 R342, R344, 24 R398), the control blocks of the I/O dies (16 R317, 21 R367 to R371),
partial accesses to registers (01 R400), and the registers that start an action: LAUNCH, VDRESET, CLRSIZE, RWREV, SGCALL, PRGRSP, WAKE.
-/

namespace Sys2Proof.Machine

/-- Who reaches a window: a group, or an engine that works for one. -/
structure Who where
  gid : Nat
  level : Nat
  vdev : BitVec 8
  ctxid : BitVec 16
  world : BitVec 12
  engine : Bool
  deriving DecidableEq, Repr

/-- A group as the one that reaches. -/
def State.who (s : State) (gid : Nat) : Who :=
  let g := s.group gid
  { gid := gid, level := g.priv, vdev := g.vdev, ctxid := g.ctxid, world := g.world, engine := false }

/-! Places in a die's slice. -/

/-- The offset lies in a core's slice: the core's key and the offset there. -/
def coreSlice (die off : Nat) : Option (Nat × Nat) := if off < 0x40000000 then some (die * 64 + off / 2 ^ 24, off % 2 ^ 24) else none
def inRegWin (o : Nat) : Bool := decide (o < 0x100000)
def inSpadWin (o : Nat) : Bool := decide (0x100000 ≤ o) && decide (o < 0x140000)
def inAccWin (o : Nat) : Bool := decide (0x140000 ≤ o) && decide (o < 0x180000)
/-- Slot, register and byte within the register of an offset of the register window. -/
def regWinAt (cid o : Nat) : Nat × Nat × Nat := (cid * 32 + o / 0x8000, o / 0x80 % 256, o % 0x80)

/-- The core holds a group of the virtual device. -/
def State.holdsCore (s : State) (cid : Nat) (vdev : BitVec 8) : Bool := s.groups.any (fun p => coreOf p.1 == cid && p.2.resident && p.2.vdev == vdev)
/-- The core's resident groups belong to another world (23 R383). -/
def State.otherWorld (s : State) (cid : Nat) (w : BitVec 12) : Bool := s.groups.any (fun p => coreOf p.1 == cid && p.2.resident && p.2.world != w)
/-- ACCOWN[t] is {1, CTXID} (09 R170). -/
def State.ownsTile (s : State) (cid t : Nat) (ctxid : BitVec 16) : Bool := (Tab.get Tile.reset (s.core cid).tiles t).own == 1#1 ++ ctxid

/-- The virtual device of a core: that of its groups, else the lowest that may hold it (assumption 18). -/
def State.coreVdev (s : State) (cid : Nat) : Option Nat :=
  match s.groups.find? (fun p => coreOf p.1 == cid && p.2.resident) with
  | some p => some p.2.vdev.toNat
  | none => (List.range 256).find? (fun v => (Tab.get 0 (s.die (coreDie cid)).cmt v).getLsbD (coreNo cid))

/-- The access traps PERMISSION: beyond the map, a core not held, another world, a tile not owned, a level too low (R119, R208, R195, R382, R383).
A system core belongs to no virtual device, and R119 states no rule for it: the model exempts it from the check that the core is held (assumption 84). -/
def State.winRefuses (s : State) (w : Who) (ea : Nat) (write : Bool) : Bool :=
  let die := ea / 2 ^ 32
  let off := ea % 2 ^ 32
  if 2 ^ 37 ≤ ea then true
  else match coreSlice die off with
    | some (cid, o) =>
      let t := (o - 0x140000) / 4096
      (!isSystem w.gid && !s.holdsCore cid w.vdev) || s.otherWorld cid w.world ||
      (inAccWin o && ((decide (w.level < 2) && !s.ownsTile cid t w.ctxid) ||
        (decide (w.level < 3) && (Tab.get Tile.reset (s.core cid).tiles t).world != w.world))) ||
      (write && decide (w.level < 2) && decide (0x181000 ≤ o) && decide (o < 0x182080))
    | none =>
      if off < 0x40010000 then decide (w.level < 2)
      else if off < 0x40010080 then write && decide (w.level < 2)
      else if off < 0x40020000 then false
      else if off < 0x40030000 then decide (w.level < 2)
      else if off < 0x40030030 then decide (w.level < (if write then 2 else 1))
      else false

/-! Registers as 64-bit words. -/

/-- Eight bytes of a table of bytes as a word. -/
def calWord (t : Tab Byte) (i : Nat) : DWord := BitVec.ofNat 64 (ofBytesLE ((List.range 8).map (fun k => Tab.get 0xFF t (i + k))))

def Queue.read (q : Queue) (o : Nat) : DWord :=
  if o = 0x00 then q.qctl else if o = 0x08 then q.qcw else if o = 0x10 then q.qprev else if o = 0x18 then q.qlast
  else if o = 0x20 then q.qstat else if o = 0x28 then q.hseq else if o = 0x30 then q.cseq else q.qfaddr

def State.ring (s : State) (v : Nat) : Ring := Tab.get Ring.reset s.rings v
def State.setRing (s : State) (v : Nat) (r : Ring) : State := { s with rings := Tab.put s.rings v r }

/-- A control register of a core's slice. -/
def State.coreRegRead (s : State) (cid o : Nat) : DWord :=
  if 0x181000 ≤ o ∧ o < 0x181200 then (s.queue cid ((o - 0x181000) / 0x40)).read ((o - 0x181000) % 0x40)
  else if 0x182000 ≤ o ∧ o < 0x182040 then calWord (s.core cid).calCopy (o - 0x182000)
  else if 0x182040 ≤ o ∧ o < 0x182080 then calWord (s.core cid).calGather (o - 0x182040)
  else if o = 0x183008 then
    match s.coreVdev cid with
    | some v => BitVec.ofNat 64 ((if (s.ring v).err then 2 ^ 63 else 0) + (s.ring v).head.toNat)
    | none => 0
  else 0

/-- A control register of a die's slice. -/
def State.dieRegRead (s : State) (d o : Nat) : DWord :=
  let x := s.die d
  if o = 0x40000000 then x.pool.zeroExtend 64
  else if 0x40001000 ≤ o ∧ o < 0x40001100 then
    (if o % 16 = 0 then Tab.get 0 x.lkbase ((o - 0x40001000) / 16) else Tab.get 0 x.lkctl ((o - 0x40001000) / 16))
  else if 0x40002000 ≤ o ∧ o < 0x40002100 then (Tab.get 0 x.refrec ((o - 0x40002000) / 8)).zeroExtend 64
  else if 0x40004000 ≤ o ∧ o < 0x40006000 then
    let w := (o - 0x40004000) / 2
    BitVec.ofNat 64 ((List.range 4).foldl (fun a k => a + (Tab.get 0 x.wres (w + k)).toNat * 2 ^ (16 * k)) 0)
  else if 0x40010000 ≤ o ∧ o < 0x40010040 then calWord x.calReduce (o - 0x40010000)
  else if 0x40010040 ≤ o ∧ o < 0x40010080 then calWord x.calConvert (o - 0x40010040)
  else if o = 0x40020000 then x.vdtbase
  else if o = 0x40020008 then x.plimit
  else if o = 0x40020018 then x.vdrstat
  else if o = 0x40020020 then x.clrbase
  else if 0x40021000 ≤ o ∧ o < 0x40021800 then Tab.get 0 x.cmt ((o - 0x40021000) / 8)
  else if o = 0x40030000 then x.mgstat
  else if o = 0x40030008 then x.temp
  else if o = 0x40030010 then x.pwrlim
  else if o = 0x40030018 then x.pwrnow
  else if o = 0x40030020 then x.linkst
  else if o = 0x40030028 then x.cecnt
  else 0

/-- Put bytes of a store into a word: `v` where `mask` is set. -/
def merge (old v mask : DWord) : DWord := (old &&& ~~~mask) ||| (v &&& mask)

/-- The bytes of a word that a mask covers, at their places in a table of bytes. -/
def putCal (t : Tab Byte) (i : Nat) (v mask : DWord) : Tab Byte :=
  (List.range 8).foldl (fun t k =>
    if mask.getLsbD (8 * k) then Tab.set 0xFF t (i + k) ((v >>> (8 * k)).truncate 8) else t) t

/-! Queues. -/

/-- The least scope code a queue keeps: core for the engines of a core, die for those of a die (R276). -/
def qctlFix (v : Nat) : Nat :=
  let least := if bitsOf v 9 8 < 2 then 3 else 6
  let sc := bitsOf v 15 12
  putBits (v % 2 ^ 36 &&& 0xFFFFFF301) 15 12 (if sc < least ∨ 12 ≤ sc then least else sc)

/-- CLRC clears MISSES and DROPS (R276). -/
def Queue.clrc (q : Queue) : Queue := { q with qstat := q.qstat &&& 0x00000000FFFFFFFF#64 }
/-- Clearing HALT clears FCAUSE. -/
def Queue.unhalt (q : Queue) : Queue := { q with qstat := q.qstat &&& 0xFFFFFFFF00FFFFFE#64 }

/-- A write of a queue's register: QCTL, QCW, QPREV and QLAST only while nothing is in progress (R276). SCOPE is brought to its minimum when the store
covers its byte; a byte that is not covered keeps its value (01 R400). No such write returns HSEQ or CSEQ to 0: that they count from when the queue was set up
does not say that a later set-up starts them anew (DESIGN CHOICE, assumption 113). -/
def Queue.write (q : Queue) (o : Nat) (v mask : DWord) : Queue :=
  let idle := q.hseq == q.cseq
  if o = 0x00 then (if idle then
      let x := merge q.qctl v (mask &&& 0xFFFFFF301#64)
      { q with qctl := if mask.getLsbD 8 then BitVec.ofNat 64 (qctlFix x.toNat) else x }
    else q)
  else if o = 0x08 then (if idle then { q with qcw := merge q.qcw v mask } else q)
  else if o = 0x10 then (if idle then { q with qprev := merge q.qprev v mask } else q)
  else if o = 0x18 then (if idle then { q with qlast := merge q.qlast v mask } else q)
  else if o = 0x20 then
    let q := if (v &&& mask).getLsbD 1 then q.clrc else q
    if (v &&& mask).getLsbD 0 then q.unhalt else q
  else q

/-! Actions. -/

/-- Where the entry of a virtual device stands in the table of a die (19 R341). -/
def State.vdtEntry (s : State) (d v : Nat) : Nat := (s.die d).vdtbase.toNat + 64 * v
/-- Words 0, 1 and 2 of a virtual device's entry in the table of a die (19 R341). -/
def State.vdt (s : State) (d v : Nat) : Nat × Nat × Nat :=
  let at_ (k : Nat) : Nat := s.tableAt d (s.vdtEntry d v + 8 * k) 8
  (at_ 0, at_ 1, at_ 2)
/-- A distributor reads the entry of a virtual device. -/
def State.vdtLook (s : State) (d v : Nat) : State := s.tableLook d (s.vdtEntry d v) 24
/-- The home die of a virtual device: the one whose own table names it (R341). -/
def State.homeOfVdev (s : State) (v : Nat) : Option Nat := (List.range 32).find? (fun d => bitAt (s.vdt d v).1 63 && bitsOf (s.vdt d v).1 62 58 == d)

/-- LAUNCH: the tail of the ring of the core's virtual device; a release at system scope by an agent of die `src` toward the home distributor (R344). -/
def State.launchWrite (s : State) (src cid : Nat) (tail : DWord) : State :=
  match s.coreVdev cid with
  | some v =>
    let s1 := s.setRing v { s.ring v with tail := tail.truncate 16 }
    match s.homeOfVdev v with
    | some d => (s1.mergeStamp d (s.kvec src)).vdtLook d v
    | none => s1
  | none => s

/-- The cached copies of a block of a die's memory go without write-back: L1, L1I, L2I, L2 and MSC (R225). -/
def State.dropCached (s : State) (base size : Nat) : State :=
  let out (d : Nat) (p : Nat × Sector) : Bool := outside base size (localOf (s.pool d) (p.1 * 256))
  let outSec (i : Nat) : Bool := outside base size (i * 256)
  { s with
    cores := s.cores.map (fun c => (c.1, { c.2 with l1d := c.2.l1d.filter (out (coreDie c.1)), l1i := c.2.l1i.filter (out (coreDie c.1)) })),
    dies := s.dies.map (fun d => (d.1, { d.2 with
      l2 := d.2.l2.filter (out d.1), l2i := d.2.l2i.map (fun q => (q.1, q.2.filter (out d.1))),
      l2dirty := Tab.keep outSec d.2.l2dirty, mscdirty := Tab.keep outSec d.2.mscdirty, mscpin := Tab.keep outSec d.2.mscpin,
      l2here := Tab.keep outSec d.2.l2here, l2open := Tab.keep outSec d.2.l2open, mschere := Tab.keep outSec d.2.mschere,
      bad := Tab.keep outSec d.2.bad })) }

/-- The clear of a range of a die's memory starts: copies go, the clearing bits of its lines are set (R225). -/
def State.startClear (s : State) (d base size : Nat) : State :=
  let s := s.dropCached base size
  let lines := (List.range (size / 1024)).filterMap (fun i =>
    let a := base / 1024 * 1024 + 1024 * i
    if a / 2 ^ 36 = d then some (a % 2 ^ 36 / 1024) else none)
  s.setDie d { s.die d with clearing := Tab.setAll false true lines (s.die d).clearing }

/-- CLRSIZE: the clear of the range at CLRBASE. -/
def State.clrsizeWrite (s : State) (d : Nat) (size : DWord) : State := s.startClear d (s.die d).clrbase.toNat size.toNat

/-- VDRESET sets BUSY and names the virtual device (R355). -/
def State.vdresetWrite (s : State) (d v : Nat) : State :=
  s.setDie d { s.die d with vdrstat := BitVec.ofNat 64 (2 ^ 63 + v % 256) }

/-- MGSTAT is cleared bit by bit: with both bits clear, cause and die read 0 (R398). -/
def mgstatWrite (old v mask : DWord) : DWord :=
  let x := w1c old (v &&& mask) (3#64 <<< 62)
  if x.getLsbD 63 || x.getLsbD 62 then x else 0

/-- A write of a control register of a core's slice, at the word at offset o (R400). -/
def State.coreRegWrite (s : State) (w : Who) (cid o : Nat) (v mask : DWord) : State :=
  if 0x181000 ≤ o ∧ o < 0x181200 then
    let n := (o - 0x181000) / 0x40
    s.setQueue cid n ((s.queue cid n).write ((o - 0x181000) % 0x40) v mask)
  else if 0x182000 ≤ o ∧ o < 0x182040 then s.setCore cid { s.core cid with calCopy := putCal (s.core cid).calCopy (o - 0x182000) v mask }
  else if 0x182040 ≤ o ∧ o < 0x182080 then s.setCore cid { s.core cid with calGather := putCal (s.core cid).calGather (o - 0x182040) v mask }
  else if o = 0x183000 then s.launchWrite (dieOf (w.gid % 2 ^ 20)) cid (v &&& mask)
  else if o = 0x183008 then
    match s.coreVdev cid with
    | some n => if 2 ≤ w.level ∧ (v &&& mask).getLsbD 63 then s.setRing n { s.ring n with err := false } else s
    | none => s
  else s

/-- A write of a control register of a die's slice. -/
def State.dieRegWrite (s : State) (d o : Nat) (v mask : DWord) : State :=
  let x := s.die d
  if o = 0x40000000 then
    let p := (merge (x.pool.zeroExtend 64) v mask).toNat % 256
    s.setDie d { x with pool := BitVec.ofNat 8 (if p ≤ 128 then p else 128) }
  else if 0x40010000 ≤ o ∧ o < 0x40010040 then s.setDie d { x with calReduce := putCal x.calReduce (o - 0x40010000) v mask }
  else if 0x40010040 ≤ o ∧ o < 0x40010080 then s.setDie d { x with calConvert := putCal x.calConvert (o - 0x40010040) v mask }
  else if o = 0x40020000 then s.setDie d { x with vdtbase := merge x.vdtbase v mask }
  else if o = 0x40020008 then s.setDie d { x with plimit := merge x.plimit v (mask &&& 0xFFFF#64) }
  else if o = 0x40020010 then s.vdresetWrite d ((v &&& mask).toNat % 256)
  else if o = 0x40020020 then s.setDie d { x with clrbase := merge x.clrbase v mask }
  else if o = 0x40020028 then s.clrsizeWrite d (v &&& mask)
  else if 0x40021000 ≤ o ∧ o < 0x40021800 then
    s.setDie d { x with cmt := Tab.set 0 x.cmt ((o - 0x40021000) / 8) (merge (Tab.get 0 x.cmt ((o - 0x40021000) / 8)) v mask) }
  else if o = 0x40030000 then s.setDie d { x with mgstat := mgstatWrite x.mgstat v mask }
  else if o = 0x40030010 then s.setDie d { x with pwrlim := merge x.pwrlim v (mask &&& 0xFFFF#64) }
  else s

/-! Windows byte by byte. -/

/-- The bound of a group in a slot; no group has none. -/
def State.slotBound (s : State) (gid : Nat) : Nat := if (s.group gid).resident then (s.group gid).bound else 0

/-- One byte of a die's slice as a load returns it. -/
def State.winByte (s : State) (d off : Nat) : Byte :=
  let ctl (v : DWord) : Byte := (v >>> (8 * (off % 8))).truncate 8
  match coreSlice d off with
  | some (cid, o) =>
    if inRegWin o then
      let (gid, r, b) := regWinAt cid o
      if r < s.slotBound gid then (((s.group gid).reg (b / 4) r) >>> (8 * (b % 4))).truncate 8 else 0
    else if inSpadWin o then Tab.get 0 (s.core cid).spad (o - 0x100000)
    else if inAccWin o then
      let i := (o - 0x140000) % 4096
      ((Tab.get 0 (Tab.get Tile.reset (s.core cid).tiles ((o - 0x140000) / 4096)).elems (i / 4)) >>> (8 * (i % 4))).truncate 8
    else ctl (s.coreRegRead cid (o / 8 * 8))
  | none => ctl (s.dieRegRead d (off / 8 * 8))

/-- Bytes of a die's slice. -/
def State.winBytes (s : State) (d off n : Nat) : List Byte := (List.range n).map (fun i => s.winByte d (off + i))

/-- A load of CECNT clears the bytes it returns (R398, R400). -/
def State.cecntClear (s : State) (d off n : Nat) : State :=
  let m := (List.range n).foldl (fun (m : DWord) i =>
    if 0x40030028 ≤ off + i ∧ off + i < 0x40030030 then m ||| (0xFF#64 <<< (8 * (off + i - 0x40030028))) else m) 0
  if m = 0 then s else s.setDie d { s.die d with cecnt := (s.die d).cecnt &&& ~~~m }

/-- A load from a die's slice: the bytes and the state after. -/
def State.winLoad (s : State) (d off n : Nat) : List Byte × State := (s.winBytes d off n, s.cecntClear d off n)

/-- A register of a group takes bytes through the window: each touched lane's word is merged and tagged, the register becomes full (R209, 15 R294). -/
def Group.winWrite (g : Group) (r b : Nat) (bs : List Byte) : Group :=
  let g1 := ((List.range bs.length).foldl (fun (a : Group) i =>
    let l := (b + i) / 4
    let k := 8 * ((b + i) % 4)
    a.wrReg l r (BitVec.ofNat 32 (putBits (a.reg l r).toNat (k + 7) k (bs.getD i 0).toNat))) g)
  g1.setEmpty r false

/-- The write is discarded: no group or register there, a tagged row; for an engine also another world, or a tile not owned by the context (R209, R167, R294, R383). -/
def State.winDiscards (s : State) (w : Who) (d off : Nat) : Bool :=
  match coreSlice d off with
  | some (cid, o) =>
    if w.engine && s.otherWorld cid w.world then true
    else if inRegWin o then
      let (gid, r, _) := regWinAt cid o
      decide (s.slotBound gid ≤ r)
    else if inSpadWin o then (s.core cid).tagged (o - 0x100000)
    else if inAccWin o then w.engine && !s.ownsTile cid ((o - 0x140000) / 4096) w.ctxid
    else false
  | none => false

/-- Bytes into one accumulator tile. -/
def Tile.winWrite (t : Tile) (i : Nat) (bs : List Byte) : Tile :=
  { t with elems := (List.range bs.length).foldl (fun e j =>
      let k := 8 * ((i + j) % 4)
      Tab.set 0 e ((i + j) / 4) (BitVec.ofNat 32 (putBits (Tab.get 0 e ((i + j) / 4)).toNat (k + 7) k (bs.getD j 0).toNat))) t.elems }

/-- A store of control words: each word that the bytes touch is written with the bytes it covers (R400). -/
def ctlWords (off : Nat) (bs : List Byte) : List (Nat × DWord × DWord) :=
  (List.range ((off % 8 + bs.length + 7) / 8)).map (fun k =>
    let base := off / 8 * 8 + 8 * k
    let at_ := (List.range 8).map (fun i => decide (off ≤ base + i) && decide (base + i < off + bs.length))
    (base,
     BitVec.ofNat 64 (ofBytesLE ((List.range 8).map (fun i => if at_.getD i false then bs.getD (base + i - off) 0 else 0))),
     BitVec.ofNat 64 (ofBytesLE (at_.map (fun b => if b then 0xFF#8 else 0)))))

/-- A store of bytes that lie in one register, row or tile of a die's slice. -/
def State.winStore (s : State) (w : Who) (d off : Nat) (bs : List Byte) : State :=
  if s.winDiscards w d off then s
  else match coreSlice d off with
    | some (cid, o) =>
      if inRegWin o then
        let (gid, r, b) := regWinAt cid o
        (s.setGroup gid ((s.group gid).winWrite r b bs)).unblock gid
      else if inSpadWin o then s.setCore cid ((s.core cid).spadPut (o - 0x100000) bs)
      else if inAccWin o then
        let t := (o - 0x140000) / 4096
        s.setCore cid { s.core cid with
          tiles := Tab.put (s.core cid).tiles t ((Tab.get Tile.reset (s.core cid).tiles t).winWrite ((o - 0x140000) % 4096) bs) }
      else (ctlWords o bs).foldl (fun s p => s.coreRegWrite w cid p.1 p.2.1 p.2.2) s
    | none => (ctlWords off bs).foldl (fun s p => s.dieRegWrite d p.1 p.2.1 p.2.2) s

/-! The control block of an I/O die. -/

/-- A word of the control block of an I/O die, R317, R367, R369, R371. -/
def State.ioRegRead (s : State) (io o : Nat) : DWord :=
  let x := s.io io
  if o < 0x080000 then (if o % 16 = 0 then Tab.get 0 x.bzb (o / 16) else Tab.get 0 x.bzt (o / 16))
  else if 0x100000 ≤ o ∧ o < 0x180000 then (if o % 16 = 0 then Tab.get 0 x.clt ((o - 0x100000) / 16) else Tab.get 0 x.cltt ((o - 0x100000) / 16))
  else if 0x200000 ≤ o ∧ o < 0x210000 then
    let k := (o - 0x200000) / 0x1000
    if o % 0x1000 = 0 then Tab.get 0 x.rqtbase k else if o % 0x1000 = 8 then Tab.get 0 x.rperr k else if o % 0x1000 = 16 then Tab.get 0 x.rhcfg k else 0
  else if o = 0x300000 then x.clasperr
  else if o = 0x300008 then x.bezerr
  else if o = 0x300010 then x.prqbase
  else if o = 0x300018 then x.prqctl
  else if o = 0x300030 then x.rwrstat
  else if 0x400000 ≤ o ∧ o < 0x410000 then (if o % 16 = 0 then Tab.get 0 x.rwin ((o - 0x400000) / 16) else Tab.get 0 x.rwinb ((o - 0x400000) / 16))
  else if 0x500000 ≤ o ∧ o < 0x510000 then (if o % 16 = 0 then Tab.get 0 x.rout ((o - 0x500000) / 16) else 0)
  else 0

/-- Bytes of the control block. -/
def State.ioBytes (s : State) (io o n : Nat) : List Byte :=
  (List.range n).map (fun i => ((s.ioRegRead io ((o + i) / 8 * 8)) >>> (8 * ((o + i) % 8))).truncate 8)

/-- PRGRSP: the root port sends the response to its requester (R307). -/
def State.prgRespond (s : State) (io : Nat) (v : DWord) : State :=
  let s := s.setIo io { s.io io with prg := v :: (s.io io).prg }
  s.send (bitsOf v.toNat 47 40) (bitsOf v.toNat 63 48) 4 (bytesLE 8 v.toNat)

/-- RWREV: the window's generation advances and BUSY is set, unless it is set; the place in the ordering point is the revocation point (R371). -/
def State.revokeWrite (s : State) (io : Nat) (w : BitVec 12) : State :=
  let x := s.io io
  if x.rwrstat.getLsbD 63 then s
  else
    let e := (Tab.get 0 x.rwin w.toNat).toNat
    s.setIo io { x with rwin := Tab.put x.rwin w.toNat (BitVec.ofNat 64 (putBits e 31 22 (bitsOf e 31 22 + 1))),
                        rwrstat := BitVec.ofNat 64 (2 ^ 63 + w.toNat), entries := x.entries ++ [.revoke w] }

/-- Fields that a store to RWIN, ROUT, BZB, CLT and RHCFG may change. -/
def bzbMask : DWord := 0x8000000000FF0000#64
def cltMask : DWord := 0xE000000000FF0000#64
def rwinMask : DWord := 0xFFFFFFFF0000001F#64
def routMask : DWord := 0x800FFFFFFFC00000#64
def rhcfgMask : DWord := 0x8000FF00000000FF#64

/-- A write of a word of the control block at a level, by a system core. -/
def State.ioRegWrite (s : State) (w : Who) (io o : Nat) (v mask : DWord) : State :=
  let x := s.io io
  let put (t : Tab DWord) (i : Nat) (m : DWord) : Tab DWord := Tab.put t i (merge (Tab.get 0 t i) v (mask &&& m))
  let all : DWord := BitVec.allOnes 64
  if o < 0x080000 then s.setIo io (if o % 16 = 0 then { x with bzb := put x.bzb (o / 16) bzbMask } else { x with bzt := put x.bzt (o / 16) all })
  else if 0x100000 ≤ o ∧ o < 0x180000 then
    let i := (o - 0x100000) / 16
    s.setIo io (if o % 16 = 0 then { x with clt := put x.clt i cltMask } else { x with cltt := put x.cltt i all })
  else if 0x200000 ≤ o ∧ o < 0x210000 then
    let k := (o - 0x200000) / 0x1000
    s.setIo io (if o % 0x1000 = 0 then { x with rqtbase := put x.rqtbase k all }
      else if o % 0x1000 = 8 then { x with rperr := Tab.put x.rperr k (w1c (Tab.get 0 x.rperr k) (v &&& mask) (3#64 <<< 62)) }
      else if o % 0x1000 = 16 ∧ 3 ≤ w.level then { x with rhcfg := put x.rhcfg k rhcfgMask } else x)
  else if o = 0x300000 then s.setIo io { x with clasperr := w1c x.clasperr (v &&& mask) (3#64 <<< 62) }
  else if o = 0x300008 then s.setIo io { x with bezerr := w1c x.bezerr (v &&& mask) (3#64 <<< 62) }
  else if o = 0x300010 then s.setIo io { x with prqbase := merge x.prqbase v mask }
  else if o = 0x300018 then s.setIo io { x with prqctl := merge x.prqctl v (mask &&& 0xFFFFFFFFFFFF001F#64) }
  else if o = 0x300020 then s.prgRespond io (v &&& mask)
  else if o = 0x300028 then s.revokeWrite io ((v &&& mask).truncate 12)
  else if o = 0x300040 ∧ io = 32 then (if w.level = 2 then s.setIo io { x with calls := x.calls ++ [(coreOf w.gid, v &&& mask)] } else s)
  else if 0x300100 ≤ o ∧ o < 0x300180 then s.wakeCore (io * 64 + (o - 0x300100) / 8)
  else if 0x400000 ≤ o ∧ o < 0x410000 then
    let i := (o - 0x400000) / 16
    s.setIo io (if o % 16 = 0 then { x with rwin := put x.rwin i rwinMask } else { x with rwinb := put x.rwinb i all })
  else if 0x500000 ≤ o ∧ o < 0x510000 then
    s.setIo io (if o % 16 = 0 then { x with rout := put x.rout ((o - 0x500000) / 16) routMask } else x)
  else s

/-- A store of bytes to the control block. -/
def State.ioStore (s : State) (w : Who) (io o : Nat) (bs : List Byte) : State :=
  (ctlWords o bs).foldl (fun s p => s.ioRegWrite w io p.1 p.2.1 p.2.2) s

/-! The steps of the table that are such writes. -/

/-- REGISTER_WRITE: an agent at a level stores to a register at a physical address (R400): the on-chip map or a control block. -/
def execRegisterWrite (addr : DWord) (width : Nat) (val : BitVec 128) (level : Nat) (s : State) : Host.Outcome State Fault Refusal :=
  let w : Who := { gid := 65536, level := level, vdev := 0, ctxid := 0, world := 0, engine := false }
  let bs := bytesLE width val.toNat
  match regionOf 0 addr.toNat with
  | .onchip d =>
    let ea := addr.toNat - 0x0F0000000000
    .next (if s.winRefuses w ea true then s else s.winStore w d (ea % 2 ^ 32) bs)
  | .ctl io => .next (if level < 2 then s else s.ioStore w io (addr.toNat % 0x80000000) bs)
  | _ => .next s

/-- LAUNCH: the tail index reaches the ring of the core's virtual device, written by an agent of the core's die (R344). -/
def execLaunch (cid : Nat) (tail : DWord) (s : State) : Host.Outcome State Fault Refusal := .next (s.launchWrite (coreDie cid) cid tail)
/-- CLRSIZE: the clear starts (R225). -/
def execClrsize (die : Nat) (size : DWord) (s : State) : Host.Outcome State Fault Refusal := .next (s.clrsizeWrite die size)
/-- PRGRSP (R307). -/
def execPrgrsp (io : Nat) (v : DWord) (s : State) : Host.Outcome State Fault Refusal := .next (s.prgRespond io v)
/-- RWREV (R371). -/
def execRwrev (io : Nat) (w : BitVec 12) (s : State) : Host.Outcome State Fault Refusal := .next (s.revokeWrite io w)
/-- CECNT_READ: a load of bytes of CECNT returns and clears them (R398, R400). -/
def execCecntRead (die off width : Nat) (s : State) : Host.Outcome State Fault Refusal := .next (s.cecntClear die (0x40030028 + off) width)
/-- QSTAT_CLRC (R276). -/
def execQstatClrc (cid q : Nat) (s : State) : Host.Outcome State Fault Refusal := .next (s.setQueue cid q (s.queue cid q).clrc)
/-- QSTAT_HALT_CLEAR (R276). -/
def execQstatHaltClear (cid q : Nat) (s : State) : Host.Outcome State Fault Refusal := .next (s.setQueue cid q (s.queue cid q).unhalt)

end Sys2Proof.Machine
end

