-- ==== Sys2Proof/Machine/LoadStore.lean ====
section
/-!
DEFINITION. Loads and stores: the checks of each lane (06 R119, 18 R327), where a request is performed (11 R205, R216), LD and ST on the
hierarchy (11 R212 to R217, 13 R249, R250), LDS and STS (R252), LDW and STW (06 R120).
-/

namespace Sys2Proof.Machine

/-! The checks of R119, lane by lane. -/

/-- A lane's access that passes: its lane, address, physical address, device page. -/
structure LaneAcc where
  lane : Nat
  ea : Nat
  pa : Nat
  dev : Bool
  deriving DecidableEq, Repr

/-- What the checks of a lane lead to; a fault has its place in the order of R119. A lane on hold passes once a pass has read what it writes. -/
inductive LaneChk where
  | ok (a : LaneAcc)
  | fault (rank : Nat)
  | miss
  | hold
  deriving DecidableEq, Repr

/-- The causes in the order of R119: MISALIGN, PAGE_FAULT, PERMISSION, the MACHINE_CHECK of a walk or of a scratchpad row (18 R333), BAR_CLOBBER,
GEN_STALE (of a walk, 18 R332). -/
def rankCause : Nat → Nat
  | 1 => cMisalign | 2 => cPageFault | 3 => cPermission | 4 => cMachineCheck | 5 => cBarClobber | _ => cGenStale
def causeRank (c : Nat) : Nat := if c = cPageFault then 2 else if c = cPermission then 3 else if c = cGenStale then 6 else 4
/-- The places in that order. -/
def ranks : List Nat := [1, 2, 3, 4, 5, 6]

/-- The lanes of the first cause, when any lane fails. -/
def firstFault (rs : List (Nat × LaneChk)) : Option (Nat × Mask) :=
  (ranks.map (fun k => (rankCause k, maskOf (fun l => rs.any (fun p => p.1 == l && p.2 == .fault k))))).find? (fun p => p.2 != 0)

/-- The accesses that pass, in lane order. -/
def passing (rs : List (Nat × LaneChk)) : List LaneAcc := rs.filterMap (fun p => match p.2 with | .ok a => some a | _ => none)

/-- Every lane's checks are resolved, walks included; the passing lanes act and advance, the others keep their PCs, and the first cause traps (R119, R327).
TADDR is the lane's ea for BAR_CLOBBER too, as R119 has it; 18 R326 speaks of the row (assumption 88). -/
def State.lanesGo (s : State) (c : Ctx) (g : Group) (asid : BitVec 12) (ea : Nat → Nat) (chk : Nat → LaneChk) (go : State → List LaneAcc → State) : State :=
  let rs := c.en.lanes.map (fun l => (l, chk l))
  let missing := rs.filterMap (fun p => if p.2 = .miss then some (ea p.1) else none)
  if missing ≠ [] then s.askWalks c.gid asid missing
  else if rs.any (fun p => p.2 == .hold) then s.stall c.gid
  else
    let oks := passing rs
    let failed := maskOf (fun l => c.en.has l && oks.all (fun a => a.lane != l))
    let s1 := s.commitExcept c failed g
    let s1 := s1.setGroup c.gid { s1.group c.gid with prior := c.g.lanes }
    let s2 := go s1 oks
    match firstFault rs with
    | none => s2
    | some (cause, m) => s2.trapAt c cause m (BitVec.ofNat 64 ((m.first.map ea).getD 0))

/-- Physical regions that a group's load or store may not reach: the on-chip map (R120), the Clasp window (16 R312), and below level 2 the
control blocks (R317) and ECAM (R300). -/
def barred (pool level pa : Nat) : Bool :=
  match regionOf pool pa with
  | .onchip _ | .clasp => true
  | .ctl _ => decide (level < 2)
  | .pcie _ => decide (level < 2) && decide ((pa - 0x0C0000000000) % 2 ^ 36 < 2 ^ 28)
  | .hole => !(decide (0x040000000000 ≤ pa) && decide (pa < 0x080000000000))
  | _ => false

/-- A lane's access passes its checks, once no pass of the group still reads what it writes. -/
def State.writeChk (s : State) (c : Ctx) (acc : Acc) (n : Nat) (a : LaneAcc) : LaneChk :=
  if (acc == .store || acc == .atomic) && s.passReads c.gid a.pa n then .hold else .ok a

/-- The checks of one lane of a translated access of n bytes; an atomic may reach no device page (13 R257). -/
def State.laneChk (s : State) (c : Ctx) (l ea n : Nat) (acc : Acc) : LaneChk :=
  if ea % n ≠ 0 then .fault 1
  else match s.translate c.gid c.g.asid ea acc c.g.priv with
    | .miss => .miss
    | .fault cause => .fault (causeRank cause)
    | .ok pa dev _ =>
      if barred (s.pool (dieOf c.gid)) c.g.priv pa || (acc == .atomic && dev) then .fault 3
      else s.writeChk c acc n { lane := l, ea := ea, pa := pa, dev := dev }

/-! Where a request goes. -/

/-- The bytes of a value, and the value of bytes. -/
def valBytes (n : Nat) (x : BitVec 128) : List Byte := bytesLE n x.toNat
def valOf (bs : List Byte) : BitVec 128 := BitVec.ofNat 128 (ofBytesLE bs)

/-- A load or store waits at issue: an acquire has not returned (R232), a release fence holds stores (R231), a release waits for what came
before (R231), `n` writes of the die would run too far ahead of a home (R237). -/
def State.holdLoad (s : State) (gid : Nat) : Bool := s.acqOut gid
def State.holdStore (s : State) (gid : Nat) (ord : Ord) (sc : Scope) (n : Nat) : Bool :=
  s.acqOut gid || s.relHeld gid || ((ord == .rel || ord == .ar) && s.outstanding gid sc) || s.farAheadBy (dieOf gid) n

/-! LD. -/

/-- The request of one lane of an access, placed. -/
def State.laneReq (s : State) (c : Ctx) (x : Ext) (n : Nat) (a : LaneAcc) : Req × State :=
  let pool := s.pool (dieOf c.gid)
  let (lpa, tgt, s) := s.placeOf pool a.pa
  ({ s.blankReq c (s.group c.gid).issueNo with
     tgt := tgt, dev := a.dev, pa := a.pa, lpa := lpa, va := BitVec.ofNat 64 a.ea, width := n, cls := x.cls, ord := x.ord, scope := x.scope,
     members := [⟨a.lane, (c.g.lane a.lane).gen, 0, 0⟩], stamp := s.kvec (dieOf c.gid) }, s)

/-- Two operands on: the register two above. -/
def upTwo : Opnd → Opnd
  | .v n => .v ⟨(n.val + 2) % 192, Nat.mod_lt _ (by decide)⟩
  | o => o

/-- An aligned .b128 access of one lane is two .b64 accesses, one for each half (12 R229); to a device page it is one request (R216). -/
def Req.halves (r : Req) : List Req :=
  if r.width = 16 ∧ r.dev = false then
    [{ r with width := 8, data := r.data &&& 0xFFFFFFFFFFFFFFFF#128 },
     { r with width := 8, pa := r.pa + 8, lpa := r.lpa + 8, va := r.va + 8, data := r.data >>> 64, dst := upTwo r.dst }]
  else [r]

/-- How many requests a lane sends for n bytes. -/
def halvesOf (n : Nat) : Nat := if n = 16 then 2 else 1

/-- The grain of a range that lies in one aligned block of 128 bytes: the smallest of 16, 32, 64 or 128 bytes whose aligned span covers it (R217). -/
def grainOf (lo hi : Nat) : Nat × Nat :=
  match [16, 32, 64].find? (fun g => lo / g == hi / g) with
  | some g => (lo / g * g, g)
  | none => (lo / 128 * 128, 128)

/-- The span that the accesses of an instruction share in the 128-byte block of one of them; CXL memory is read by whole sectors (R217). -/
def spanOf (accs : List (Nat × Nat)) (pa : Nat) (read : Bool) : Nat × Nat :=
  let mine := accs.filter (fun a => a.1 / 128 == pa / 128)
  if read && decide (0x080000000000 ≤ pa) then (pa / 256 * 256, 256)
  else grainOf (mine.foldl (fun m a => min m a.1) pa) (mine.foldl (fun m a => max m (a.1 + a.2 - 1)) pa)

/-- The requests of an instruction's accesses, with the span of each: the first of a block carries it, the others follow with length 0 (R217). -/
def spread : List Req → List Req → List Req
  | _, [] => []
  | before, r :: rs =>
    let all := before ++ r :: rs
    let x := if r.cls = .vg ∧ r.dev = false ∧ r.path = .vg then
        (let sp := spanOf (all.map (fun q => (q.pa, q.width))) r.pa r.isLoad
         { r with span := if before.any (fun q => q.pa / 128 == r.pa / 128) then (sp.1, 0) else sp })
      else r
    x :: spread (before ++ [r]) rs

/-- An earlier load of the group's, by the same class to a common byte, is not bound: a copy that a later one found could be older than what the
earlier one will see (12 R235). -/
def State.loadBehind (s : State) (r : Req) : Bool :=
  s.reqs.any (fun q => q.gid == r.gid && !q.performed && q.isLoad && !q.isPref && q.cls == r.cls && q.overlaps r) ||
  s.passes.any (fun p => p.q.gid == r.gid && p.cls == r.cls && p.touches r)

/-- The sector of the core's L1 that a .ca load hits (R212, R222, 23 R383); one with an error in its bits is a miss. -/
def State.l1Hit (s : State) (r : Req) : Option Sector :=
  if r.path == .ca && !s.loadBehind r then hitIn (s.core (coreOf r.gid)).l1d r.sector r.asid r.gen r.world else none

/-- The die's copy of a sector homed elsewhere that a .ca or .cb load hits (R213, R214, R250). -/
def State.l2Hit (s : State) (r : Req) : Option Sector :=
  if r.path != .vg && r.tgt != .mem r.src && !(r.ord == .acq && decide (8 ≤ r.scope.rank)) && !s.loadBehind r then s.copyAt r.src r.sector r.world
  else none

/-- The sector that a .ca load would hit in the L1 has an error in its bits: it is invalidated and recorded, and the load misses (18 R333). No SRC code of
R334 names the L1: the record has 0 (assumption 107). -/
def State.l1Sound (s : State) (r : Req) : State :=
  let cid := coreOf r.gid
  match (if r.path == .ca then Tab.find (s.core cid).l1d r.sector else none) with
  | some x =>
    if x.bad && x.asid == r.asid && x.gen == r.gen && x.world == r.world then
      (s.setCore cid { s.core cid with l1d := Tab.erase (s.core cid).l1d r.sector }).mclog cid 0 r.pa
    else s
  | none => s

/-- A load bound by a sector at issue. -/
def Req.bind (r : Req) (x : Sector) : Req :=
  { r with performed := true, result := r.members.map (fun m => (m.lane, valOf (x.read (r.pa % 256) r.width))) }

/-- A load request issues: bound by the L1 or a local copy, or sent with a fill to come (R212 to R214). -/
def State.issueLoad (s : State) (r : Req) : State :=
  match r.tgt with
  | .mem _ =>
    match s.l1Hit r with
    | some x => s.addReq (r.bind x)
    | none =>
      match s.l2Hit r with
      | some x =>
        let s := (s.l1Sound r).reads r.src false r.pa
        if x.bad then (s.addReq r).reject { r with id := s.seq } cMachineCheck 3
        else
          let s := s.addReq (r.bind x)
          if r.path == .ca && s.mayCopy r.src r.lpa r.world then s.fillL1 (coreOf r.gid) r.sector { x with asid := r.asid, gen := r.gen } else s
      | none =>
        let s := s.l1Sound r
        let fill := if r.path = .vg then none
          else some { Sector.absent with asid := r.asid, gen := r.gen, world := r.world, epoch := (s.die r.src).epoch }
        s.addReq { r with fill := fill }
  | _ => s.addReq r

/-- The requests of the passing lanes of an access, in lane order. -/
def State.laneReqs (c : Ctx) (x : Ext) (n : Nat) (f : LaneAcc → Req → Req) : State → List LaneAcc → List Req × State
  | s, [] => ([], s)
  | s, a :: as =>
    let q := s.laneReq c x n a
    let r := State.laneReqs c x n f q.2 as
    ((f a q.1).halves ++ r.1, r.2)

/-- LD, R118, R249. -/
def ldMeaning (i : Instr) (x : Ext) (s : State) : Host.Outcome State Fault Refusal :=
  let c := s.ctx i x
  let n := x.wid.bytes
  let ea := fun l => wrapInt 64 ((c.rd64 l x.a).toNat + x.off)
  s.gate c (c.chk [x.srcA 2] x.d (regsOfBytes n))
    (if c.en = 0 then s.commit c c.g
     else if s.holdLoad c.gid then s.stall c.gid
     else s.lanesGo c (c.g.killSrcs [x.srcA 2]) c.g.asid ea (fun l => s.laneChk c l (ea l) n .load) (fun s as =>
       if as = [] then s
       else
         let q := (s.setGroup c.gid ((s.group c.gid).markEmpty x.d n)).laneReqs c x n (fun _ r => { r with op := .load, dst := x.d }) as
         (spread [] q.1).foldl State.issueLoad q.2))
def execLd (d a : Opnd) (s : State) : Host.Outcome State Fault Refusal := ldMeaning (.ld d a) (Ext.ofBase 0x38 d a .none) s
def execLdX (x : Ext) (s : State) : Host.Outcome State Fault Refusal := ldMeaning (.ldX x) x s

/-! ST. -/

/-- The data of a store in a lane: the low bytes of B. -/
def Ctx.storeData (c : Ctx) (x : Ext) (l n : Nat) : BitVec 128 :=
  if n = 16 then c.rdQuad l x.b else if n = 8 then (c.rd64 l x.b).zeroExtend 128 else (c.rd32 l x.b).zeroExtend 128

/-- A store request issues: whatever its page's kind, a store to memory updates the caches that hold the sector, and it takes the die's next number (R212
to R214, R237). A store that the home would refuse as things stand leaves no bytes there (R222). -/
def State.issueStore (s : State) (r : Req) : State :=
  match r.tgt with
  | .mem h =>
    let s := if (s.homeRefuses h r.lpa r.level r.asid r.gen r.world false).isSome then s.dropSector (coreOf r.gid) r.sector
      else s.storeCaches (coreOf r.gid) r.pa (valBytes r.width r.data)
    let (n, s) := s.nextNum r.src
    s.addReq { r with num := some n, stamp := s.kvec r.src }
  | _ => s.addReq r

/-- ST, R118, R249. -/
def stMeaning (i : Instr) (x : Ext) (s : State) : Host.Outcome State Fault Refusal :=
  let c := s.ctx i x
  let n := x.wid.bytes
  let srcs := [x.srcA 2, x.srcB (regsOfBytes n)]
  let ea := fun l => wrapInt 64 ((c.rd64 l x.a).toNat + x.off)
  s.gate c (c.chk srcs .none 0)
    (if c.en = 0 then s.commit c c.g
     else if s.holdStore c.gid x.ord x.scope (c.en.lanes.length * halvesOf n) then s.stall c.gid
     else s.lanesGo c (c.g.killSrcs srcs) c.g.asid ea (fun l => s.laneChk c l (ea l) n .store) (fun s as =>
       let q := s.laneReqs c x n (fun a r => { r with op := .store, data := c.storeData x a.lane n }) as
       (spread [] q.1).foldl State.issueStore q.2))
def execSt (a b : Opnd) (s : State) : Host.Outcome State Fault Refusal := stMeaning (.st a b) (Ext.ofBase 0x39 .none a b) s
def execStX (x : Ext) (s : State) : Host.Outcome State Fault Refusal := stMeaning (.stX x) x s

/-! LDS and STS. -/

/-- The checks of LDS and STS in a lane. -/
def State.spadChk (s : State) (c : Ctx) (l ea n : Nat) (store : Bool) : LaneChk :=
  if ea % n ≠ 0 then .fault 1
  else match s.spadAt c.gid ea n with
    | none => .fault 3
    | some (cid, off) =>
      if store && (s.core cid).tagged off then .fault 5 else if !store && (s.core cid).spadBad off n then .fault 4
      else .ok { lane := l, ea := ea, pa := cid, dev := false }

/-- The lowest lane whose row has a parity error is logged (18 R333, R334). -/
def State.logSpad (s : State) (c : Ctx) (ea : Nat → Nat) (chk : Nat → LaneChk) : State :=
  match c.en.lanes.find? (fun l => chk l == .fault 4) with
  | some l => s.mclog (coreOf c.gid) 6 (ea l)
  | none => s

/-- LDS, R117, R252: the value is bound at issue. -/
def execLds (x : Ext) (s : State) : Host.Outcome State Fault Refusal :=
  let c := s.ctx (.lds x) x
  let n := x.wid.bytes
  let ea := fun l => wrapInt 32 ((c.rd32 l x.a).toNat + x.off)
  s.gate c (c.chk [x.srcA 1] x.d (regsOfBytes n))
    (if c.en = 0 then s.commit c c.g
     else if s.holdLoad c.gid || s.windowOut c.gid then s.stall c.gid
     else s.lanesGo c (c.g.killSrcs [x.srcA 1]) c.g.asid ea (fun l => s.spadChk c l (ea l) n false) (fun s1 as =>
       let s := s1.logSpad c ea (fun l => s.spadChk c l (ea l) n false)
       if as = [] then s
       else s.late c x.d n (as.map (fun a => (a.lane, valOf ((s.core a.pa).spadBytes ((s.spadAt c.gid a.ea n).getD (0, 0)).2 n)))) x.ord x.scope))

/-- STS, R117, R252: performed at issue, in lane order. -/
def execSts (x : Ext) (s : State) : Host.Outcome State Fault Refusal :=
  let c := s.ctx (.sts x) x
  let n := x.wid.bytes
  let srcs := [x.srcA 1, x.srcB (regsOfBytes n)]
  let ea := fun l => wrapInt 32 ((c.rd32 l x.a).toNat + x.off)
  s.gate c (c.chk srcs .none 0)
    (if c.en = 0 then s.commit c c.g
     else if s.holdStore c.gid x.ord x.scope 0 || s.windowOut c.gid then s.stall c.gid
     else s.lanesGo c (c.g.killSrcs srcs) c.g.asid ea (fun l => s.spadChk c l (ea l) n true) (fun s as =>
       as.foldl (fun s a =>
         s.setCore a.pa ((s.core a.pa).spadPut ((s.spadAt c.gid a.ea n).getD (0, 0)).2 (valBytes n (c.storeData x a.lane n)))) s))

/-! LDW and STW. -/

/-- The checks of LDW and STW in a lane. -/
def State.winChk (s : State) (c : Ctx) (l ea n : Nat) (store : Bool) : LaneChk :=
  if ea % n ≠ 0 then .fault 1
  else if s.winRefuses (s.who c.gid) ea store then .fault 3
  else .ok { lane := l, ea := ea, pa := 0x0F0000000000 + ea, dev := false }

/-- The request of one lane of a window access. -/
def State.winReq (s : State) (c : Ctx) (x : Ext) (n : Nat) (a : LaneAcc) : Req :=
  { s.blankReq c (s.group c.gid).issueNo with
    tgt := .window (a.ea / 2 ^ 32), stamp := s.kvec (dieOf c.gid), pa := a.pa, lpa := a.pa, va := BitVec.ofNat 64 a.ea, width := n, ord := x.ord, scope := x.scope,
    members := [⟨a.lane, (c.g.lane a.lane).gen, 0, 0⟩] }

/-- LDW, R120. -/
def execLdw (x : Ext) (s : State) : Host.Outcome State Fault Refusal :=
  let c := s.ctx (.ldw x) x
  let n := x.wid.bytes
  let ea := fun l => wrapInt 64 ((c.rd64 l x.a).toNat + x.off)
  s.gate c (c.chk [x.srcA 2] x.d (regsOfBytes n))
    (if c.en = 0 then s.commit c c.g
     else if s.holdLoad c.gid then s.stall c.gid
     else s.lanesGo c (c.g.killSrcs [x.srcA 2]) c.g.asid ea (fun l => s.winChk c l (ea l) n false) (fun s as =>
       if as = [] then s
       else as.foldl (fun s a => { s.winReq c x n a with op := .load, dst := x.d }.halves.foldl State.addReq s)
         (s.setGroup c.gid ((s.group c.gid).markEmpty x.d n))))

/-- The offset lies in a LAUNCH register. -/
def isLaunch (ea : Nat) : Bool := decide (ea % 2 ^ 32 < 0x40000000) && ea % 2 ^ 24 / 8 * 8 == 0x183000

/-- STW, R120. A store to LAUNCH is a release at system scope (19 R344). -/
def execStw (x : Ext) (s : State) : Host.Outcome State Fault Refusal :=
  let c := s.ctx (.stw x) x
  let n := x.wid.bytes
  let srcs := [x.srcA 2, x.srcB (regsOfBytes n)]
  let ea := fun l => wrapInt 64 ((c.rd64 l x.a).toNat + x.off)
  s.gate c (c.chk srcs .none 0)
    (if c.en = 0 then s.commit c c.g
     else if s.holdStore c.gid x.ord x.scope 0 || (c.en.lanes.any (fun l => isLaunch (ea l)) && s.outstanding c.gid .sys) then s.stall c.gid
     else s.lanesGo c (c.g.killSrcs srcs) c.g.asid ea (fun l => s.winChk c l (ea l) n true) (fun s as =>
       as.foldl (fun s a => { s.winReq c x n a with op := .store, data := c.storeData x a.lane n }.halves.foldl State.addReq s) s))

end Sys2Proof.Machine
end

