-- ==== Sys2Proof/Machine/Atomics.lean ====
section
/-!
DEFINITION. Atomics (13 R253 to R260), fences (R261, R262) and cache control with Locket windows (R263 to R269, 11 R220, R221).
-/

namespace Sys2Proof.Machine

/-! Atomics. -/

/-- The lanes of one address become one request, its members in ascending lane order (R258). -/
def batches : List LaneAcc → List (LaneAcc × List Nat) → List (LaneAcc × List Nat)
  | [], bs => bs
  | a :: r, bs =>
    batches r (if bs.any (fun b => b.1.ea == a.ea) then bs.map (fun b => if b.1.ea = a.ea then (b.1, b.2 ++ [a.lane]) else b) else bs ++ [(a, [a.lane])])

/-- An operand of an atomic in a lane. -/
def Ctx.atomOperand (c : Ctx) (l : Nat) (o : Opnd) (n : Nat) : DWord := if n = 8 then c.rd64 l o else (c.rd32 l o).zeroExtend 64

/-- An atomic request issues: the core's L1 sector and the die's copy go; a numbered write takes its number, a .spec none, a .qnt when it goes to be
applied, which is now where QUANTUM is 0; .unp and .nord carry no stamp (R212, R258, 12 R237, R241, R242). -/
def State.issueAtomic (s : State) (r : Req) : State :=
  match r.tgt with
  | .mem _ =>
    let s := s.dropSector (coreOf r.gid) r.sector
    if r.use = .spec then s.addReq r
    else if r.use = .qnt ∧ (s.core (coreOf r.gid)).quantum ≠ 0 then s.addReq { r with stamp := [] }
    else
      let (n, s) := s.nextNum r.src
      s.addReq { r with num := some n, stamp := if r.use = .unp ∨ r.use = .nord then [] else s.kvec r.src }
  | _ => s.addReq r

/-- An atomic, R256, R257. -/
def State.atomicForm (s : State) (i : Instr) (x : Ext) (op : AtomOp) (min : Nat) : Host.Outcome State Fault Refusal :=
  let c := s.ctx i x
  let ty := (atomTy min x.wid x.cls).getD .s32
  let n := x.wid.bytes
  let k := regsOfBytes n
  let srcs := [x.srcA 2, x.srcB k] ++ (if op = .cas then [x.srcC k] else [])
  let ea := fun l => wrapInt 64 ((c.rd64 l x.a).toNat + x.off)
  s.gate c (c.chk srcs x.d k)
    (if c.en = 0 then s.commit c c.g
     else if s.holdStore c.gid x.ord x.scope c.en.lanes.length then s.stall c.gid
     else s.lanesGo c (c.g.killSrcs srcs) c.g.asid ea (fun l => s.laneChk c l (ea l) n .atomic) (fun s as =>
       (batches as []).foldl (fun s b =>
         let (r, s) := s.laneReq c x n b.1
         s.issueAtomic { r with
           op := .atomic op ty, dst := x.d, use := x.use, cls := .vg, va := BitVec.ofNat 64 b.1.ea,
           members := b.2.map (fun l => ⟨l, (c.g.lane l).gen, c.atomOperand l x.b n, if op = .cas then c.atomOperand l x.c n else 0⟩) })
         (if as = [] then s else s.setGroup c.gid ((s.group c.gid).markEmpty x.d n))))

def aaddMeaning (i : Instr) (x : Ext) (s : State) : Host.Outcome State Fault Refusal := s.atomicForm i x .add 0
def execAadd (d a b : Opnd) (s : State) : Host.Outcome State Fault Refusal := aaddMeaning (.aadd d a b) (Ext.ofBase 0x3A d a b) s
def execAaddX (x : Ext) (s : State) : Host.Outcome State Fault Refusal := aaddMeaning (.aaddX x) x s
def execAmin (x : Ext) (s : State) : Host.Outcome State Fault Refusal := s.atomicForm (.amin x) x .min 1
def execAmax (x : Ext) (s : State) : Host.Outcome State Fault Refusal := s.atomicForm (.amax x) x .max 2
def execAand (x : Ext) (s : State) : Host.Outcome State Fault Refusal := s.atomicForm (.aand x) x .and 3
def execAor (x : Ext) (s : State) : Host.Outcome State Fault Refusal := s.atomicForm (.aor x) x .or 4
def execAxor (x : Ext) (s : State) : Host.Outcome State Fault Refusal := s.atomicForm (.axor x) x .xor 5
def execAxch (x : Ext) (s : State) : Host.Outcome State Fault Refusal := s.atomicForm (.axch x) x .xch 6
def execAcas (x : Ext) (s : State) : Host.Outcome State Fault Refusal := s.atomicForm (.acas x) x .cas 7
def execAinc (x : Ext) (s : State) : Host.Outcome State Fault Refusal := s.atomicForm (.ainc x) x .inc 8
def execAdec (x : Ext) (s : State) : Host.Outcome State Fault Refusal := s.atomicForm (.adec x) x .dec 9
def execAfadd (x : Ext) (s : State) : Host.Outcome State Fault Refusal := s.atomicForm (.afadd x) x .fadd 10
def execAfmin (x : Ext) (s : State) : Host.Outcome State Fault Refusal := s.atomicForm (.afmin x) x .fmin 11
def execAfmax (x : Ext) (s : State) : Host.Outcome State Fault Refusal := s.atomicForm (.afmax x) x .fmax 12

/-- The new value of an atomic at a location that holds `o`, or none for an ACAS that fails (R253, R255). -/
def atomNew (op : AtomOp) (ty : Ty) (w : Nat) (o b c : Nat) : Option Nat :=
  let m := 2 ^ (8 * w)
  let u := fun v => ty.readInt v
  match op with
  | .add => some ((o + b) % m)
  | .min => some (if u o ≤ u b then o else b % m)
  | .max => some (if u o ≥ u b then o else b % m)
  | .and => some ((o &&& b) % m)
  | .or => some ((o ||| b) % m)
  | .xor => some ((o ^^^ b) % m)
  | .xch => some (b % m)
  | .cas => if o = c % m then some (b % m) else none
  | .inc => some (if b % m ≤ o then 0 else o + 1)
  | .dec => some (if o = 0 ∨ b % m < o then b % m else o - 1)
  | .fadd => some (ty.fmt.sum .rne false 0 [Term.of (ty.fmt.decode o), Term.of (ty.fmt.decode (b % m))]).1
  | .fmin => some (ty.fmt.minMax false true o (b % m)).1
  | .fmax => some (ty.fmt.minMax true true o (b % m)).1

/-- The members of a batch one after another: what each returns, the last value, and whether anything was written (R243, R258). -/
def atomBatch (op : AtomOp) (ty : Ty) (w : Nat) : List Member → Nat → Bool → List (Nat × BitVec 128) × Nat × Bool
  | [], o, wr => ([], o, wr)
  | m :: ms, o, wr =>
    let n := atomNew op ty w o m.b.toNat m.c.toNat
    let r := atomBatch op ty w ms (n.getD o) (wr || n.isSome)
    ((m.lane, BitVec.ofNat 128 o) :: r.1, r.2)

/-! Fences. -/

/-- A FENCE may go on (R262): every order waits for the group's .qnt atomics. -/
def State.fenceWaits (s : State) (gid : Nat) (ord : Ord) (sc : Scope) : Bool :=
  s.qntOut gid || s.acqOut gid ||
  (match ord with
   | .rlx => s.outstanding gid sc
   | .rel => false
   | .acq | .ar => s.loadsOut gid)

/-- The bound that a release fence leaves: what it and an earlier one hold for. -/
def relMerge (old : Option (Nat × Scope)) (n : Nat) (sc : Scope) : Option (Nat × Scope) :=
  match old with
  | some (_, o) => some (n, if o.rank < sc.rank then sc else o)
  | none => some (n, sc)

/-- FENCE, R261, R262; code 0 of ORD is .sc. -/
def fenceMeaning (i : Instr) (x : Ext) (s : State) : Host.Outcome State Fault Refusal :=
  let c := s.ctx i x
  let rel := x.ord == .rel || x.ord == .ar
  let acq := x.ord != .rel
  .next (if c.en = 0 then s.commit c c.g
    else if s.fenceWaits c.gid x.ord x.scope then s.stall c.gid
    else
      let g := if rel then { c.g with relBound := relMerge (if s.relHeld c.gid then c.g.relBound else none) s.seq x.scope } else c.g
      let s1 := s.commit c g
      if acq then (if x.ord = .rlx then s1.acquireSc c.gid x.scope else s1.acquire c.gid x.scope) else s1)
def execFence (s : State) : Host.Outcome State Fault Refusal := fenceMeaning .fence (Ext.ofBase 0x3B .none .none .none) s
def execFenceX (x : Ext) (s : State) : Host.Outcome State Fault Refusal := fenceMeaning (.fenceX x) x s

/-! PREF, CINV, CWB. -/

/-- The checks of CINV and CWB in a lane: R, and no device page (R265, R266). -/
def State.cacheChk (s : State) (c : Ctx) (l ea : Nat) : LaneChk :=
  match s.translate c.gid c.g.asid ea .load c.g.priv with
  | .miss => .miss
  | .fault cause => .fault (causeRank cause)
  | .ok pa dev _ =>
    if dev || !((regionOf (s.pool (dieOf c.gid)) pa).memory || beyondPool (s.pool (dieOf c.gid)) pa) then .fault 3 else .ok { lane := l, ea := ea, pa := pa, dev := false }

/-- One access for each distinct sector. -/
def sectorsOf : List LaneAcc → List LaneAcc → List LaneAcc
  | [], acc => acc
  | a :: r, acc => sectorsOf r (if acc.any (fun b => b.pa / 256 == a.pa / 256) then acc else acc ++ [a])

/-- The lanes of a sector. -/
def sectorLanes (as : List LaneAcc) (a : LaneAcc) : List LaneAcc := as.filter (fun b => b.pa / 256 == a.pa / 256)

/-- A cache-control form whose lanes act on memory; it may be held. -/
def State.cacheForm (s : State) (i : Instr) (x : Ext) (hold : Bool) (chk : Ctx → Nat → Nat → LaneChk) (go : Ctx → State → List LaneAcc → State) :
    Host.Outcome State Fault Refusal :=
  let c := s.ctx i x
  let ea := fun l => wrapInt 64 ((c.rd64 l x.a).toNat + x.off)
  s.gate c (c.chk [x.srcA 2] .none 0)
    (if c.en = 0 then s.commit c c.g
     else if s.acqOut c.gid || hold then s.stall c.gid
     else s.lanesGo c (c.g.killSrcs [x.srcA 2]) c.g.asid ea (fun l => chk c l (ea l)) (fun s as => go c s (as.filter (fun a => !a.dev))))

/-- A lane of PREF that may not load is dropped: it passes, and names no memory (R264). -/
def State.prefChk (s : State) (c : Ctx) (l ea : Nat) : LaneChk :=
  match s.cacheChk c l ea with
  | .fault _ => .ok { lane := l, ea := ea, pa := 0, dev := true }
  | k => k

/-- PREF: the fill of a load of its class, without a destination (R264): a request for no lane, which nothing waits for. -/
def execPref (x : Ext) (s : State) : Host.Outcome State Fault Refusal :=
  s.cacheForm (.pref x) x false s.prefChk (fun c s as =>
    (sectorsOf as []).foldl (fun s a =>
      let (r, s) := s.laneReq c x 1 { a with pa := a.pa / 256 * 256 }
      s.issueLoad { r with op := .load, members := [] }) s)

/-- The dies of a group's inclusive instance of a scope (12 R227, R228). -/
def scopeDies (d : Nat) (sc : Scope) : List Nat :=
  if sc.rank ≤ 7 then [d] else if sc.rank = 8 then (List.range 8).map (fun i => d / 8 * 8 + i) else List.range 32
/-- The cores of a group's inclusive instance of a scope; a system core's is itself. -/
def State.scopeCores (s : State) (gid : Nat) (sc : Scope) : List Nat :=
  let cid := coreOf gid
  if isSystem gid || sc.rank ≤ 4 then [cid]
  else if sc.rank = 5 then (cid :: (match s.gang? (s.group gid).gang with | some k => k.wgs.map (fun w => (s.wg w).core) | none => [])).eraseDups
  else if sc.rank = 6 then (List.range 16).map (fun i => coreDie cid * 64 + quadOf cid * 16 + i)
  else (scopeDies (coreDie cid) sc).flatMap (fun d => (List.range 64).map (fun i => d * 64 + i))

/-- CINV of one sector: the L1 sectors of the cores of the instance, and from die scope the copies of its dies (R265). -/
def State.cinvOne (s : State) (gid : Nat) (sc : Scope) (sec : Nat) : State :=
  let cores := s.scopeCores gid sc
  let dies := if isSystem gid || sc.rank < 7 then [] else scopeDies (dieOf gid) sc
  { s with
    cores := s.cores.map (fun p => if cores.contains p.1 then (p.1, { p.2 with l1d := Tab.erase p.2.l1d sec }) else p),
    dies := s.dies.map (fun p => if dies.contains p.1 then (p.1, p.2.dropCopy sec) else p) }

/-- CINV, R265. -/
def execCinv (x : Ext) (s : State) : Host.Outcome State Fault Refusal :=
  s.cacheForm (.cinv x) x false s.cacheChk (fun c s as => (sectorsOf as []).foldl (fun s a => s.cinvOne c.gid x.scope (a.pa / 256)) s)

/-- CWB: a request for each sector, for every lane that names it; it counts as a store, which a release fence holds (R266, 12 R231). -/
def execCwb (x : Ext) (s : State) : Host.Outcome State Fault Refusal :=
  s.cacheForm (.cwb x) x (s.relHeld s.cur) s.cacheChk (fun c s as =>
    (sectorsOf as []).foldl (fun s a =>
      let (r, s) := s.laneReq c x 256 { a with pa := a.pa / 256 * 256 }
      s.addReq { r with op := .cwb (x.scope == .sys), members := (sectorLanes as a).map (fun b => ⟨b.lane, (c.g.lane b.lane).gen, 0, 0⟩) }) s)

/-! Locket windows. -/

/-- A control word of CPIN is legal, R267. -/
def pinOk (b : Nat) : Bool := bitsOf b 15 8 == 0 && b % 4 == 0 && bitsOf b 31 16 != 0 && decide (16 ≤ bitsOf b 7 2) && decide (bitsOf b 7 2 ≤ 25)
/-- LKCTL of a window just set. -/
def lkctlOf (b vdev : Nat) : DWord := BitVec.ofNat 64 (bitsOf b 31 16 * 2 ^ 32 + bitsOf b 31 16 * 2 ^ 16 + vdev * 2 ^ 8 + bitsOf b 7 2 * 4 + 1)

/-- Lines of a new window's range that stand in the memory-side cache are pinned at once (R220, R267). -/
def Die.pinRange (x : Die) (base size w : Nat) : Die :=
  (x.mschere.filter (fun p => p.2 && !outside base size (256 * p.1))).foldl (fun (x : Die) (p : Nat × Bool) => x.pinLine p.1 [w]) x

/-- The result of CPIN, and the state with its window set; device pages are excluded. Of several free windows it takes the lowest (DESIGN CHOICE,
assumption 113). -/
def State.cpin (s : State) (vdev : BitVec 8) (dev : Bool) (pa sz b : Nat) (ea : Nat) : Word × State :=
  let d := pa / 2 ^ 36
  let size := bitsOf b 7 2
  let hbm := decide (pa < 0x020000000000) && !dev
  if !pinOk b || ea % 2 ^ size != 0 || decide (sz < size) || !hbm then (0xFFFFFFFE#32, s)
  else match (List.range 16).find? (fun w => !(Tab.get 0 (s.die d).lkctl w).getLsbD 0) with
    | none => (0xFFFFFFFF#32, s)
    | some w =>
      (BitVec.ofNat 32 (d * 2 ^ 8 + w),
       s.setDie d ({ s.die d with
         lkbase := Tab.put (s.die d).lkbase w (BitVec.ofNat 64 pa), lkctl := Tab.put (s.die d).lkctl w (lkctlOf b vdev.toNat),
         lkhit := Tab.set false (s.die d).lkhit w true }.pinRange pa (2 ^ size) w))

/-- CPIN, R267: once per group, with the operands of the lowest enabled lane. -/
def execCpin (x : Ext) (s : State) : Host.Outcome State Fault Refusal :=
  let c := s.ctx (.cpin x) x
  let srcs := [x.srcA 2, x.srcB 1]
  let ea := fun l => wrapInt 64 ((c.rd64 l x.a).toNat + x.off)
  s.gate c (c.chk srcs x.d 1)
    (match c.en.first with
     | none => s.commit c c.g
     | some l =>
       if s.acqOut c.gid then s.stall c.gid
       else if !allSame (c.en.lanes.map (fun k => (ea k, (c.rd32 k x.b).toNat))) then s.trapAt c cUniform c.en 0
       else match s.translate c.gid c.g.asid (ea l) .load c.g.priv with
         | .miss => s.askWalks c.gid c.g.asid [ea l]
         | .fault cause => s.trapAt c cause c.en (BitVec.ofNat 64 (ea l))
         | .ok pa dev leaf =>
           let (h, s1) := s.cpin c.g.vdev dev pa leaf.sz (c.rd32 l x.b).toNat (ea l)
           let s2 := s1.commit c (c.g.killSrcs srcs)
           if x.d = .none then s2 else s2.late c x.d 4 (c.en.lanes.map (fun k => (k, h.zeroExtend 128))) .rlx .grp)

/-- The window is released: V clears, and its lines are ordinary lines unless another window still pins them (R220, R221, R268). -/
def State.unpin (s : State) (d w : Nat) : State :=
  s.setDie d { s.die d with
    mscpin := ((s.die d).mscpin.map (fun p => (p.1, p.2 &&& ~~~(1#16 <<< w)))).filter (fun p => p.2 != 0), lkctl := Tab.put (s.die d).lkctl w (Tab.get 0 (s.die d).lkctl w &&& ~~~1#64), lkhit := Tab.set false (s.die d).lkhit w false }

/-- CUNPIN, R268. -/
def execCunpin (x : Ext) (s : State) : Host.Outcome State Fault Refusal :=
  let c := s.ctx (.cunpin x) x
  let h := fun l => (c.rd32 l x.a).toNat
  s.gate c (c.chk [x.srcA 1] .none 0)
    (match c.en.first with
     | none => s.commit c c.g
     | some l =>
       let d := bitsOf (h l) 12 8
       let w := h l % 16
       let k := (Tab.get 0 (s.die d).lkctl w).toNat
       if !allSame (c.en.lanes.map h) then s.trapAt c cUniform c.en 0
       else if h l ≠ d * 2 ^ 8 + w ∨ (bitAt k 0 ∧ bitsOf k 15 8 ≠ c.g.vdev.toNat) then s.trapAt c cPermission c.en (BitVec.ofNat 64 (h l))
       else
         let s1 := s.commit c (c.g.killSrcs [x.srcA 1])
         if bitAt k 0 then s1.unpin d w else s1)

/-- LOCKET_FADE: a period ends for a valid window. Without a hit CUR falls, and at 0 the window is released (R221). -/
def execLocketFade (die w : Nat) (s : State) : Host.Outcome State Fault Refusal :=
  let x := s.die die
  let k := (Tab.get 0 x.lkctl w).toNat
  let cur := bitsOf k 47 32 - 1
  .next (if !bitAt k 0 then s
    else if Tab.get false x.lkhit w then s.setDie die { x with lkhit := Tab.set false x.lkhit w false }
    else
      let s1 := s.setDie die { x with lkctl := Tab.put x.lkctl w (BitVec.ofNat 64 (putBits k 47 32 cur)) }
      if cur = 0 then s1.unpin die w else s1)

end Sys2Proof.Machine
end

