-- ==== Sys2Proof/Machine/Home.lean ====
section
/-!
DEFINITION. What happens to a request after its issue: performed at its home in stamp order (12 R236 to R239) with the sectors that its response fills
(11 R212 to R214), at a window, a control block or a port (06 R120, 16 R301, R310, 21 R370), and its return or acknowledgement (02 R28, 12 R230,
13 R256). Reads and writes of engines, distributors and ordering points.
-/

namespace Sys2Proof.Machine

/-! At a home. -/

/-- Replace a request by its performed form, at the end of the list: after it in time come those performed later. -/
def State.markPerformed (s : State) (r : Req) : State := { s with reqs := s.reqs.filter (fun q => q.id != r.id) ++ [{ r with performed := true }] }

/-- A home has applied a write: its frontier for the source and its applied stamp rise (R238, R239); .unp and .nord leave the stamp (R241). -/
def State.applied (s : State) (home src : Nat) (num : Option (BitVec 24)) (v : Tab (BitVec 24)) (stamped : Bool) : State :=
  let x := s.die home
  s.setDie home { x with
    front := match num with | some n => Tab.set 0 x.front src (serialMax (Tab.get 0 x.front src) n) | none => x.front,
    mst := if stamped then stampMax x.mst v else x.mst }

/-- Stores not yet performed that satisfy `p`, put into the bytes of a sector in issue order. -/
def State.overlay (s : State) (sec : Nat) (p : Req → Bool) (x : Sector) : Sector :=
  s.reqs.foldl (fun x q => if p q && q.isStore && !q.performed && q.sector == sec then x.write (q.pa % 256) (valBytes q.width q.data) else x) x
/-- An atomic not yet performed that satisfies `p` has dropped the sector. -/
def State.atomicOut (s : State) (sec : Nat) (p : Req → Bool) : Bool := s.reqs.any (fun q => p q && q.isAtomic && !q.performed && q.sector == sec)

/-- What a response leaves in a cache on its path: its sector, with the stores that satisfy `p` and went past it meanwhile. None when an acquire let go of
the fill, when an atomic has dropped the sector, or where the world reserves no way on the die (R212 to R214, 12 R239, 23 R387). -/
def State.filling (s : State) (r : Req) (p : Req → Bool) : Option Sector :=
  match r.fill with
  | none => none
  | some f => if s.atomicOut r.sector p || !s.mayCopy r.src r.lpa r.world then none else some (s.overlay r.sector p { f with bytes := s.sectorBytes r.lpa })
/-- The response of a load fills the core's L1 and the die's copy (R212 to R214, R250). Where it leaves nothing it leaves no older sector either: the group's
next load of the class would find one (12 R235). -/
def State.fillFrom (s : State) (h : Nat) (r : Req) : State :=
  let cid := coreOf (r.gid % 2 ^ 20)
  let core (q : Req) : Bool := q.src == r.src && coreOf (q.gid % 2 ^ 20) == cid
  let s := if r.path == .ca then
      (match s.filling r core with
       | some x => s.fillL1 cid r.sector x
       | none => s.setCore cid { s.core cid with l1d := Tab.erase (s.core cid).l1d r.sector })
    else s
  if r.path != .vg && h != r.src && decide (r.src < 32) then
    (match s.filling r (fun q => q.src == r.src) with
     | some x => s.fillL2 r.src r.sector x
     | none => s.setDie r.src ((s.die r.src).dropCopy r.sector))
  else s

/-- The path of a request without allocation in the L2 (R216, R217). -/
def Req.grains (r : Req) : Bool := r.path == .vg

/-- A load is bound at its home. A .vg prefetch fills the memory-side cache (13 R264). -/
def State.homeLoad (s : State) (h : Nat) (r : Req) : State :=
  let s := if r.isPref && r.grains then s.reachMsc h r.lpa true false else if r.follows then s else s.touchHome h r.lpa r.grains false
  (s.fillFrom h r).markPerformed { r with result := r.members.map (fun m => (m.lane, valOf (s.bytesAt r.lpa r.width))), mst := some (s.die h).mst }

/-- A store is applied at its home. -/
def State.homeWrite (s : State) (h : Nat) (r : Req) : State :=
  let bs := valBytes r.width r.data
  let s := if r.follows then (s.storeBytes r.lpa bs).sealSector r.lpa else s.homeStore h r.lpa bs r.grains
  (s.applied h r.src r.num r.stamp r.stamped).markPerformed r

/-- An atomic is performed at its home (13 R253, R258). -/
def State.homeAtomic (s : State) (h : Nat) (r : Req) (op : AtomOp) (ty : Ty) : State :=
  let (res, v, wrote) := atomBatch op ty r.width r.members (s.numAt r.lpa r.width) false
  let s := if wrote then s.homeStore h r.lpa (bytesLE r.width v) false else s.touchHome h r.lpa false false
  let s := s.applied h r.src r.num r.stamp (r.stamped && wrote)
  s.markPerformed { r with result := res, mst := some (s.die h).mst }

/-- A sector goes from the L2 to the memory-side cache, a sealed one as ciphertext with its tag (R214, 23 R387). -/
def State.cleanL2 (s : State) (h lpa : Nat) : State :=
  let sec := lpa / 256
  let s := match s.sealedAt lpa with
    | some w => if s.openedAt lpa then s.storeBytes (tagAddr lpa) (s.tagOf w lpa) else s
    | none => s
  let hbm := decide (lpa < 0x020000000000)
  let s := if hbm then (s.locketHit h lpa).takeMsc h sec else s
  let x := s.die h
  s.setDie h { x with l2dirty := Tab.set false x.l2dirty sec false, mscdirty := if hbm then Tab.set false x.mscdirty sec true else x.mscdirty }

/-- A CWB cleans the home sector, and with .sys the MSC line (13 R266). -/
def State.homeCwb (s : State) (h : Nat) (r : Req) (toHbm : Bool) : State :=
  let sec := r.lpa / 256
  let s := if Tab.get false (s.die h).l2dirty sec then s.cleanL2 h r.lpa else s
  let s := if toHbm && Tab.get false (s.die h).mscdirty sec then
      ((s.locketHit h r.lpa).activate h r.lpa).setDie h { ((s.locketHit h r.lpa).activate h r.lpa).die h with mscdirty := Tab.set false (s.die h).mscdirty sec false }
    else s
  s.markPerformed r

/-- The home refuses a request (R222, 23 R378, R384, R388, 18 R333): its number counts as applied, the group learns why, and a tag that does not match
halts the world. -/
def State.homeReject (s : State) (h : Nat) (r : Req) (cause : Nat) : State :=
  let s1 := s.applied h r.src r.num [] false
  if cause = cIntegrity then (s1.settle r).integrityMet r r.pa else s1.reject r cause (s.errSrc h r.lpa)

/-- A request at its home. -/
def State.atHome (s : State) (h : Nat) (r : Req) : State :=
  match s.homeRefuses h r.lpa r.level r.asid r.gen r.world (r.isLoad || r.isAtomic) with
  | some cause => s.homeReject h r cause
  | none =>
    match r.op with
    | .load => s.homeLoad h r
    | .store => s.homeWrite h r
    | .atomic op ty => s.homeAtomic h r op ty
    | .cwb toHbm => s.homeCwb h r toHbm

/-! At windows, control blocks and ports. -/

/-- Every member's result is the same bytes. -/
def Req.answer (r : Req) (bs : List Byte) : Req := { r with result := r.members.map (fun m => (m.lane, valOf bs)) }

/-- Where bytes of a die's slice hold an error, as an SRC code: 6 in a scratchpad row, 5 in an accumulator row, 0 nowhere (18 R333). -/
def State.winError (s : State) (d off n : Nat) : Nat :=
  match coreSlice d off with
  | some (cid, o) =>
    if inSpadWin o && (s.core cid).spadBad (o - 0x100000) n then 6
    else if inAccWin o && Tab.get false (Tab.get Tile.reset (s.core cid).tiles ((o - 0x140000) / 4096)).bad ((o - 0x140000) % 4096 / 128) then 5
    else 0
  | none => 0

/-- A group's window access arrives (R120, 13 R252), in the generation of its space (R119). -/
def State.atWindow (s : State) (d : Nat) (r : Req) : State :=
  let off := (r.pa - 0x0F0000000000) % 2 ^ 32
  let w : Who := { gid := r.gid, level := r.level, vdev := r.vdev, ctxid := r.ctxid, world := r.world, engine := false }
  if r.gen ≠ (s.space r.asid.toNat).gen then s.reject r cGenStale 0
  else if r.isLoad && s.winError d off r.width != 0 then s.reject r cMachineCheck (s.winError d off r.width)
  else if r.isLoad then
    let (bs, s) := s.winLoad d off r.width
    s.markPerformed (r.answer bs)
  else (s.winStore w d off (valBytes r.width r.data)).markPerformed r

/-- A core's access to a control block arrives (16 R317, R401). -/
def State.atCtl (s : State) (io : Nat) (r : Req) : State :=
  let o := (r.pa - 0x0EFF00000000) % 0x80000000
  let w : Who := { gid := r.gid, level := r.level, vdev := r.vdev, ctxid := r.ctxid, world := r.world, engine := false }
  if r.isLoad then s.markPerformed (r.answer (s.ioBytes io o r.width))
  else (s.ioStore w io o (valBytes r.width r.data)).markPerformed r

/-- The port's device is removed, or the port is contained (16 R299, R311). -/
def State.portGone (s : State) (port : Nat) : Bool := Tab.get false (s.io (ioOfPort port)).removed port || Tab.get false (s.io (ioOfPort port)).contained port
/-- A function answers at an address of a port's window (16 R300): on bus 0 of its ECAM the root ports of the link themselves, which are devices 0 to 3 of
a bifurcated link (R299), elsewhere the functions behind the port. -/
def State.answers (s : State) (port pa : Nat) : Bool :=
  let o := (pa - 0x0C0000000000) % 2 ^ 36
  if o < 2 ^ 20 then decide (o / 2 ^ 15 < Tab.get 1 (s.io (ioOfPort port)).split port) && o / 2 ^ 12 % 8 == 0
  else !s.portGone port && Config.responds port pa

/-- A store to the configuration space of a port's root ports: it may bifurcate the link, turn ACS source validation on or off, and trigger or end
downstream port containment; which store does what is PCI Express's (16 R299, assumption 96). -/
def State.configure (s : State) (port o v : Nat) : State :=
  let x := s.io (ioOfPort port)
  let n := 2 ^ (Config.rootPorts o v (Tab.get 1 x.split port) % 3)
  s.setIo (ioOfPort port) { x with
    split := Tab.set 1 x.split port n, acs := Tab.set none x.acs port (Config.sourceBuses o v (Tab.get none x.acs port)),
    contained := Tab.set false x.contained port (Config.contains o v (Tab.get false x.contained port)) }

/-- A write at an address of a port's window: it goes out on the link, or to the root ports themselves; with no responding function it is discarded and
logged (16 R299, R300). -/
def State.toPort (s : State) (port pa : Nat) (bs : List Byte) : State :=
  let o := (pa - 0x0C0000000000) % 2 ^ 36
  if !s.answers port pa then s.rperr port 3 (pa % 2 ^ 32)
  else if o < 2 ^ 20 then s.configure port o (ofBytesLE bs)
  else s.send port 0 8 (bytesLE 8 pa ++ bs)

/-- An access to a PCIe window leaves the root port (16 R300, R301). A load's data comes with its completion. -/
def State.atPort (s : State) (port : Nat) (r : Req) : State :=
  if r.isLoad then s.markPerformed r else (s.toPort port r.pa (valBytes r.width r.data)).markPerformed r

/-- A Bezel store becomes a posted write to its target, or is discarded and logged (16 R309 to R311, R316). -/
def State.atBezel (s : State) (page : Nat) (r : Req) : State :=
  if r.isLoad then s.markPerformed (r.answer (List.replicate r.width 0))
  else if 65536 ≤ page then s.markPerformed r
  else
    let io := if page < 32768 then 32 else 33
    let i := page % 32768
    let e := (Tab.get 0 (s.io io).bzb i).toNat
    let t := (Tab.get 0 (s.io io).bzt i).toNat
    let port := (t - 0x0C0000000000) / 2 ^ 36
    let bad := decide (t < 0x0C0000000000) || decide (0x0E0000000000 ≤ t) || ioOfPort port != io || t % 4096 != 0
    let reason := if !bitAt e 63 then 1 else if bitsOf e 23 16 != r.vdev.toNat then 2 else if bad then 3 else if s.portGone port then 4 else 0
    (if reason ≠ 0 then s.bezerr io reason i r.data.toNat else s.toPort port (t + r.pa % 4096) (valBytes r.width r.data)).markPerformed r

/-- A range without a device: reads bring 0xFF, writes are discarded, the root port logs it (R205, R300). -/
def State.atNowhere (s : State) (port : Nat) (r : Req) : State :=
  let s := s.rperr port 3 (r.pa % 2 ^ 32)
  if r.returns then s.markPerformed (r.answer (List.replicate r.width 0xFF)) else s.markPerformed r

/-- What a remote write carries (R370): window, peer, generation, the port's partition, the issuing group, the offset, and the bytes. -/
def State.remoteData (s : State) (port : Nat) (e : Nat) (r : Req) : List Byte :=
  bytesLE 2 (bitsOf e 51 40) ++ bytesLE 1 (bitsOf e 39 32) ++ bytesLE 2 (bitsOf e 31 22) ++
  bytesLE 1 (bitsOf (Tab.get 0 (s.io (ioOfPort port)).rhcfg (port % 16)).toNat 47 40) ++ bytesLE 4 r.gid ++ bytesLE 4 (r.pa % 2 ^ 24) ++ valBytes r.width r.data

/-- A store through a remote window is sent; a load brings 0xFF and is logged (21 R370). -/
def State.atRemote (s : State) (port : Nat) (r : Req) : State :=
  if r.isLoad then (s.rperr port 3 (r.pa % 2 ^ 32)).markPerformed (r.answer (List.replicate r.width 0xFF))
  else
    let o := (r.pa - 0x0C0000000000) % 2 ^ 36
    let e := Tab.get 0 (s.io (ioOfPort port)).rout (bitsOf o 35 24)
    if e.getLsbD 63 then (s.send port 0 11 (s.remoteData port e.toNat r)).markPerformed r
    else (s.rperr port 3 (r.pa % 2 ^ 32)).dropReq r.id

/-- A request travels to its target, with its stamp unless its use carries none (R241), and is performed there; the response to a read carries the home's
stamp back (R239, 21 R362). -/
def State.perform (s : State) (r : Req) : State :=
  let s := if r.stamped then s.carried r.src r.tgt.die r.stamp else s.travels r.src r.tgt.die
  match r.tgt with
  | .mem h => let t := s.atHome h r; if r.returns then t.carried h r.src (t.die h).mst else t
  | .window d => s.atWindow d r
  | .ctl io => s.atCtl io r
  | .pcie p => s.atPort p r
  | .bezel p => s.atBezel p r
  | .remote p => s.atRemote p r
  | .nowhere p => s.atNowhere p r

def State.req? (s : State) (id : Nat) : Option Req := s.reqs.find? (fun r => r.id == id)

/-- The accesses that a block's request carries are performed with it, as far as nothing stands before them (R217). -/
def State.performBlock (s : State) (r : Req) : State :=
  (s.reqs.filter (fun q => q.follows && r.leads q)).foldl (fun s q => if s.performable q then s.perform q else s) (s.perform r)

/-- HOME_PERFORM, R238: the request is performed once nothing stands before it. -/
def execHomePerform (id : Nat) (s : State) : Host.Outcome State Fault Refusal :=
  match s.req? id with
  | some r => .next (if s.performable r then s.performBlock r else s)
  | none => .next s

/-- BEZEL_STORE, 16 R310: a store held by the load-store unit leaves. -/
def execBezelStore (id : Nat) (s : State) : Host.Outcome State Fault Refusal :=
  match s.req? id with
  | some r =>
    match r.tgt with
    | .bezel p => .next (if s.performable r then s.atBezel p r else s)
    | _ => .next s
  | none => .next s

/-! Returns. -/

/-- A home's applied stamp comes back with a response and merges into K, unless the request's use excepts it (R239, R241). -/
def State.mergeBack (s : State) (r : Req) : State :=
  match r.mst with
  | some m => if r.stamped then s.mergeStamp r.src m else s
  | none => s
/-- The lanes take a result. On a system core that left the request's world meanwhile, the registers that Signet holds of that world take it (23 R381,
assumption 14). -/
def State.deliver (s : State) (r : Req) : State :=
  if isSystem r.gid && (s.group r.gid).world != r.world then
    { s with hosts := s.hosts.map (fun h => if h.core == coreOf r.gid && h.g.world == r.world then { h with g := h.g.deliver r } else h) }
  else s.setGroup r.gid ((s.group r.gid).deliver r)
/-- Data comes back: K merges, the acquire acts, the lanes take their values, the register becomes full (02 R28, 12 R232, R239). -/
def State.finish (s : State) (r : Req) : State :=
  let s := s.mergeBack r
  let s := if r.ord == .acq || r.ord == .ar then s.acquire r.gid r.scope else s
  (s.deliver r).settle r

/-- A load of a PCIe window ends with 0xFF, and RPERR takes the reason (16 R301). -/
def State.finishNone (s : State) (port reason : Nat) (r : Req) : State := (s.rperr port reason (r.pa % 2 ^ 32)).finish (r.answer (List.replicate r.width 0xFF))

/-- LOAD_RETURN. `dev` is what the endpoint answers to a load from a PCIe window; without data, or where no function answers, it is 0xFF, with reason 1 or 3
in RPERR (16 R300, R301). -/
def execLoadReturn (id : Nat) (dev : Option (BitVec 128)) (s : State) : Host.Outcome State Fault Refusal :=
  match s.req? id with
  | some r =>
    if r.isLoad && r.performed && decide (r.pa ≤ 2 ^ 64) then
      match r.tgt with
      | .pcie p =>
        .next (if !s.answers p r.pa then (s.travels r.tgt.die r.src).finishNone p 3 r
          else match dev with
            | some v => (s.travels r.tgt.die r.src).finish (r.answer (valBytes r.width v))
            | none => (s.travels r.tgt.die r.src).finishNone p 1 r)
      | .mem _ => .next (s.finish r)
      | _ => .next ((s.travels r.tgt.die r.src).finish r)
    else .next s
  | none => .next s

/-- COMPLETION_TIMEOUT: 2^23 cycles after its issue a load without completion brings 0xFF, and RPERR takes reason 2 (16 R301). -/
def execCompletionTimeout (id : Nat) (s : State) : Host.Outcome State Fault Refusal :=
  match s.req? id with
  | some r =>
    match r.tgt with
    | .pcie p => .next (if r.isLoad && r.performed && decide (r.since + 2 ^ 23 ≤ s.cycles) then s.finishNone p 2 r else s)
    | _ => .next s
  | none => .next s

/-- An acknowledgement comes back over the reverse route: the store, the CWB or the posted atomic is performed at every scope (12 R230, 13 R256, 21 R363). -/
def State.acked (s : State) (r : Req) : State :=
  match r.tgt with
  | .remote _ => s
  | _ =>
    if r.performed && !r.returns then
      let s := s.travels r.tgt.die r.src
      if r.isAtomic && decide (r.gid < 2 ^ 20) then s.finish r else s.dropReq r.id
    else s

/-- STORE_ACK. -/
def execStoreAck (id : Nat) (s : State) : Host.Outcome State Fault Refusal :=
  match s.req? id with
  | some r => .next (s.acked r)
  | none => .next s

/-- ATOMIC_RETURN, 13 R256. -/
def execAtomicReturn (id : Nat) (s : State) : Host.Outcome State Fault Refusal :=
  match s.req? id with
  | some r => .next (if r.isAtomic && r.performed && r.returns then s.finish r else s)
  | none => .next s

/-- QNT_APPLY: a .qnt atomic goes to be applied: it takes its number and the die's stamp now (12 R237, R242), unless the die's counter has run too far ahead
of a home (R237). -/
def execQntApply (id : Nat) (s : State) : Host.Outcome State Fault Refusal :=
  match s.req? id with
  | some r =>
    if r.use == .qnt && r.num.isNone && !r.performed && !s.farAheadBy r.src 1 then
      let (n, s1) := s.nextNum r.src
      .next { s1 with reqs := s1.reqs.map (fun q => if q.id = id then { q with num := some n, stamp := s1.kvec r.src } else q) }
    else .next s
  | none => .next s

/-- STAMP_ANNOUNCEMENT: a message that carries only the source's stamp (21 R363), from which a home learns how far the source has come: up to its first write
to the home that is not applied (R238). -/
def execStampAnnouncement (src dst : Nat) (s : State) : Host.Outcome State Fault Refusal :=
  if !s.reaches src dst then .next s else
  let s := s.carried src dst (s.kvec src)
  let k := Tab.get 0 (s.kvec src) src
  let m := s.unapplied.foldl (fun a u => if u.1 == src && u.2.1 == dst && serialGe a u.2.2 then u.2.2 - 1 else a) k
  .next (s.setDie dst { s.die dst with front := Tab.set 0 (s.die dst).front src (serialMax (Tab.get 0 (s.die dst).front src) m) })

/-- REMOTE_WRITE_ACK: the peer has retired the write, or rejected it: REMOTE_REVOKED as a deferred report (21 R370). -/
def execRemoteWriteAck (id : Nat) (ok : Bool) (s : State) : Host.Outcome State Fault Refusal :=
  match s.req? id with
  | some r =>
    match r.tgt with
    | .remote _ => .next (if !r.performed then s else if ok then s.dropReq id else s.reject r cRemote 0)
    | _ => .next s
  | none => .next s

/-! Reads and writes of engines, distributors and ordering points. -/

/-- Bytes of memory by their physical names, as a die decodes them. -/
def State.memBytes (s : State) (pool pa n : Nat) : List Byte :=
  (List.range n).map (fun i => if cxlHole (pa + i) then 0xFF else s.byteAt (localOf pool (pa + i)))

/-- Every numbered write that the stamp of a die covers has been applied at its home, other homes' own writes apart: an agent of the die may read and write
at once, and its writes come behind the die's earlier ones in number order (R238). What the announcements of the counters would bring is taken as known. -/
def State.settled (s : State) (d : Nat) : Bool :=
  let k := s.kvec d
  s.unapplied.all (fun u => (u.1 == u.2.1 && u.1 != d) || !serialGe (Tab.get 0 k u.1) u.2.2)

/-- Bytes of one sector are written at a place of their home as write `num` of a die; the die's copy takes them (R214, R237, R238). -/
def State.agentWriteAt (s : State) (src : Nat) (num : BitVec 24) (h l pa : Nat) (bs : List Byte) : State :=
  let s := (((s.carried src h (s.kvec src)).homeStore h l bs false).applied h src (some num) (s.kvec src) true).travels h src
  if src < 32 then s.setDie src ((s.die src).writeCopy (pa / 256) (pa % 256) bs) else s

/-- An agent of a die reads memory, sector by sector. -/
def State.agentReadAll (s : State) (src pool : Nat) : List (Nat × Nat) → List Byte × State
  | [] => ([], s)
  | p :: ps =>
    let a := s.agentReadSec src pool p.1 p.2
    let b := a.2.agentReadAll src pool ps
    (a.1 ++ b.1, b.2)
def State.agentRead (s : State) (src pool pa n : Nat) : List Byte × State := s.agentReadAll src pool (pieces 256 pa n)

/-- Bytes of one sector are written as write `num` of a die. -/
def State.agentWriteSec (s : State) (src : Nat) (num : BitVec 24) (pool pa : Nat) (bs : List Byte) : State :=
  if cxlHole pa then s.logHole pa
  else
    let (l, tgt, s) := s.placeOf pool pa
    match tgt with
    | .mem h => s.agentWriteAt src num h l pa bs
    | _ => s

/-- The bytes of a write, sector by sector. -/
def State.agentWriteAll (s : State) (src : Nat) (num : BitVec 24) (pool : Nat) : List (Nat × Nat) → List Byte → State
  | [], _ => s
  | p :: ps, bs => (s.agentWriteSec src num pool p.1 (bs.take p.2)).agentWriteAll src num pool ps (bs.drop p.2)
/-- An agent of a die writes memory as the write of a number already taken. -/
def State.agentWriteAs (s : State) (src : Nat) (num : BitVec 24) (pool pa : Nat) (bs : List Byte) : State :=
  s.agentWriteAll src num pool (pieces 256 pa bs.length) bs
/-- An agent of a die writes memory: one write, with the next number. -/
def State.agentWrite (s : State) (src pool pa : Nat) (bs : List Byte) : State :=
  let (n, s) := s.nextNum src
  s.agentWriteAs src n pool pa bs

end Sys2Proof.Machine
end

