-- ==== Sys2Proof/Machine/Engines.lean ====
section
/-!
DEFINITION. Engine accesses (15 R275, R279, R294, R298), entries and what makes one malformed (R277, R278), promises (R284, R285), the decision of
a batch (R282), what an entry does (R279), its start, completion, miss and abort (R286 to R298).
-/

namespace Sys2Proof.Machine

/-! Fields. -/

def entOp (w0 : Nat) : Nat := w0 % 256
def entCb (w0 : Nat) : Bool := bitAt w0 8
def entW (w0 : Nat) : Bool := bitAt w0 9
def entD (w0 : Nat) : Bool := bitAt w0 11
def entDdl (w0 : Nat) : Nat := bitsOf w0 63 32

def qEng (q : Queue) : Nat := bitsOf q.qctl.toNat 9 8
def qVdev (q : Queue) : Nat := bitsOf q.qctl.toNat 23 16
def qAsid (q : Queue) : Nat := bitsOf q.qctl.toNat 35 24
def qHalt (q : Queue) : Bool := q.qstat.getLsbD 0

/-- Bytes of a value of a type. -/
def tyBytes (t : Ty) : Nat := if t.isFloat then t.fmt.w / 8 else t.intWidth / 8

/-- The type of a code of R44. -/
def tyOfCode (c : Nat) : Ty := (Ty.ofCode c).getD .dflt

/-- The declared tiles among some bytes of word 7. -/
def declared (w7 : Nat) (bytes : List Nat) : List Nat :=
  bytes.filterMap (fun k => let b := w7 / 2 ^ (8 * k) % 256; if 128 ≤ b then some (b - 128) else none)
def Entry.inputs (e : Entry) : List Nat := if entD (e.w 0) then declared (e.w 7) [0, 1, 2, 3] else []
def outputsOf (ws : List Nat) : List Nat := if entD (ws.getD 0 0) then declared (ws.getD 7 0) [4, 5] else []
def Entry.outputs (e : Entry) : List Nat := outputsOf (e.words.map BitVec.toNat)

/-! Malformed entries, R277, R278. -/

def al16 (x : Nat) : Bool := x % 16 == 0
def kindsOk (w6 : Nat) : Bool := w6 / 256 == 0 && decide (bitsOf w6 7 4 ≤ 1) && decide (bitsOf w6 3 0 ≤ 1)

/-- The entry is well formed for an engine. -/
def entryOk (eng : Nat) (ws : List Nat) : Bool :=
  let w := fun i => ws.getD i 0
  let head := bitsOf (w 0) 31 24 == 0 && bitsOf (w 0) 15 12 == 0 && w 1 % 64 == 0 &&
    (if entD (w 0) then w 7 / 2 ^ 48 == 0 else w 7 == 0)
  head &&
  (match entOp (w 0) with
   | 0 => w 2 == 0 && w 3 == 0 && w 4 == 0 && w 5 == 0 && w 6 == 0
   | 1 =>
     let rows := bitsOf (w 4) 63 32
     let rowb := bitsOf (w 4) 31 0
     eng == 0 && al16 (w 2) && al16 (w 3) && decide (1 ≤ rows) && decide (rows ≤ 65536) && decide (16 ≤ rowb) && decide (rowb ≤ 2 ^ 24) && al16 rowb &&
     al16 (bitsOf (w 5) 63 32) && al16 (bitsOf (w 5) 31 0) && kindsOk (w 6)
   | 2 | 3 =>
     let n := bitsOf (w 5) 63 32
     let sz := bitsOf (w 5) 31 0
     eng == 1 && al16 (w 2) && al16 (w 3) && al16 (w 4) && decide (1 ≤ n) && decide (n ≤ 65536) && decide (16 ≤ sz) && decide (sz ≤ 4096) && al16 sz && kindsOk (w 6)
   | 4 =>
     let n := bitsOf (w 4) 31 0
     let ty := bitsOf (w 4) 35 32
     eng == 2 && al16 (w 2) && al16 (w 3) && w 4 / 2 ^ 40 == 0 && decide (bitsOf (w 4) 39 36 ≤ 2) &&
     (ty == 5 || ty == 6 || ty == 10 || ty == 11 || ty == 12) && decide (1 ≤ n) && decide (n ≤ 2 ^ 22) && decide (n * tyBytes (tyOfCode ty) ≤ 2 ^ 24) &&
     w 5 == 0 && kindsOk (w 6)
   | 5 =>
     let n := bitsOf (w 4) 31 0
     let st := bitsOf (w 4) 35 32
     let dt := bitsOf (w 4) 39 36
     let rn := Rnd.ofCode (bitsOf (w 4) 42 40)
     eng == 3 && al16 (w 2) && al16 (w 3) && w 4 / 2 ^ 44 == 0 && rn != .rsr && rn != .dyn && (st == 5 || (decide (9 ≤ st) && decide (st ≤ 14))) &&
     (dt == 1 || dt == 2 || (decide (9 ≤ dt) && decide (dt ≤ 14))) && decide (1 ≤ n) && decide (n ≤ 2 ^ 22) &&
     decide (n * max (tyBytes (tyOfCode st)) (tyBytes (tyOfCode dt)) ≤ 2 ^ 24) && w 5 / 2 ^ 32 == 0 && kindsOk (w 6)
   | _ => false)

/-! Engine accesses. -/

/-- Who an engine works for: its core, the queue's space with the generation its accesses carry, the handing group's level, context and world; `own` when
it is the core's own engine, whose writes update the core's L1. -/
structure Agent where
  cid : Nat
  q : Nat
  asid : Nat
  gen : BitVec 10
  level : Nat
  vdev : BitVec 8
  ctxid : BitVec 16
  world : BitVec 12
  own : Bool
  deriving DecidableEq, Repr
def Agent.die (a : Agent) : Nat := coreDie a.cid
def Agent.who (a : Agent) : Who := { gid := a.cid * 32, level := a.level, vdev := a.vdev, ctxid := a.ctxid, world := a.world, engine := true }

/-- A fault of an access: its cause and the faulting address; cause 0 stands for an access that must wait for a write before it (12 R236, R238). -/
abbrev EngErr := Nat × Nat

/-- What a refused read through the die's L2 for an agent leaves: an error is recorded at the home die's core 0 (18 R333), a tag that does not match halts
the world (23 R388). -/
def State.lookRefused (s : State) (a : Agent) (pa cause : Nat) : State :=
  let pool := s.pool a.die
  if cause = cMachineCheck then s.mclog (homeOf pool pa * 64) (s.readSrc a.die pa a.world) (localOf pool pa)
  else if cause = cIntegrity then s.haltWorld a.world (BitVec.ofNat 64 pa)
  else s

/-- The leaf of an address under an agent's space and level (R275), walked through the die's L2 (11 R204). -/
def State.engLeaf (s : State) (a : Agent) (va : Nat) (acc : Acc) : Except (Nat × State) (Nat × Bool × State) :=
  if 2 ^ 56 ≤ va then .error (cPageFault, s)
  else
    let r := s.walk a.die { asid := BitVec.ofNat 12 a.asid, page := va / 4096, level := a.level, world := a.world, gen := a.gen, waiters := [], fromRoot := false }
    match r.1 with
    | .wait => .error (0, s)
    | .fault c at_ => .error (c, r.2.2.lookRefused a at_ c)
    | .leaf e => if grants e.leaf.toNat acc a.level then .ok (ptePfn e.leaf.toNat + (va - e.vbase), pteMt e.leaf.toNat == 1, r.2.2) else .error (cPermission, r.2.2)

/-- The physical address of a piece within one page: memory, granted by its leaf (R298). A spread address beyond the pool reaches some byte (11 R206). -/
def State.engPiece (s : State) (a : Agent) (va : Nat) (acc : Acc) : Except (EngErr × State) (Nat × State) :=
  match s.engLeaf a va acc with
  | .error (c, t) => .error ((c, va), t)
  | .ok (pa, dev, s1) =>
    let pool := s.pool a.die
    if dev || !((regionOf pool pa).memory || beyondPool pool pa) then .error ((cPermission, va), s1) else .ok (pa, s1)

/-- What a refusal of an engine's access leaves: an error is recorded at the home die's core 0 (18 R333), a tag that does not match halts the world (23 R388). -/
def State.engRefused (s : State) (a : Agent) (h l pa cause : Nat) : State :=
  if cause = cMachineCheck then s.mclog (h * 64) (s.errSrc h l) l
  else if cause = cIntegrity then s.haltWorld a.world (BitVec.ofNat 64 pa)
  else s

/-- An engine reads physical memory sector by sector, checked by its homes (11 R222, 23 R378, R384). -/
def State.engReadPa (s : State) (a : Agent) (va pa : Nat) : List (Nat × Nat) → Except (EngErr × State) (List Byte × State)
  | [] => .ok ([], s)
  | (p, n) :: r =>
    if cxlHole p then
      match (s.logHole p).engReadPa a va pa r with
      | .ok (bs, s2) => .ok (List.replicate n 0xFF ++ bs, s2)
      | .error e => .error e
    else
      let (l, tgt, s) := s.placeOf (s.pool a.die) p
      match tgt with
      | .mem h =>
        match s.homeRefuses h l a.level (BitVec.ofNat 12 a.asid) a.gen a.world true with
        | some c => .error ((c, va + (p - pa)), s.engRefused a h l p c)
        | none =>
          let (bs, s1) := s.agentReadAt a.die h l n
          match s1.engReadPa a va pa r with
          | .ok (bs2, s2) => .ok (bs ++ bs2, s2)
          | .error e => .error e
      | _ => .error ((cPermission, va), s)

/-- An engine reads virtual memory. -/
def State.engReadMem (s : State) (a : Agent) : List (Nat × Nat) → Except (EngErr × State) (List Byte × State)
  | [] => .ok ([], s)
  | (va, n) :: r =>
    match s.engPiece a va .load with
    | .error e => .error e
    | .ok (pa, s0) =>
      match s0.engReadPa a va pa (pieces 256 pa n) with
      | .error e => .error e
      | .ok (bs, s1) =>
        match s1.engReadMem a r with
        | .ok (bs2, s2) => .ok (bs ++ bs2, s2)
        | .error e => .error e

/-- An engine writes physical memory sector by sector as write `num` of its die. A core's own engine updates the core's L1, as the core's stores do: CQWAIT
at core scope keeps the L1 (12 R232, R245). -/
def State.engWritePa (s : State) (a : Agent) (num : BitVec 24) (va pa : Nat) : List (Nat × Nat) → List Byte → Except (EngErr × State) State
  | [], _ => .ok s
  | (p, n) :: r, bs =>
    if cxlHole p then (s.logHole p).engWritePa a num va pa r (bs.drop n)
    else
      let (l, tgt, s) := s.placeOf (s.pool a.die) p
      match tgt with
      | .mem h =>
        match s.homeRefuses h l a.level (BitVec.ofNat 12 a.asid) a.gen a.world false with
        | some c => .error ((c, va + (p - pa)), s.engRefused a h l p c)
        | none =>
          let s1 := s.agentWriteAt a.die num h l p (bs.take n)
          let s2 := if a.own then
              s1.setCore a.cid { s1.core a.cid with l1d := writeSector (s1.core a.cid).l1d (p / 256) (p % 256) (bs.take n) }
            else s1
          s2.engWritePa a num va pa r (bs.drop n)
      | _ => .error ((cPermission, va), s)

/-- An engine writes virtual memory as write `num` of its die. -/
def State.engWriteMem (s : State) (a : Agent) (num : BitVec 24) : List (Nat × Nat) → List Byte → Except (EngErr × State) State
  | [], _ => .ok s
  | (va, n) :: r, bs =>
    match s.engPiece a va .store with
    | .error e => .error e
    | .ok (pa, s0) =>
      match s0.engWritePa a num va pa (pieces 256 pa n) (bs.take n) with
      | .error e => .error e
      | .ok s1 => s1.engWriteMem a num r (bs.drop n)

/-- DROPS counts a discarded write, up to its limit (R276, R294). -/
def State.countDrop (s : State) (cid q : Nat) : State :=
  let x := s.queue cid q
  let n := bitsOf x.qstat.toNat 47 32
  s.setQueue cid q { x with qstat := BitVec.ofNat 64 (putBits x.qstat.toNat 47 32 (min 0xFFFF (n + 1))) }

/-- An engine may not reach an offset of the on-chip map at its level: beyond the map, and control registers as for a group (R119, R208). -/
def State.engWinRefuses (s : State) (a : Agent) (ea : Nat) (write : Bool) : Bool :=
  decide (2 ^ 37 ≤ ea) ||
  (match coreSlice (ea / 2 ^ 32) (ea % 2 ^ 32) with
   | some (_, o) => write && decide (a.level < 2) && decide (0x181000 ≤ o) && decide (o < 0x182080)
   | none => s.winRefuses a.who ea write)

/-- An offset that comes from an index of GATHER or SCATTER lies in a core that the virtual device does not hold (R119, R278): the decision could not see it
(assumption 94). A core of another world is left to 23 R383. -/
def State.indexBars (s : State) (a : Agent) (idx : Bool) (ea : Nat) : Bool :=
  idx && (match coreSlice (ea / 2 ^ 32) (ea % 2 ^ 32) with | some (cid, _) => !s.holdsCore cid a.vdev && !s.otherWorld cid a.world | none => false)

/-- An engine reads the on-chip map. A core of another world gives nothing: the bytes are a free value (23 R383). -/
def State.engReadWin (s : State) (a : Agent) (idx : Bool) : List (Nat × Nat) → Except (EngErr × State) (List Byte × State)
  | [] => .ok ([], s)
  | (ea, n) :: r =>
    if s.engWinRefuses a ea false || s.indexBars a idx ea then .error ((cPermission, ea), s)
    else
      let d := ea / 2 ^ 32
      let off := ea % 2 ^ 32
      let other := match coreSlice d off with | some (cid, _) => s.otherWorld cid a.world | none => false
      let err := s.winError d off n
      if err ≠ 0 ∧ other = false then
        .error ((cMachineCheck, ea), s.mclog (d * 64) err ea)
      else
      let (bs, s1) :=
        if other then ((List.range n).map (fun i => ((Config.freeValue s.free) >>> (8 * (i % 8))).truncate 8), (s.countDrop a.cid a.q).draw)
        else s.winLoad d off n
      match s1.engReadWin a idx r with
      | .ok (bs2, s2) => .ok (bs ++ bs2, s2)
      | .error e => .error e

/-- An offset of the on-chip map lies in a core's register window. -/
def inRegs (ea : Nat) : Bool := match coreSlice (ea / 2 ^ 32) (ea % 2 ^ 32) with | some (_, o) => inRegWin o | none => false
/-- The running entry writes a register; its bytes for one register are one write (R294). -/
def State.noteReg (s : State) (cid q ea : Nat) : State :=
  let x := s.queue cid q
  if inRegs ea && !x.regs.contains (ea / 128) then s.setQueue cid q { x with regs := (ea / 128) :: x.regs } else s
/-- The write is one that DROPS has counted, being part of one write to a register. -/
def State.counted (s : State) (cid q ea : Nat) : Bool := inRegs ea && (s.queue cid q).regs.contains (ea / 128)

/-- The length of a row at an offset of the on-chip map: a scratchpad row, else a register or an accumulator row. -/
def rowBytes (ea : Nat) : Nat := if ea % 2 ^ 32 < 0x40000000 ∧ inSpadWin (ea % 2 ^ 24) then 16 else 128
/-- An engine writes the on-chip map; a discarded write counts in DROPS, once for a row (assumption 40). `more`: the bytes go on with the write before them. -/
def State.engWriteWin (s : State) (a : Agent) (idx more : Bool) : List (Nat × Nat) → List Byte → Except (EngErr × State) State
  | [], _ => .ok s
  | (ea, n) :: r, bs =>
    if s.engWinRefuses a ea true || s.indexBars a idx ea then .error ((cPermission, ea), s)
    else
      let d := ea / 2 ^ 32
      let off := ea % 2 ^ 32
      let s1 := if !s.winDiscards a.who d off then s.winStore a.who d off (bs.take n)
        else if s.counted a.cid a.q ea || (more && ea % rowBytes ea != 0) then s else s.countDrop a.cid a.q
      (s1.noteReg a.cid a.q ea).engWriteWin a idx more r (bs.drop n)

/-- The pieces of a range of the on-chip map: scratchpad rows of 16 bytes, elsewhere registers and accumulator rows of 128. -/
def winPieces (ea n : Nat) : List (Nat × Nat) := pieces (rowBytes ea) ea n

/-- An engine reads: kind 0 memory, kind 1 the on-chip map, kind 2 the on-chip map at a place that comes from an index. -/
def State.engRead (s : State) (a : Agent) (kind va n : Nat) : Except (EngErr × State) (List Byte × State) :=
  if kind ≠ 0 then s.engReadWin a (kind == 2) (winPieces va n) else s.engReadMem a (pieces 4096 va n)
/-- An engine writes; a write to memory takes the die's next number, or goes with the number just taken. -/
def State.engWrite (s : State) (a : Agent) (kind va : Nat) (bs : List Byte) (fresh : Bool) : Except (EngErr × State) State :=
  if kind ≠ 0 then s.engWriteWin a (kind == 2) (!fresh) (winPieces va bs.length) bs
  else
    let (n, s1) := if fresh then s.nextNum a.die else (Tab.get 0 (s.kvec a.die) a.die, s)
    s1.engWriteMem a n (pieces 4096 va bs.length) bs

/-! What an entry does, R279. -/

/-- The number of rows, indexes or elements. -/
def unitsOf (w : Nat → Nat) : Nat :=
  match entOp (w 0) with
  | 1 => bitsOf (w 4) 63 32
  | 2 | 3 => bitsOf (w 5) 63 32
  | 4 | 5 => bitsOf (w 4) 31 0
  | _ => 0

/-- An address is a 64-bit number. -/
def a64 (x : Nat) : Nat := x % 2 ^ 64

/-- One element of CONVERT: the exact product rounded once. -/
def convertOne (st dt : Ty) (rnd : Rnd) (sat : Bool) (scale x : Nat) : Nat :=
  let v : FV := if st.isFloat then st.fmt.decode x else FV.ofInt (st.readInt x)
  let p := (Term.mul v (Fmt.f32.decode scale)).v
  if dt.isFloat then (dt.fmt.write rnd sat 0 p).1 else (toIntTy dt rnd sat 0 p).1 % 2 ^ dt.intWidth

/-- Read, compute, write: one row, index or element. Sixty-four elements of REDUCE and CONVERT go out as one write (assumption 40). -/
def State.engUnit (s : State) (a : Agent) (w : Nat → Nat) (i : Nat) : Except (EngErr × State) State :=
  let sk := bitsOf (w 6) 3 0
  let dk := bitsOf (w 6) 7 4
  let byIndex (k : Nat) : Nat := if k = 1 then 2 else k
  let move (s : State) (sk dk from_ to_ n : Nat) : Except (EngErr × State) State :=
    match s.engRead a sk from_ n with
    | .error e => .error e
    | .ok (bs, s1) => s1.engWrite a dk to_ bs true
  match entOp (w 0) with
  | 1 => move s sk dk (a64 (w 2 + i * bitsOf (w 5) 31 0)) (a64 (w 3 + i * bitsOf (w 5) 63 32)) (bitsOf (w 4) 31 0)
  | 2 | 3 =>
    match s.engRead a 0 (a64 (w 4 + 4 * i)) 4 with
    | .error e => .error e
    | .ok (kb, s1) =>
      let k := ofBytesLE kb
      let n := bitsOf (w 5) 31 0
      if entOp (w 0) = 2 then move s1 (byIndex sk) dk (a64 (w 2 + k * n)) (a64 (w 3 + i * n)) n else move s1 sk (byIndex dk) (a64 (w 2 + i * n)) (a64 (w 3 + k * n)) n
  | 4 =>
    let t := tyOfCode (bitsOf (w 4) 35 32)
    let n := tyBytes t
    match s.engRead a dk (a64 (w 3 + i * n)) n with
    | .error e => .error e
    | .ok (db, s1) =>
      match s1.engRead a sk (a64 (w 2 + i * n)) n with
      | .error e => .error e
      | .ok (sb, s2) => s2.engWrite a dk (a64 (w 3 + i * n)) (bytesLE n (combine (bitsOf (w 4) 39 36) t (ofBytesLE db) (ofBytesLE sb)).1) (i % 64 == 0)
  | 5 =>
    let st := tyOfCode (bitsOf (w 4) 35 32)
    let dt := tyOfCode (bitsOf (w 4) 39 36)
    match s.engRead a sk (a64 (w 2 + i * tyBytes st)) (tyBytes st) with
    | .error e => .error e
    | .ok (sb, s1) =>
      s1.engWrite a dk (a64 (w 3 + i * tyBytes dt))
        (bytesLE (tyBytes dt) (convertOne st dt (Rnd.ofCode (bitsOf (w 4) 42 40)) (bitAt (w 4) 43) (bitsOf (w 5) 31 0) (ofBytesLE sb))) (i % 64 == 0)
  | _ => .ok s

/-- Where a unit's bytes go; the place of a SCATTER depends on its index. -/
def destOf (w : Nat → Nat) (i : Nat) : Option (Nat × Nat) :=
  match entOp (w 0) with
  | 1 => some (a64 (w 3 + i * bitsOf (w 5) 63 32), bitsOf (w 4) 31 0)
  | 2 => some (a64 (w 3 + i * bitsOf (w 5) 31 0), bitsOf (w 5) 31 0)
  | 4 => some (a64 (w 3 + i * tyBytes (tyOfCode (bitsOf (w 4) 35 32))), tyBytes (tyOfCode (bitsOf (w 4) 35 32)))
  | 5 => some (a64 (w 3 + i * tyBytes (tyOfCode (bitsOf (w 4) 39 36))), tyBytes (tyOfCode (bitsOf (w 4) 39 36)))
  | _ => none

/-- A unit of an entry that stopped before it would have brought bytes for a register. -/
def stillDue (w : Nat → Nat) (i key : Nat) : Bool :=
  (List.range (unitsOf w - i)).any (fun k => match destOf w (i + k) with
    | some (va, n) => decide (va / 128 ≤ key) && decide (key * 128 < va + n)
    | none => true)

/-- A register as it was: the write that was to bring all its bytes does not arrive. -/
def Group.regBack (g old : Group) (r : Nat) : Group :=
  (laneList.foldl (fun (g : Group) l => { g with
    v := Tab.set 0 g.v (r * 32 + l) (Tab.get 0 old.v (r * 32 + l)), tag := Tab.set 0 g.tag (r * 32 + l) (Tab.get 0 old.tag (r * 32 + l)),
    badReg := Tab.set false g.badReg (r * 32 + l) (Tab.get false old.badReg (r * 32 + l)) }) g).setEmpty r (old.isEmpty r)

/-- An entry stops at unit i: its one write to a register for which bytes are still due does not take place (R294, R298). -/
def State.undelivered (s : State) (a : Agent) (s0 : State) (w : Nat → Nat) (i : Nat) : State :=
  ((s.queue a.cid a.q).regs.filter (stillDue w i)).foldl (fun s key =>
    match coreSlice (key / 2 ^ 25) (key * 128 % 2 ^ 32) with
    | some (cid, o) =>
      let (gid, r, _) := regWinAt cid o
      if r < s.slotBound gid then s.setGroup gid ((s.group gid).regBack (s0.group gid) r) else s
    | none => s) s

/-- Units from i on, ascending; a fault stops the entry, what was written stays. -/
def State.engUnits (s : State) (a : Agent) (s0 : State) (w : Nat → Nat) (i : Nat) : Nat → Except (EngErr × State) State
  | 0 => .ok s
  | n + 1 =>
    match s.engUnit a w i with
    | .error (e, s1) => .error (e, s1.undelivered a s0 w i)
    | .ok s1 => s1.engUnits a s0 w (i + 1) n

/-! Promises. -/

/-- The allowance of R285 for a physical address. -/
def allowance (pool d pa : Nat) : Nat :=
  match regionOf pool pa with
  | .hbm h => 682 + 104 * hops d h
  | .spread => 1722
  | .cxl => 2400 + 104 * hops d (homeOf pool pa)
  | _ => 0

/-- A region of an entry: its kind, its pieces, how it is accessed; no pieces for one whose pages depend on the index values. -/
structure EngRegion where
  kind : Nat
  ranges : List (Nat × Nat)
  acc : List Acc
  fixed : Option Nat
  deriving DecidableEq, Repr

/-- The allowance of an indexed region: that of CXL memory ten hops away. -/
def indexedAllowance : Nat := 2400 + 104 * 10

/-- The regions of an entry (R282, R285). Of a region of the on-chip map whose places depend on index values the decision knows the base address alone
(assumption 94). -/
def regionsOf (w : Nat → Nat) : List EngRegion :=
  let sk := bitsOf (w 6) 3 0
  let dk := bitsOf (w 6) 7 4
  let n := unitsOf w
  match entOp (w 0) with
  | 1 =>
    let b := bitsOf (w 4) 31 0
    [⟨sk, (List.range n).map (fun r => (a64 (w 2 + r * bitsOf (w 5) 31 0), b)), [.load], none⟩,
     ⟨dk, (List.range n).map (fun r => (a64 (w 3 + r * bitsOf (w 5) 63 32), b)), [.store], none⟩]
  | 2 => [⟨sk, if sk = 1 then [(w 2, bitsOf (w 5) 31 0)] else [], [.load], some indexedAllowance⟩, ⟨dk, [(w 3, n * bitsOf (w 5) 31 0)], [.store], none⟩, ⟨0, [(w 4, 4 * n)], [.load], none⟩]
  | 3 => [⟨sk, [(w 2, n * bitsOf (w 5) 31 0)], [.load], none⟩, ⟨dk, if dk = 1 then [(w 3, bitsOf (w 5) 31 0)] else [], [.store], some indexedAllowance⟩, ⟨0, [(w 4, 4 * n)], [.load], none⟩]
  | 4 =>
    let b := n * tyBytes (tyOfCode (bitsOf (w 4) 35 32))
    [⟨sk, [(w 2, b)], [.load], none⟩, ⟨dk, [(w 3, b)], [.load, .store], none⟩]
  | 5 => [⟨sk, [(w 2, n * tyBytes (tyOfCode (bitsOf (w 4) 35 32)))], [.load], none⟩, ⟨dk, [(w 3, n * tyBytes (tyOfCode (bitsOf (w 4) 39 36)))], [.store], none⟩]
  | _ => []

/-- The bytes an operation counts for its engine's rate (R274, R285). -/
def countedBytes (w : Nat → Nat) : Nat :=
  let n := unitsOf w
  match entOp (w 0) with
  | 1 => n * bitsOf (w 4) 31 0
  | 2 | 3 => n * bitsOf (w 5) 31 0 + 4 * n
  | 4 => n * tyBytes (tyOfCode (bitsOf (w 4) 35 32))
  | 5 => n * tyBytes (tyOfCode (bitsOf (w 4) 35 32))
  | _ => 0

/-- The calendar and the peak rate of the engine a queue feeds. -/
def State.calOf (s : State) (cid eng : Nat) : Tab Byte :=
  match eng with
  | 0 => (s.core cid).calCopy | 1 => (s.core cid).calGather | 2 => (s.die (coreDie cid)).calReduce | _ => (s.die (coreDie cid)).calConvert
def peakOf (eng : Nat) : Nat := if eng < 2 then 128 else 512
/-- The slots a virtual device holds. -/
def slotsOf (t : Tab Byte) (v : Nat) : Nat := ((List.range 64).filter (fun i => (Tab.get 0xFF t i).toNat == v)).length

/-- B_v of an engine. -/
def State.bvOf (s : State) (cid eng v : Nat) : Nat :=
  match eng with
  | 0 => Tab.get 0 (s.core cid).bv v | 1 => Tab.get 0 (s.core cid).bv (256 + v)
  | 2 => Tab.get 0 (s.die (coreDie cid)).bv v | _ => Tab.get 0 (s.die (coreDie cid)).bv (256 + v)
def State.setBv (s : State) (cid eng v p : Nat) : State :=
  match eng with
  | 0 => s.setCore cid { s.core cid with bv := Tab.set 0 (s.core cid).bv v p }
  | 1 => s.setCore cid { s.core cid with bv := Tab.set 0 (s.core cid).bv (256 + v) p }
  | 2 => s.setDie (coreDie cid) { s.die (coreDie cid) with bv := Tab.set 0 (s.die (coreDie cid)).bv v p }
  | _ => s.setDie (coreDie cid) { s.die (coreDie cid) with bv := Tab.set 0 (s.die (coreDie cid)).bv (256 + v) p }

/-- The largest allowance of a region over every die it touches, or that one of its pages does not translate or is refused (reason 8; 0 for a walk that
must wait). -/
def State.regionCost (s : State) (a : Agent) (r : EngRegion) : Except (Nat × State) Nat :=
  match r.fixed with
  | some x => .ok x
  | none =>
    if r.kind = 1 then .ok ((r.ranges.map (fun p => 64 + 104 * max (hops a.die (p.1 / 2 ^ 32)) (hops a.die ((p.1 + p.2 - 1) / 2 ^ 32)))).foldl max 0)
    else
      (r.ranges.flatMap (fun p => pieces 4096 p.1 p.2)).foldl (fun (acc : Except (Nat × State) Nat) p =>
        acc.bind (fun m => r.acc.foldl (fun (acc2 : Except (Nat × State) Nat) k =>
          acc2.bind (fun m2 => match s.engLeaf a p.1 k with
            | .ok (pa, _, _) => .ok (((pieces 1024 pa p.2).map (fun q => allowance (s.pool a.die) a.die q.1)).foldl max m2)
            | .error (c, t) => .error (if c = 0 then 0 else 8, t))) (.ok m))) (.ok 0)

/-- The service time S_k of R285, unless a region does not translate. -/
def State.serviceTime (s : State) (a : Agent) (eng v : Nat) (w : Nat → Nat) : Except (Nat × State) Nat :=
  if entOp (w 0) = 0 then .ok 16
  else
    let r := slotsOf (s.calOf a.cid eng) v * peakOf eng
    (regionsOf w).foldl (fun (acc : Except (Nat × State) Nat) g => acc.bind (fun t => (s.regionCost a g).map (fun c => t + c)))
      (.ok (32 + (countedBytes w * 64 + r - 1) / r))

/-- The latest promise given on the queues that a fence names, plus 16 (R285). -/
def State.fenceFloor (s : State) (cid : Nat) (w0 : Nat) : Nat :=
  if entQf w0 then (((List.range 8).filter (fun i => bitAt (entQmask w0) i)).map (fun i => (s.queue cid i).lastP + 16)).foldl max 0 else 0

/-! The decision, R282. -/

/-- The reason that a read of the chain which fails stands for: 2, or 0 when it must wait. -/
def chainReason (c : Nat) : Nat := if c = 0 then 0 else 2

/-- The physical address of an entry's bytes, which lie in one sector. -/
def State.chainRead (s : State) (a : Agent) (va n : Nat) : Except (Nat × State) (List Byte × State) :=
  match s.engPiece a va .load with
  | .error (e, t) => .error (chainReason e.1, t)
  | .ok (pa, s1) =>
    match s1.l2Read { src := a.die, level := a.level, asid := BitVec.ofNat 12 a.asid, gen := a.gen, world := a.world } pa n with
    | .wait => .error (0, s1)
    | .fault c => .error (2, s1.lookRefused a pa c)
    | .ok bs s2 => .ok (bs, s2)

/-- The chain of n entries behind an address, read in the queue's space through the die's L2. -/
def State.chain (s : State) (a : Agent) (prev : Nat) : Nat → Except (Nat × State) (List (Nat × List Nat) × State)
  | 0 => .ok ([], s)
  | n + 1 =>
    match s.chainRead a (a64 (prev + 8)) 8 with
    | .error r => .error r
    | .ok (nb, s1) =>
      let next := ofBytesLE nb
      if next = 0 ∨ next % 64 ≠ 0 then .error (2, s1)
      else match s1.chainRead a next 64 with
        | .error r => .error r
        | .ok (bs, s2) =>
          match s2.chain a next n with
          | .error r => .error r
          | .ok (r, s3) => .ok ((next, (List.range 8).map (fun i => ofBytesLE ((bs.drop (8 * i)).take 8))) :: r, s3)

/-- An entry names a core slice of the on-chip map that the virtual device does not hold, or lies beyond the map (reason 7). -/
def State.unheld (s : State) (v : Nat) (w : Nat → Nat) : Bool :=
  (regionsOf w).any (fun r => r.kind == 1 && r.ranges.any (fun p => (winPieces p.1 p.2).any (fun q =>
    decide (2 ^ 37 ≤ q.1) || (match coreSlice (q.1 / 2 ^ 32) (q.1 % 2 ^ 32) with
      | some (cid, _) => !s.holdsCore cid (BitVec.ofNat 8 v)
      | none => false))))

/-- The promises of a batch in order, from the previous promise and B_v; a later fence sees the promises given before it in its own queue. -/
def State.promises (s : State) (a : Agent) (eng v t : Nat) : List (List Nat) → Nat → Nat → Except (Nat × State) (List Nat)
  | [], _, _ => .ok []
  | ws :: r, prev, bv =>
    let w := fun i => ws.getD i 0
    match s.serviceTime a eng v w with
    | .error k => .error k
    | .ok sk =>
      let p0 := max t (max prev bv) + sk
      let own := if entQf (w 0) && bitAt (entQmask (w 0)) a.q then prev + 16 else 0
      let p := max p0 (max (s.fenceFloor a.cid (w 0)) own)
      (s.promises a eng v t r p (max bv p)).map (fun ps => p :: ps)

/-- The reason of a refusal, or the entries with their promises, and the state that the reads of the decision leave; reason 0 stands for a decision that must
wait. -/
def State.decideBatch (s : State) (a : Agent) (adv : Adv) : Except (Nat × State) (List (Nat × List Nat × Nat) × State) :=
  let q := s.queue a.cid a.q
  let eng := qEng q
  let v := qVdev q
  if !q.qctl.getLsbD 0 || qHalt q then .error (1, s)
  else if adv.n < 1 ∨ 256 < adv.n ∨ (adv.cnt.isSome ∧ 63 < adv.n) then .error (2, s)
  else match s.chain a q.qprev.toNat adv.n with
    | .error k => .error k
    | .ok (es, s1) =>
      if es.any (fun e => !entryOk eng e.2) then .error (3, s1)
      else if 256 < (q.hseq - q.cseq).toNat + adv.n then .error (4, s1)
      else if es.any (fun e => entOp (e.2.getD 0 0) != 0) && slotsOf (s.calOf a.cid eng) v == 0 then .error (6, s1)
      else if es.any (fun e => s.unheld v (fun i => e.2.getD i 0)) then .error (7, s1)
      else match s1.promises a eng v s.clock (es.map Prod.snd) q.lastP (s.bvOf a.cid eng v) with
        | .error k => .error k
        | .ok ps =>
          if (es.zip ps).any (fun e => let d := entDdl (e.1.2.getD 0 0); d != 0 && decide (s.clock + d < e.2)) then .error (5, s1)
          else .ok ((es.zip ps).map (fun e => (e.1.1, e.1.2, e.2)), s1)

/-! The life of an entry. -/

def Entry.agent (e : Entry) (cid q : Nat) (x : Queue) : Agent :=
  { cid := cid, q := q, asid := qAsid x, gen := e.gen, level := e.level, vdev := BitVec.ofNat 8 (qVdev x), ctxid := e.ctxid, world := e.world,
    own := decide (qEng x < 2) }

/-- Every declared input is ready (R291). -/
def State.inputsReady (s : State) (cid : Nat) (e : Entry) : Bool := e.inputs.all (fun t => (s.core cid).lattice.getLsbD t)
/-- No entry handed earlier to a named queue is incomplete or still undecided (R245, R279). -/
def State.fenceOpen (s : State) (cid q : Nat) (e : Entry) : Bool :=
  !entQf (e.w 0) || (List.range 8).all (fun i => i == q || !bitAt (entQmask (e.w 0)) i ||
    ((s.queue cid i).entries.all (fun d => decide (e.handed ≤ d.handed)) && (s.queue cid i).advs.all (fun d => decide (e.handed ≤ d.seq))))

/-- ENTRY_BEGIN can happen: the head entry has its inputs and its fence, or a fence that fails. -/
def State.beginDue (s : State) (cid q : Nat) : Bool :=
  match (s.queue cid q).entries with
  | e :: _ => !e.begun && (e.fenceFault.isSome || (s.inputsReady cid e && s.fenceOpen cid q e))
  | [] => false

/-- ENTRY_BEGIN, R291: the entry's accesses carry the generation that its space has now (assumption 93); a fence that waits on a queue that halted halts its own queue (R298). -/
def execEntryBegin (cid q : Nat) (s : State) : Host.Outcome State Fault Refusal :=
  let x := s.queue cid q
  match x.entries with
  | e :: r =>
    .next (if !s.beginDue cid q then s
      else match e.fenceFault with
        | some c => s.haltQueue cid q c.toNat e.addr.toNat
        | none => s.setQueue cid q { x with entries := { e with begun := true, gen := (s.space (qAsid x)).gen } :: r, regs := [] })
  | [] => .next s

/-- Run what is left of the head entry. -/
def State.runHead (s : State) (cid q : Nat) (e : Entry) : Except (EngErr × State) State :=
  s.engUnits (e.agent cid q (s.queue cid q)) s e.w e.done (unitsOf e.w - e.done)

/-- The head entry has begun and its accesses can be performed: what they must see is applied, and its numbers do not run too far ahead (12 R237, R238). -/
def State.engineDue (s : State) (cid q : Nat) : Bool :=
  match (s.queue cid q).entries with
  | e :: _ => e.begun && s.settled (coreDie cid) && !s.farAheadBy (coreDie cid) (min 65536 (unitsOf e.w) + 1)
  | [] => false

/-- ENGINE_WINDOW_WRITE: the writes of the head entry arrive in a core's window (R294). -/
def execEngineWindowWrite (cid q : Nat) (s : State) : Host.Outcome State Fault Refusal :=
  match (s.queue cid q).entries with
  | e :: _ =>
    if s.engineDue cid q && bitsOf (e.w 6) 7 4 == 1 && decide (e.done < unitsOf e.w) then
      match s.runHead cid q e with
      | .error ((c, a), s1) => .next (if c = 0 then s else s1.haltQueue cid q c a)
      | .ok s1 =>
        let x := s1.queue cid q
        .next (s1.setQueue cid q { x with entries := x.entries.map (fun d => if d.seq = e.seq then { d with done := unitsOf e.w } else d) })
    else .next s
  | [] => .next s

/-- The identifiers of some tiles. -/
def tileBits (ts : List Nat) : BitVec 128 := ts.foldl (fun m t => m ||| (1#128 <<< t)) 0
/-- Tiles become ready or not ready (R288, R291, R292). In one cycle clears are applied before sets: what the cycle has set stays (R293). -/
def Core.setTiles (k : Core) (now : Nat) (ts : List Nat) (b : Bool) : Core :=
  let kept := if k.latticeSet.1 = now then k.latticeSet.2 else 0
  if b then { k with lattice := k.lattice ||| tileBits ts, latticeSet := (now, kept ||| tileBits ts) }
  else { k with lattice := k.lattice &&& ~~~(tileBits ts &&& ~~~kept) }

/-- The completion write of CSEQ to QCW, a release at the queue's scope; a fault halts the queue (R288). None when its walk must wait for a write. -/
def State.completionWrite (s : State) (cid q : Nat) (e : Entry) : Option State :=
  let x := s.queue cid q
  if x.qcw = 0 then some s
  else match s.engWrite (e.agent cid q x) 0 x.qcw.toNat (bytesLE 8 x.cseq.toNat) true with
    | .ok s1 => some s1
    | .error ((c, a), s1) => if c = 0 then none else some (s1.haltQueue cid q c a)

/-- ENTRY_COMPLETE: the entry's writes are performed; in one step CSEQ rises, its tiles become ready, its counter falls, and CSEQ is written (R288). A miss
of an earlier cycle stands (R296). An entry whose accesses must wait for a write stays. -/
def execEntryComplete (cid q : Nat) (s0 : State) : Host.Outcome State Fault Refusal :=
  let s := s0.misses cid q
  match (s.queue cid q).entries with
  | e :: _ =>
    if s.engineDue cid q then
      match s.runHead cid q e with
      | .error ((c, a), s1) => .next (if c = 0 then s0 else s1.haltQueue cid q c a)
      | .ok s1 =>
        let x := s1.queue cid q
        let s2 := s1.setQueue cid q { x with cseq := x.cseq + 1, entries := x.entries.filter (fun d => d.seq != e.seq), regs := [] }
        let s3 := s2.setCore cid ((s2.core cid).setTiles s.cycles e.outputs true)
        .next ((((s3.lowered e (qScope x)).unblockWaiters cid).completionWrite cid q e).getD s0)
    else .next s0
  | [] => .next s0

/-- QUEUE_HALT: an access of the head entry faults (R298). -/
def execQueueHalt (cid q : Nat) (cause : BitVec 8) (addr : DWord) (s : State) : Host.Outcome State Fault Refusal :=
  match (s.queue cid q).entries with
  | _ :: _ => .next (s.haltQueue cid q cause.toNat addr.toNat)
  | [] => .next s

/-! Misses, R296. -/

/-- PROMISE_MISS: the first entry past its promise misses it (R296, R297). -/
def execPromiseMiss (cid q : Nat) (s : State) : Host.Outcome State Fault Refusal :=
  .next (match s.missOf cid q with | none => s | some e => s.miss cid q e)

/-! Handing over. -/

/-- The cycles that an entry takes over from those it is ordered behind (R286): from the entry before it in its queue, and from the entries that its queue
fence waits on. A cycle of waiting that reaches it on two ways counts once (assumption 95). -/
def Core.carried (k : Core) (q : Nat) (e : Entry) : List (Nat × Nat) :=
  let named := if entQf (e.w 0) then (List.range 8).filter (fun i => i != q && bitAt (entQmask (e.w 0)) i) else []
  (named.flatMap (fun i => (Tab.get Queue.reset k.queues i).entries.filter (fun d => decide (d.handed < e.handed)))).foldl (fun t d => joinSpans t d.extend) e.extend
/-- Down one queue: each entry takes over what the one before it has, and the last gives it to those to come. -/
def Core.carryQueue (k : Core) (q : Nat) : Core :=
  let x := Tab.get Queue.reset k.queues q
  let es := x.entries.foldl (fun (r : List Entry × List (Nat × Nat)) e =>
    let t := joinSpans (k.carried q e) r.2
    (r.1 ++ [{ e with extend := t }], t)) ([], [])
  { k with queues := Tab.set Queue.reset k.queues q { x with entries := es.1, lastX := joinSpans x.lastX es.2 } }
/-- Every queue of a core eight times: an order through fences that visits a queue twice has a shorter way. -/
def Core.carryOver (k : Core) : Core := (List.range 64).foldl (fun k i => k.carryQueue (i % 8)) k

/-- Entries are accepted: copied, output tiles cleared in order, QPREV and HSEQ moved, promises and the extension of the entry before kept (R282, R285, R286). -/
def State.accept (s : State) (cid q : Nat) (adv : Adv) (g : Group) : List (Nat × List Nat × Nat) → State
  | [] => s
  | (addr, ws, p) :: r =>
    let x := s.queue cid q
    let e : Entry := { addr := BitVec.ofNat 64 addr, words := ws.map (BitVec.ofNat 64), promise := p, extend := x.lastX, handed := adv.seq, gen := 0, gid := adv.gid, level := adv.level,
                       ctxid := g.ctxid, world := g.world, dc := adv.cnt, begun := false, missed := false, done := 0, seq := s.seq, fenceFault := none }
    let s1 := s.setQueue cid q { x with entries := x.entries ++ [e], qprev := BitVec.ofNat 64 addr, hseq := x.hseq + 1, lastP := p }
    let s2 := s1.setCore cid ((s1.core cid).setTiles s.cycles (outputsOf ws) false)
    let v := qVdev x
    ({ s2 with seq := s2.seq + 1 }.setBv cid (qEng x) v (max p (s2.bvOf cid (qEng x) v))).accept cid q adv g r

/-- D takes the promise, or 0, in the enabled lanes and becomes full. -/
def Group.advResult (g : Group) (adv : Adv) (x : Nat) : Group :=
  let g1 := adv.en.lanes.foldl (fun g l => g.wr64 l adv.d (BitVec.ofNat 64 x)) g
  match adv.d with | .v n => g1.setEmpties n.val 2 false | _ => g1

/-- BATCH_DECISION: the oldest CQADV of a queue is decided (R282, R283). -/
def execBatchDecision (cid q : Nat) (s : State) : Host.Outcome State Fault Refusal :=
  let x := s.queue cid q
  match x.advs with
  | [] => .next s
  | adv :: rest =>
    if !s.settled (coreDie cid) then .next s
    else match s.groupAt adv.gid with
      | none => .next (s.setQueue cid q { x with advs := rest })
      | some g =>
        let a : Agent := { cid := cid, q := q, asid := qAsid x, gen := (s.space (qAsid x)).gen, level := adv.level, vdev := BitVec.ofNat 8 (qVdev x), ctxid := g.ctxid, world := g.world, own := false }
        match s.decideBatch a adv with
        | .ok (es, s1) =>
          let s2 := (s1.setQueue cid q { s1.queue cid q with advs := rest }).accept cid q adv g es
          .next ((s2.setCore cid (s2.core cid).carryOver).onGroup adv.gid (fun g => (g.advResult adv ((es.getLast?.map (fun e => e.2.2)).getD 0)).unblocked s.clock))
        | .error (0, _) => .next s
        | .error (reason, t) =>
          let y := t.queue cid q
          let s1 := t.setQueue cid q { y with advs := rest, qstat := BitVec.ofNat 64 (putBits y.qstat.toNat 23 16 reason) }
          .next (s1.onGroup adv.gid (fun g =>
            let g1 := match adv.cnt with
              | some n => if adv.n ≤ 63 then { g with dc := Tab.set 0 g.dc n (Tab.get 0 g.dc n - BitVec.ofNat 6 adv.n) } else g
              | none => g
            (g1.advResult adv 0).unblocked s.clock))

end Sys2Proof.Machine
end

