-- ==== Sys2Proof/Machine/Queues.lean ====
section
/-!
DEFINITION. The six forms of MAJ 0x3E: CQADV, CQWAIT, CQSEQ, DCWAIT, TREADY, CQPUT (15 R275, R280 to R292).
-/

namespace Sys2Proof.Machine

/-- The group may not name the queue: above 7, another virtual device's, another space's; a system core has none (R275). -/
def State.queueBars (s : State) (c : Ctx) (n : Nat) : Bool :=
  isSystem c.gid || decide (7 < n) ||
  (let q := s.queue (coreOf c.gid) n
   qVdev q != c.g.vdev.toNat || qAsid q != c.g.asid.toNat)

/-- A form that names a queue once per group: uniform operands, then the queue's owner (R275, R280). -/
def State.queueForm (s : State) (i : Instr) (x : Ext) (srcs : List Src) (dn : Nat) (same : Ctx → Bool) (go : Ctx → Nat → State) :
    Host.Outcome State Fault Refusal :=
  let c := s.ctx i x
  s.gate c (c.chk srcs x.d dn)
    (match c.en.first with
     | none => s.commit c c.g
     | some l =>
       let n := (c.rd32 l x.a).toNat
       if !allSame (c.en.lanes.map (fun k => c.rd32 k x.a)) || !same c then s.trapAt c cUniform c.en 0
       else if s.queueBars c n then s.trapAt c cPermission c.en (BitVec.ofNat 64 n)
       else go c n)

/-- Operand B is the same in every enabled lane. -/
def Ctx.sameB (c : Ctx) : Bool := allSame (c.en.lanes.map (fun k => c.rd32 k c.x.b))

/-- CQADV, R282: a release at the queue's scope toward the engine; the counter is raised, D is empty until the decision. -/
def cqadvMeaning (i : Instr) (x : Ext) (s : State) : Host.Outcome State Fault Refusal :=
  s.queueForm i x [x.srcA 1, x.srcB 1] 2 Ctx.sameB (fun c n =>
    let cid := coreOf c.gid
    let q := s.queue cid n
    let k := match c.en.first with | some l => (c.rd32 l x.b).toNat | none => 0
    let cnt : Option Nat := if bitAt x.imm 2 then some (x.imm % 4) else none
    let up := match cnt with | some d => if k ≤ 63 then some (d, (Tab.get 0 c.g.dc d).toNat + k) else none | none => none
    if (match up with | some (_, v) => decide (63 < v) | none => false) || s.outstanding c.gid (qScope q) || s.acqOut c.gid || s.relHeld c.gid then s.stall c.gid
    else
      let g := c.g.killSrcs [x.srcA 1, x.srcB 1]
      let g := match up with | some (d, v) => { g with dc := Tab.set 0 g.dc d (BitVec.ofNat 6 v) } | none => g
      let s1 := s.commit c (g.markEmpty x.d 8)
      let adv : Adv := { gid := c.gid, seq := s1.seq, n := k, cnt := cnt, d := x.d, en := c.en, level := c.g.priv }
      { s1 with seq := s1.seq + 1 }.setQueue cid n { s1.queue cid n with advs := (s1.queue cid n).advs ++ [adv] })
def execCqadv (d a b : Opnd) (s : State) : Host.Outcome State Fault Refusal := cqadvMeaning (.cqadv d a b) (Ext.ofBase 0x3E d a b) s
def execCqadvX (x : Ext) (s : State) : Host.Outcome State Fault Refusal := cqadvMeaning (.cqadvX x) x s

/-- The outstanding batches of a queue: those whose closing entry is incomplete, and the open one when it holds an incomplete entry (R289). -/
def Queue.batches (q : Queue) : Nat :=
  (q.entries.filter (fun e => entCb (e.w 0))).length + (match q.entries.getLast? with | some e => if entCb (e.w 0) then 0 else 1 | none => 0)

/-- CQWAIT, R289: its end is an acquire at the queue's scope. -/
def execCqwait (x : Ext) (s : State) : Host.Outcome State Fault Refusal :=
  s.queueForm (.cqwait x) x [x.srcA 1, x.srcB 1] 2 Ctx.sameB (fun c n =>
    let q := s.queue (coreOf c.gid) n
    let b := match c.en.first with | some l => (c.rd32 l x.b).toNat | none => 0
    if b < q.batches then s.stallWait c.gid
    else (s.commit c (c.after [x.srcA 1, x.srcB 1] .w64 x.d false (fun _ => Eff.v q.cseq.toNat))).acquire c.gid (qScope q))

/-- CQSEQ, R289. -/
def execCqseq (x : Ext) (s : State) : Host.Outcome State Fault Refusal :=
  s.queueForm (.cqseq x) x [x.srcA 1] 2 (fun _ => true) (fun c n =>
    let q := s.queue (coreOf c.gid) n
    s.commit c (c.after [x.srcA 1] .w64 x.d false (fun _ => Eff.v (if bitAt x.imm 0 then q.hseq.toNat else q.cseq.toNat))))

/-- DCWAIT, R290: its end is an acquire at the scope of the queues that lowered the counter. -/
def execDcwait (x : Ext) (s : State) : Host.Outcome State Fault Refusal :=
  let c := s.ctx (.dcwait x) x
  let n := x.imm % 4
  s.gate c (c.chk [x.srcA 1] .none 0)
    (match c.en.first with
     | none => s.commit c c.g
     | some l =>
       if !allSame (c.en.lanes.map (fun k => c.rd32 k x.a)) then s.trapAt c cUniform c.en 0
       else if (c.rd32 l x.a).toNat < (Tab.get 0 c.g.dc n).toNat then s.stallWait c.gid
       else
         let g := c.g.killSrcs [x.srcA 1]
         let s1 := s.commit c { g with dcScope := Tab.set none g.dcScope n none }
         match Tab.get none c.g.dcScope n with
         | some sc => s1.acquire c.gid sc
         | none => s1)

/-- TREADY, R292: a release at die scope, then each enabled lane's identifier. -/
def execTready (x : Ext) (s : State) : Host.Outcome State Fault Refusal :=
  let c := s.ctx (.tready x) x
  let cid := coreOf c.gid
  s.gate c (c.chk [x.srcA 1] .none 0)
    (if c.en = 0 then s.commit c c.g
     else if s.outstanding c.gid .die then s.stall c.gid
     else
       let s1 := s.commit c (c.g.killSrcs [x.srcA 1])
       s1.setCore cid ((s1.core cid).setTiles s.cycles (c.en.lanes.map (fun l => (c.rd32 l x.a).toNat % 128)) (!bitAt x.imm 0)))

/-- The eight bytes of a lane's row of the entry that CQPUT stores. -/
def Ctx.putRow (c : Ctx) (i : Nat) : BitVec 128 :=
  let q := c.rdQuad i c.x.c
  if i = 0 then q &&& 0x0000000000000000FFFFFFFFFFFFFFFF#128 else q

/-- The store of part of an entry, as a relaxed store of the group. -/
def State.putStore (s : State) (c : Ctx) (pa va n : Nat) (dev : Bool) (v : BitVec 128) : State :=
  let (lpa, tgt, s) := s.placeOf (s.pool (dieOf c.gid)) pa
  { s.blankReq c (s.group c.gid).issueNo with
    op := .store, tgt := tgt, dev := dev, pa := pa, lpa := lpa, va := BitVec.ofNat 64 va, width := n, data := v,
    members := c.en.lanes.map (fun l => ⟨l, (c.g.lane l).gen, 0, 0⟩) }.halves.foldl State.issueStore s

/-- CQPUT, R281: the entry at b, the link at QLAST + 8, and QLAST moves. -/
def execCqput (x : Ext) (s : State) : Host.Outcome State Fault Refusal :=
  let srcs := [x.srcA 1, x.srcB 2, (x.srcC 4).over [0, 1, 2, 3]]
  s.queueForm (.cqput x) x srcs 0 (fun c => allSame (c.en.lanes.map (fun k => c.rd64 k x.b))) (fun c n =>
    let cid := coreOf c.gid
    let l := c.en.first.getD 0
    let b := (c.rd64 l x.b).toNat
    let link := a64 ((s.queue cid n).qlast.toNat + 8)
    let r1 := s.laneChk c l b 16 .store
    let r2 := s.laneChk c l link 8 .store
    if b % 64 ≠ 0 then s.trapAt c cMisalign c.en (BitVec.ofNat 64 b)
    else if s.holdStore c.gid .rlx .grp 9 then s.stall c.gid
    else match r1, r2 with
      | .fault k, _ => s.trapAt c (rankCause k) c.en (BitVec.ofNat 64 b)
      | .miss, .miss => s.askWalks c.gid c.g.asid [b, link]
      | .miss, _ => s.askWalks c.gid c.g.asid [b]
      | .ok _, .miss => s.askWalks c.gid c.g.asid [link]
      | .ok _, .fault k => s.trapAt c (rankCause k) c.en (BitVec.ofNat 64 link)
      | .hold, _ | .ok _, .hold => s.stall c.gid
      | .ok p1, .ok p2 =>
        if s.passReads c.gid p1.pa 64 then s.stall c.gid
        else
        let s1 := s.commit c (c.g.killSrcs srcs)
        let s2 := [0, 1, 2, 3].foldl (fun s i => s.putStore c (p1.pa + 16 * i) (b + 16 * i) 16 p1.dev (c.putRow i)) s1
        let s3 := s2.putStore c p2.pa link 8 p2.dev (BitVec.ofNat 128 b)
        s3.setQueue cid n { s3.queue cid n with qlast := BitVec.ofNat 64 b })

end Sys2Proof.Machine
end

