-- ==== Sys2Proof/Machine/Traps.lean ====
section
/-!
DEFINITION. The traps between issues (18 R328, R329, R335 to R337, 15 R296, 19 R352, 23 R388) and the results of page walks (18 R331).
-/

namespace Sys2Proof.Machine

/-- A kind A trap: TRAPPC is the issue address, TLANES the lanes there (R326). Rejections still on their way are deferred from now on. -/
def State.trapA (s : State) (gid cause : Nat) (addr : DWord) (defr : Option (DWord × Mask)) (pr : Bool := false) : State :=
  let g := s.group gid
  match g.issueAddr with
  | none => s
  | some pc =>
    (s.setGroup gid { g with issueNo := g.issueNo + 1 }).trap gid
      { cause := cause, lanes := g.atPc pc, addr := addr, pc := pc, defr := defr, pr := pr }

def State.setPend (s : State) (gid : Nat) (p : Pend) : State := s.setGroup gid { s.group gid with pend := p }

/-- The place of a precise report in the order of R119. -/
def reportRank (r : Report) : Nat := if r.cause.toNat = cPermission then 0 else if r.cause.toNat = cGenStale then 1 else 2

/-- The precise report of the least rank. -/
def firstPrecise (rs : List Report) : Option Report :=
  (rs.filter (fun r => r.precise)).foldl (fun a r => match a with
    | none => some r
    | some q => if reportRank r < reportRank q then some r else a) none

/-- DEFERRED_REPORT, R328: a rejection that came before the group's next issue traps as kind L at the instruction; one that came later as kind A with DEF. -/
def execDeferredReport (gid : Nat) (s : State) : Host.Outcome State Fault Refusal :=
  if s.pendingTrap gid ≠ some .report then .next s
  else
    let g := s.group gid
    match firstPrecise g.pend.reports with
    | some r =>
      let s1 := s.setGroup gid { g with faulted := true, pend := { g.pend with reports := g.pend.reports.filter (fun q => !q.precise) } }
      .next (s1.trap gid { cause := r.cause.toNat, lanes := r.lanes &&& g.holding, addr := r.addr, pc := r.pc, defr := none, pr := r.pr })
    | none =>
      match g.pend.reports with
      | r :: rest => .next ((s.setPend gid { g.pend with reports := rest }).trapA gid r.cause.toNat r.addr (some (r.pc, r.lanes)) r.pr)
      | [] => .next s

/-- STEP, R335. -/
def execStep (gid : Nat) (s : State) : Host.Outcome State Fault Refusal :=
  .next (if s.pendingTrap gid = some .step then (s.setPend gid { (s.group gid).pend with step := false }).trapA gid cStep 0 none else s)

/-- PROMISE_MISSED, R296. -/
def execPromiseMissed (gid : Nat) (s : State) : Host.Outcome State Fault Refusal :=
  let p := (s.group gid).pend
  .next (if s.pendingTrap gid = some .promise then (s.setPend gid { p with promise := none }).trapA gid cPromise ((p.promise.map Prod.fst).getD 0) none else s)

/-- WATCHDOG, R337. -/
def execWatchdog (gid : Nat) (s : State) : Host.Outcome State Fault Refusal :=
  .next (if s.pendingTrap gid = some .watchdog then (s.setPend gid { (s.group gid).pend with watchdog := false }).trapA gid cWatchdog 0 none else s)

/-- PREEMPT, 19 R352. -/
def execPreempt (gid : Nat) (s : State) : Host.Outcome State Fault Refusal :=
  .next (if s.pendingTrap gid = some .preempt then (s.setPend gid { (s.group gid).pend with preempt := false }).trapA gid cPreempt 0 none else s)

/-- BREAKPOINT by a match of the issue address, R336. -/
def execBreakpoint (gid : Nat) (s : State) : Host.Outcome State Fault Refusal :=
  .next (if s.pendingTrap gid = some .breakpoint then
      match (s.group gid).issueAddr.bind (s.breakpointAt gid) with
      | some i => s.trapA gid cBreakpoint (BitVec.ofNat 64 (0x10000 + i)) none
      | none => s
    else s)

/-- INTEGRITY. A tag mismatch met by a group of a world halts the world; a group that has the cause pending takes it, and a group of a compute core
then stops (23 R388). -/
def execIntegrity (gid : Nat) (pa : DWord) (s : State) : Host.Outcome State Fault Refusal :=
  let g := s.group gid
  match g.pend.integrity with
  | some p =>
    if s.pendingTrap gid = some (.integrity p) then
      let s1 := (s.setPend gid { g.pend with integrity := none }).mclog (coreOf gid) 8 p.toNat
      let s2 := s1.trapA gid cIntegrity p none
      .next (if isSystem gid then s2 else s2.stopGroup gid)
    else .next s
  | none => .next (if g.world = 0 then s else s.haltWorld g.world pa)

/-! Walks. -/

/-- A leaf reaches a waiting group: the TLBs of its quadrant and its core take it, and the group looks again. -/
def State.serveLeaf (s : State) (d : Nat) (e : TlbEntry) (gid : Nat) : State :=
  let cid := coreOf gid
  let x := s.die d
  let q := quadOf cid
  let s1 := s.setDie d { x with qtlb := Tab.put x.qtlb q (tlbPut 4096 (Tab.get [] x.qtlb q) e) }
  let s2 := s1.setCore cid { s1.core cid with tlb := tlbPut 64 (s1.core cid).tlb e }
  s2.setGroup gid { s2.group gid with readySince := s.clock, blocked := false }

/-- A walk's fault reaches a waiting group: its lanes at that page fault in the instruction that waits (R331); an error is recorded with its place (R333). -/
def State.serveFault (s : State) (w : Walk) (cause src at_ gid : Nat) : State :=
  let s := if cause = cMachineCheck then s.mclog (coreOf gid) src at_ else s
  let g := s.group gid
  s.setGroup gid { g with readySince := s.clock, blocked := false, walkFaults := g.walkFaults ++ [{ asid := w.asid, page := w.page, cause := BitVec.ofNat 8 cause }] }

/-- The groups that waited for a walk look again. -/
def State.lookAgain (s : State) (gs : List Nat) : State := gs.foldl (fun s g => s.setGroup g { s.group g with readySince := s.clock, blocked := false }) s

/-- WALK_RESULT: walk `idx` of a die ends in a leaf or a fault, and every request merged into it or covered by its leaf is served (R330, R331); one that
must wait for a write goes on later. An entry whose tag does not match halts the world (23 R388). -/
def execWalkResult (die idx : Nat) (s : State) : Host.Outcome State Fault Refusal :=
  match (s.die die).walks[idx]? with
  | none => .next s
  | some w =>
    let (res, nodes, s0) := s.walk die w
    let x := s0.die die
    let rest := x.walks.eraseIdx idx
    let s1 := s0.setDie die { x with walks := rest, wcache := (nodes ++ x.wcache).take 1024 }
    match res with
    | .wait => .next s
    | .fault cause at_ =>
      .next (if cause = cIntegrity then (s1.haltWorld w.world (BitVec.ofNat 64 at_)).lookAgain w.waiters
        else w.waiters.foldl (fun s g => s.serveFault w cause (s0.readSrc die at_ w.world) at_ g) s1)
    | .leaf e =>
      let served := rest.filter (fun v => e.covers v.asid (v.page * 4096))
      let s2 := s1.setDie die { s1.die die with walks := rest.filter (fun v => !e.covers v.asid (v.page * 4096)) }
      .next ((w.waiters ++ served.flatMap (fun v => v.waiters)).foldl (fun s g => s.serveLeaf die e g) s2)

end Sys2Proof.Machine
end

