-- ==== Sys2Proof/Machine/Controller.lean ====
section
/-!
DEFINITION. The memory controllers: refresh, hot rows, the clearing sweep, the scrub (11 R218, R219, R225, 23 R390); the links: retries, failover
and acknowledgements (21 R359 to R364).
-/

namespace Sys2Proof.Machine

/-- The count of a channel as an integer from -8 to 8, and back (R218). -/
def refCount (x : BitVec 5) : Int := toSigned 5 x.toNat
def refBits (n : Int) : BitVec 5 := BitVec.ofInt 5 n

/-- Requests wait for a channel of a die (R218). -/
def State.chanWaits (s : State) (die ch : Nat) : Bool :=
  s.reqs.any (fun r => r.homeIs die && !r.performed && decide (r.lpa < 0x020000000000) && Config.channelOf r.lpa % 32 == ch)

/-- COUNT when a refresh that fell due is postponed: at -8 the controller issues one as soon as the command in progress ends, which brings it back to -7. -/
def owed (n : Int) : Int := max (-7) (n - 1)
/-- COUNT after a refresh has fallen due: one pulled in before stands for it, one is postponed while requests wait, else it is issued at once. -/
def dueCount (waits : Bool) (n : Int) : Int := if waits || decide (0 < n) then owed n else n

/-- REFRESH, R218. A refresh that falls due and is postponed lowers COUNT, which the one issued at once at -8 raises again; one that is issued raises it:
above -8 none is issued while a request waits for the channel, and none is pulled in then or above 8. -/
def execRefresh (die ch : Nat) (act : RefreshAct) (s : State) : Host.Outcome State Fault Refusal :=
  let x := s.die die
  let n := refCount (Tab.get 0 x.refrec ch)
  let waits := s.chanWaits die ch
  let n' : Int := match act with
    | .due => owed n
    | .issue => if n < 0 ∧ (waits = false ∨ n ≤ -8) then n + 1 else n
    | .pullIn => if 0 ≤ n ∧ n < 8 ∧ !waits then n + 1 else n
  .next (if 32 ≤ ch then s else s.setDie die { x with refrec := Tab.set 0 x.refrec ch (refBits n') })

/-- COUNT of every channel of a die, by whether requests wait for the channel. -/
def State.recount (s : State) (die : Nat) (f : Bool → Int → Int) : State :=
  let x := s.die die
  s.setDie die { x with refrec := (List.range 32).foldl (fun t ch =>
    Tab.set 0 t ch (refBits (f (s.chanWaits die ch) (refCount (Tab.get 0 t ch))))) x.refrec }
/-- A refresh falls due on every channel of a die (R218). -/
def State.refreshDie (s : State) (die : Nat) : State := s.recount die dueCount
/-- Channels without a waiting request issue up to k of the refreshes they owe (R218). -/
def State.catchUp (s : State) (die k : Nat) : State := s.recount die (fun w n => if w || decide (0 ≤ n) then n else min 0 (n + k))
/-- The dies on which a due refresh may change a count. -/
def State.refreshes (s : State) : State :=
  (List.range 32).foldl (fun s d =>
    if (s.die d).refrec.isEmpty && !s.reqs.any (fun r => r.homeIs d && !r.performed) then s else s.refreshDie d) s

/-- HOT_ROW_WINDOW_END, R219: the counts start again, and no row is hot. -/
def execHotRowWindowEnd (die : Nat) (s : State) : Host.Outcome State Fault Refusal := .next (s.setDie die { s.die die with hot := [], hotLast := [] })

/-- CLEAR_SWEEP, R225: zeros are written to a line whose bit is set, and the bit clears. -/
def execClearSweep (die line : Nat) (s : State) : Host.Outcome State Fault Refusal :=
  let a := die * 2 ^ 36 + line * 1024
  .next (if s.clearingAt a then (s.activate die a).unclear a else s)
/-- The background sweep of a die, in the bandwidth that demand leaves: its first clearing line, while no request waits at the die (R225). -/
def State.sweepDie (s : State) (die : Nat) : State :=
  match (s.die die).clearing with
  | p :: _ => if s.reqs.any (fun r => r.homeIs die && !r.performed) then s else match execClearSweep die p.1 s with | .next t => t | _ => s
  | [] => s
def State.swept (s : State) : State := s.dies.foldl (fun (s : State) (d : Nat × Die) => s.sweepDie d.1) s

/-- SCRUB, R390. -/
def execScrub (die : Nat) (pa : DWord) (res : ScrubResult) (s : State) : Host.Outcome State Fault Refusal :=
  let a := pa.toNat
  if a / 2 ^ 36 ≠ die then .next s
  else match res with
    | .clean => .next s
    | .corrected => .next (s.countCorrected die false 1)
    | .uncorrectable => .next ((s.setDie die { s.die die with bad := Tab.set 0 (s.die die).bad (a / 256) 1 }).mclog (die * 64) 1 a)

/-! Links. -/

/-- A .spec atomic whose return was on the failed link may be performed again: whether it is, is a free value (12 R244, 21 R364). -/
def State.repeatSpec (s : State) (r : Req) : State :=
  match r.op, r.tgt with
  | .atomic op ty, .mem h =>
    if (Config.freeValue s.free).getLsbD 0 then s.draw.homeAtomic h r op ty else s.draw
  | _, _ => s

/-- A link fails: both ends record it, its routes send FULL next, .spec atomics in flight may be repeated (R364). -/
def State.failLink (s : State) (d port : Nat) : State :=
  ((s.cutLink d port).reqs.filter (fun (r : Req) => r.use == .spec && r.performed &&
    (match r.tgt with | .mem h => s.usesLink r.src h d port || s.usesLink h r.src d port | _ => false))).foldl
      (fun (s : State) (r : Req) => s.repeatSpec r) (s.cutLink d port)

/-- LINK_FAILOVER. -/
def execLinkFailover (die port : Nat) (s : State) : Host.Outcome State Fault Refusal := .next (s.failLink die port)

/-- Failures in a row of a flit on the link at a port. -/
def State.retries (s : State) (die port : Nat) : Nat := if die < 32 then Tab.get 0 (s.die die).retry port else Tab.get 0 (s.io die).retry port
/-- One more. -/
def State.failFlit (s : State) (die port : Nat) : State :=
  if die < 32 then s.setDie die { s.die die with retry := Tab.set 0 (s.die die).retry port (s.retries die port + 1) }
  else s.setIo die { s.io die with retry := Tab.set 0 (s.io die).retry port (s.retries die port + 1) }

/-- FLIT_RETRY: a flit failed its CRC and is resent; the eighth failure in a row fails the link (R359). -/
def execFlitRetry (die port : Nat) (s : State) : Host.Outcome State Fault Refusal :=
  .next (if 8 ≤ s.retries die port + 1 then s.failLink die port else s.failFlit die port)

end Sys2Proof.Machine
end

