-- ==== Sys2Proof/Machine/Special.lean ====
section
/-!
DEFINITION. The special functions of 05 R98 on .f32, correctly rounded under rne.
Reciprocals and square roots are exact quotients and roots with a sticky bit.
The others are computed in fixed point with a bound on the error, and again at twice the precision while the bound
leaves the rounding open; every case whose exact value is representable is taken before.
-/

namespace Sys2Proof

/-- floor(sqrt n) by Newton's iteration from above. -/
def isqrtGo (n : Nat) : Nat → Nat → Nat
  | 0, x => x
  | fuel + 1, x =>
    let y := (x + n / x) / 2
    if y < x then isqrtGo n fuel y else x
def isqrt (n : Nat) : Nat := if n = 0 then 0 else isqrtGo n (bitLen n + 2) (2 ^ (bitLen n / 2 + 1))

/-- Round a magnitude known by its floor in units of 2^e, with a sticky bit for a nonzero rest. -/
def roundSticky (neg : Bool) (m : Nat) (e : Int) (sticky : Bool) : Nat × Fl :=
  Fmt.f32.round .rne false 0 neg (2 * m + (if sticky then 1 else 0)) (e - 1)

/-- 1/a for a = m * 2^e, m > 0. -/
def recipOf (neg : Bool) (m : Nat) (e : Int) : Nat × Fl :=
  let n := 2 ^ (64 + bitLen m)
  roundSticky neg (n / m) (-(64 + bitLen m : Nat) - e) (decide (n % m ≠ 0))

/-- The square root of m * 2^e. -/
def sqrtOf (m : Nat) (e : Int) : Nat × Fl :=
  let k := if e % 2 = 0 then m * 2 ^ 64 else m * 2 ^ 65
  let e' := if e % 2 = 0 then e - 64 else e - 65
  let r := isqrt k
  roundSticky false r (e' / 2) (decide (r * r ≠ k))

/-- 1 / the square root of m * 2^e: the root of 2^k / m, whose square falls short when anything is cut. -/
def rsqrtOf (m : Nat) (e : Int) : Nat × Fl :=
  let k : Nat := if e % 2 = 0 then 160 else 161
  let n := 2 ^ k
  let r := isqrt (n / m)
  roundSticky false r ((-e - k) / 2) (decide (r * r * m ≠ n))

/-- sum of z^(2i+1)/(2i+1), z = a/b in units of 2^-p: the inverse hyperbolic tangent, or with alternating signs the inverse tangent. -/
def atanSeries (p : Nat) (alt : Bool) (zz one : Int) : Nat → Nat → Int → Int → Int
  | 0, _, _, acc => acc
  | fuel + 1, i, t, acc =>
    let term := t / (2 * i + 1 : Nat)
    let acc := if alt && i % 2 == 1 then acc - term else acc + term
    atanSeries p alt zz one fuel (i + 1) (t * zz / one) acc

/-- artanh z, |z| at most 1/3 + 2^-30, or artan z, in units of 2^-p. -/
def atanFix (p : Nat) (alt : Bool) (z : Int) : Int :=
  let one : Int := 2 ^ p
  atanSeries p alt (z * z / one) one (p / 3 + 4) 0 z 0

/-- ln 2 = 2 artanh(1/3), in units of 2^-p. -/
def ln2Fix (p : Nat) : Int := 2 * atanFix p false (2 ^ p / 3)

/-- pi by Machin's formula, in units of 2^-p. -/
def piFix (p : Nat) : Int := 16 * atanFix p true (2 ^ p / 5) - 4 * atanFix p true (2 ^ p / 239)

/-- sum of x^i/i!: the exponential of x, |x| < 1, in units of 2^-p. -/
def expSeries (one x : Int) : Nat → Nat → Int → Int → Int
  | 0, _, _, acc => acc
  | fuel + 1, i, t, acc =>
    let t' := t * x / one / (i : Nat)
    expSeries one x fuel (i + 1) t' (acc + t')
def expFix (p : Nat) (x : Int) : Int := expSeries (2 ^ p) x (p / 3 + 8) 1 (2 ^ p) (2 ^ p)

/-- sum of (-1)^i x^(2i+s)/(2i+s)!: sine (s = 1) or cosine (s = 0) of |x| < 1, in units of 2^-p. -/
def trigSeries (one xx : Int) : Nat → Nat → Int → Int → Int
  | 0, _, _, acc => acc
  | fuel + 1, i, t, acc =>
    let t' := -(t * xx / one / ((i + 1) * (i + 2) : Nat))
    trigSeries one xx fuel (i + 2) t' (acc + t')
def sinFix (p : Nat) (x : Int) : Int := trigSeries (2 ^ p) (x * x / 2 ^ p) (p / 4 + 8) 1 x x
def cosFix (p : Nat) (x : Int) : Int := trigSeries (2 ^ p) (x * x / 2 ^ p) (p / 4 + 8) 0 (2 ^ p) (2 ^ p)

/-- m * 2^e in units of 2^-p, rounded down. -/
def toFix (p : Nat) (m : Nat) (e : Int) : Nat :=
  let k := e + p
  if 0 ≤ k then m * 2 ^ k.toNat else m / 2 ^ (-k).toNat

/-- Ziv's test: round both ends of value ± 2^20 units of 2^-p; take the result when they agree, else double the precision. -/
def ziv (f : Nat → Int) : Nat → Nat → Nat × Fl
  | 0, p => let v := f p; roundSticky (decide (v < 0)) v.natAbs (-(p : Int)) true
  | fuel + 1, p =>
    let v := f p
    let lo := v - 2 ^ 20
    let hi := v + 2 ^ 20
    let a := roundSticky (decide (lo < 0)) lo.natAbs (-(p : Int)) true
    let b := roundSticky (decide (hi < 0)) hi.natAbs (-(p : Int)) true
    if a = b then a else ziv f fuel (2 * p)

/-- 2^x for x = ±m*2^e not an integer, |x| < 256, in units of 2^-p scaled by 2^-n: the integer part n and 2^(x-n). -/
def exp2Frac (neg : Bool) (m : Nat) (e : Int) (p : Nat) : Int :=
  let x : Int := if neg then -(toFix p m e : Int) else toFix p m e
  let fr := x % 2 ^ p
  expFix p (fr * ln2Fix p / 2 ^ p)

/-- Ziv's test at the scale of the result: v * 2^i. -/
def exp2Ziv (f : Nat → Int) (i : Int) : Nat → Nat → Nat × Fl
  | 0, p => roundSticky false (f p).natAbs (i - p) true
  | fuel + 1, p =>
    let a := roundSticky false (f p - 2 ^ 20).natAbs (i - p) true
    let b := roundSticky false (f p + 2 ^ 20).natAbs (i - p) true
    if a = b then a else exp2Ziv f i fuel (2 * p)

/-- The integer value of m * 2^e when it is one. -/
def asInt? (neg : Bool) (m : Nat) (e : Int) : Option Int :=
  if 0 ≤ e then some (let x : Int := (m * 2 ^ e.toNat : Nat); if neg then -x else x)
  else if m % 2 ^ (-e).toNat = 0 then some (let x : Int := (m / 2 ^ (-e).toNat : Nat); if neg then -x else x)
  else none

/-- A power of two as its exponent. -/
def log2Exact? (m : Nat) (e : Int) : Option Int := if m = 2 ^ Nat.log2 m then some (e + (Nat.log2 m : Int)) else none

/-- ln M for M = mant * 2^-k in [1, 2), in units of 2^-p. -/
def lnFix (p mant k : Nat) : Int :=
  let x : Int := mant * 2 ^ p / 2 ^ k
  2 * atanFix p false ((x - 2 ^ p) * 2 ^ p / (x + 2 ^ p))

/-- sin x (`cosine` false) or cos x, x = ±m*2^e, in units of 2^-p. -/
def trigOf (cosine neg : Bool) (m : Nat) (e : Int) (p : Nat) : Int :=
  let g := p + 192
  let x : Int := toFix g m e
  let hp := piFix g / 2
  let n := (x + hp / 2) / hp
  let r := (x - n * hp) / 2 ^ 192
  let k := if cosine then (n + 1) % 4 else n % 4
  let y := if k % 2 = 0 then sinFix p r else cosFix p r
  let y := if k ≥ 2 then -y else y
  if neg && !cosine then -y else y

/-- tanh of m*2^e < 32, in units of 2^-p. -/
def tanhOf (neg : Bool) (m : Nat) (e : Int) (p : Nat) : Int :=
  let y : Int := 2 * (toFix p m e : Int)
  let l := ln2Fix p
  let n := y / l
  let t := expFix p (n * l - y) / 2 ^ n.toNat
  let z := (2 ^ p - t) * 2 ^ p / (2 ^ p + t)
  if neg then -z else z

/-- A value just below ±m*2^e in magnitude, rounded: the result for an argument too small to move the value. -/
def justBelow (neg : Bool) (m : Nat) (e : Int) : Nat × Fl := roundSticky neg (m * 2 ^ 64 - 1) (e - 64) true

/-- The special functions of MAJ 0x16 by their minor opcode, on the bits of a .f32: R98. -/
def specialFn (fn : Nat) (bits : Nat) : Nat × Fl :=
  let f := Fmt.f32
  let nan : Nat := f.nan
  let one : Nat := 0x3F800000
  match f.decode bits with
  | .nan s => (nan, Fl.when s Fl.nv)
  | .inf n =>
    match fn with
    | 0 => (f.sign n 0, 0)
    | 1 => if n then (nan, Fl.nv) else (0, 0)
    | 2 | 4 => if n then (nan, Fl.nv) else (f.infBits false, 0)
    | 3 => if n then (0, 0) else (f.infBits false, 0)
    | 5 | 6 => (nan, Fl.nv)
    | _ => (f.sign n one, 0)
  | .fin n m e =>
    if m = 0 then
      match fn with
      | 0 | 1 => (f.infBits n, Fl.dz)
      | 2 | 5 | 7 => (f.sign n 0, 0)
      | 4 => (f.infBits true, Fl.dz)
      | _ => (one, 0)
    else
      let small := decide (e + (bitLen m : Int) ≤ -13)
      match fn with
      | 0 => recipOf n m e
      | 1 => if n then (nan, Fl.nv) else rsqrtOf m e
      | 2 => if n then (nan, Fl.nv) else sqrtOf m e
      | 3 =>
        match asInt? n m e with
        | some x => f.round .rne false 0 false 1 (max (-5000) (min 5000 x))
        | none =>
          let i : Int := (if n then -(toFix 0 m e : Int) - 1 else toFix 0 m e)
          if i ≥ 200 then roundSticky false 1 200 true
          else if i ≤ -200 then roundSticky false 1 (-200) true
          else exp2Ziv (exp2Frac n m e) i 4 256
      | 4 =>
        if n then (nan, Fl.nv)
        else match log2Exact? m e with
          | some x => f.round .rne false 0 (decide (x < 0)) x.natAbs 0
          | none =>
            let k := Nat.log2 m
            ziv (fun p => (e + k) * 2 ^ p + lnFix p m k * 2 ^ p / ln2Fix p) 4 256
      | 5 => if small then justBelow n m e else ziv (trigOf false n m e) 4 256
      | 6 => if small then justBelow false 1 0 else ziv (trigOf true n m e) 4 256
      | _ =>
        if small then justBelow n m e
        else if e + (bitLen m : Int) ≥ 6 then justBelow n 1 0
        else ziv (tanhOf n m e) 4 256

end Sys2Proof
end

