-- ==== Sys2Proof/Machine/Float.lean ====
section
/-!
DEFINITION. Floating-point arithmetic, compares, conversions, special functions and packed forms (05 R92 to R99, 04 R57 to R72).
-/

namespace Sys2Proof.Machine

/-- RSRC is read only when the rounding in effect is rsr (07 R140). -/
def Ctx.rsrSrc (c : Ctx) : List Src := if c.mode = .rsr then [Src.plain c.x.rsrc 1] else []
/-- The random bits of a lane, R63. -/
def Ctx.rb (c : Ctx) (l : Nat) : Nat := if c.mode = .rsr then (c.rd32 l c.x.rsrc).toNat else 0

/-- A floating form: sources of the stated registers, rounding in effect, a register result with flags. -/
def State.flt (s : State) (i : Instr) (x : Ext) (srcs : List Src) (dk : Dst) (f : Ctx → Nat → Nat × Fl) : Host.Outcome State Fault Refusal :=
  let c := s.ctx i x
  s.runLanes c (srcs ++ c.rsrSrc) dk x.d true (fun l => Eff.f (f c l))

/-- The value of an operand in the form's type. -/
def Ctx.fv (c : Ctx) (l : Nat) (t : Ty) (o : Opnd) : FV := t.fmt.decode (c.rd l t.wide o)

/-- A form that rounds a sum of terms over A and B once (R93). -/
def State.fsum2 (s : State) (i : Instr) (x : Ext) (f : FV → FV → List Term) : Host.Outcome State Fault Refusal :=
  s.flt i x [x.srcA (regsOf x.dty), x.srcB (regsOf x.dty)] (dstOf x.dty) (fun c l =>
    x.dty.fmt.sum c.mode x.sat (c.rb l) (f (c.fv l x.dty x.a) (c.fv l x.dty x.b)))

def faddMeaning (i : Instr) (x : Ext) (s : State) : Host.Outcome State Fault Refusal := s.fsum2 i x (fun a b => [Term.of a, Term.of b])
def execFadd (d a b : Opnd) (s : State) : Host.Outcome State Fault Refusal := faddMeaning (.fadd d a b) (Ext.ofBase 0x10 d a b) s
def execFaddX (x : Ext) (s : State) : Host.Outcome State Fault Refusal := faddMeaning (.faddX x) x s
def execFsub (x : Ext) (s : State) : Host.Outcome State Fault Refusal := s.fsum2 (.fsub x) x (fun a b => [Term.of a, Term.of b.flip])
def fmulMeaning (i : Instr) (x : Ext) (s : State) : Host.Outcome State Fault Refusal := s.fsum2 i x (fun a b => [Term.mul a b])
def execFmul (d a b : Opnd) (s : State) : Host.Outcome State Fault Refusal := fmulMeaning (.fmul d a b) (Ext.ofBase 0x11 d a b) s
def execFmulX (x : Ext) (s : State) : Host.Outcome State Fault Refusal := fmulMeaning (.fmulX x) x s

/-- FFMA: with C unused the old value of D is the addend, read with the block policy (R93). -/
def ffmaMeaning (i : Instr) (x : Ext) (s : State) : Host.Outcome State Fault Refusal :=
  let n := regsOf x.dty
  let add := if x.c = .none then x.d else x.c
  let src := if x.c = .none then Src.plain x.d n else x.srcC n
  s.flt i x [x.srcA n, x.srcB n, src] (dstOf x.dty) (fun c l =>
    x.dty.fmt.sum c.mode x.sat (c.rb l) [Term.mul (c.fv l x.dty x.a) (c.fv l x.dty x.b), Term.of (c.fv l x.dty add)])
def execFfma (d a b : Opnd) (s : State) : Host.Outcome State Fault Refusal := ffmaMeaning (.ffma d a b) (Ext.ofBase 0x12 d a b) s
def execFfmaX (x : Ext) (s : State) : Host.Outcome State Fault Refusal := ffmaMeaning (.ffmaX x) x s

/-- FMIN, FMAX, FMINN and FMAXN: R94. -/
def State.fminmax (s : State) (i : Instr) (x : Ext) (isMax numb : Bool) : Host.Outcome State Fault Refusal :=
  s.flt i x [x.srcA (regsOf x.dty), x.srcB (regsOf x.dty)] (dstOf x.dty) (fun c l =>
    x.dty.fmt.minMax isMax numb (c.rd l x.dty.wide x.a) (c.rd l x.dty.wide x.b))
def fminMeaning (i : Instr) (x : Ext) (s : State) : Host.Outcome State Fault Refusal := s.fminmax i x false false
def execFmin (d a b : Opnd) (s : State) : Host.Outcome State Fault Refusal := fminMeaning (.fmin d a b) (Ext.ofBase 0x13 d a b) s
def execFminX (x : Ext) (s : State) : Host.Outcome State Fault Refusal := fminMeaning (.fminX x) x s
def execFmax (x : Ext) (s : State) : Host.Outcome State Fault Refusal := s.fminmax (.fmax x) x true false
def execFminn (x : Ext) (s : State) : Host.Outcome State Fault Refusal := s.fminmax (.fminn x) x false true
def execFmaxn (x : Ext) (s : State) : Host.Outcome State Fault Refusal := s.fminmax (.fmaxn x) x true true

/-- FCMP, R95, and FCLASS, R96. -/
def fcmpMeaning (i : Instr) (x : Ext) (s : State) : Host.Outcome State Fault Refusal :=
  s.aluPred i x [x.srcA (regsOf x.dty), x.srcB (regsOf x.dty)] (fun c l =>
    x.dty.fmt.cmp x.imm (c.rd l x.dty.wide x.a) (c.rd l x.dty.wide x.b))
def execFcmp (d a b : Opnd) (s : State) : Host.Outcome State Fault Refusal := fcmpMeaning (.fcmp d a b) (Ext.ofBase 0x14 d a b) s
def execFcmpX (x : Ext) (s : State) : Host.Outcome State Fault Refusal := fcmpMeaning (.fcmpX x) x s
def execFclass (x : Ext) (s : State) : Host.Outcome State Fault Refusal :=
  s.aluPred (.fclass x) x [x.srcA (regsOf x.dty), x.srcB 1] (fun c l =>
    ((c.rd32 l x.b).getLsbD (x.dty.fmt.classOf (c.rd l x.dty.wide x.a)), 0))

/-! Conversions, R97. -/

def execFcvt (x : Ext) (s : State) : Host.Outcome State Fault Refusal :=
  s.flt (.fcvt x) x [x.srcA (regsOf x.sty)] (dstOf x.dty) (fun c l => x.dty.fmt.write c.mode x.sat (c.rb l) (c.fv l x.sty x.a))
def execFcvti (x : Ext) (s : State) : Host.Outcome State Fault Refusal :=
  s.flt (.fcvti x) x [x.srcA (regsOf x.sty)] (dstOf x.dty) (fun c l => toIntTy x.dty c.mode x.sat (c.rb l) (c.fv l x.sty x.a))
def execIcvtf (x : Ext) (s : State) : Host.Outcome State Fault Refusal :=
  s.flt (.icvtf x) x [x.srcA (regsOf x.sty)] (dstOf x.dty) (fun c l =>
    x.dty.fmt.write c.mode x.sat (c.rb l) (FV.ofInt (x.sty.readInt (c.rd l x.sty.wide x.a))))
def execFrnd (x : Ext) (s : State) : Host.Outcome State Fault Refusal :=
  s.flt (.frnd x) x [x.srcA (regsOf x.dty)] (dstOf x.dty) (fun c l => x.dty.fmt.rnd c.mode x.sat (c.rb l) (c.rd l x.dty.wide x.a))
def execFscale (x : Ext) (s : State) : Host.Outcome State Fault Refusal :=
  s.flt (.fscale x) x [x.srcA (regsOf x.dty), x.srcB 1] (dstOf x.dty) (fun c l =>
    x.dty.fmt.scale c.mode x.sat (c.rb l) (c.rd l x.dty.wide x.a) (c.rd32 l x.b).toInt)

/-! Special functions, R98: rne, or dyn while GSW.DRM is rne, else ILLEGAL at issue. -/

def State.special (s : State) (i : Instr) (x : Ext) (fn : Nat) : Host.Outcome State Fault Refusal :=
  let c := s.ctx i x
  if c.mode = .rne then s.runLanes c [x.srcA 1] .w32 x.d true (fun l => Eff.f (specialFn fn (c.rd32 l x.a).toNat))
  else .next (s.illegal c)
def execFrcp (d a : Opnd) (s : State) : Host.Outcome State Fault Refusal := s.special (.frcp d a) (Ext.ofBase 0x16 d a .none) 0
def execFrcpX (x : Ext) (s : State) : Host.Outcome State Fault Refusal := s.special (.frcpX x) x 0
def execFrsq (x : Ext) (s : State) : Host.Outcome State Fault Refusal := s.special (.frsq x) x 1
def execFsqrt (x : Ext) (s : State) : Host.Outcome State Fault Refusal := s.special (.fsqrt x) x 2
def execFex2 (x : Ext) (s : State) : Host.Outcome State Fault Refusal := s.special (.fex2 x) x 3
def execFlg2 (x : Ext) (s : State) : Host.Outcome State Fault Refusal := s.special (.flg2 x) x 4
def execFsin (x : Ext) (s : State) : Host.Outcome State Fault Refusal := s.special (.fsin x) x 5
def execFcos (x : Ext) (s : State) : Host.Outcome State Fault Refusal := s.special (.fcos x) x 6
def execFtanh (x : Ext) (s : State) : Host.Outcome State Fault Refusal := s.special (.ftanh x) x 7

/-! Packed forms, R99. -/

/-- Half `e` of a word as a value of a 16-bit format. -/
def half (f : Fmt) (w : Word) (e : Nat) : FV := f.decode (w.toNat / 2 ^ (16 * e) % 2 ^ 16)

def execFdot2 (x : Ext) (s : State) : Host.Outcome State Fault Refusal :=
  s.flt (.fdot2 x) x [x.srcA 1, x.srcB 1, x.srcC 1] .w32 (fun c l =>
    let p := fun e => Term.mul (half x.sty.fmt (c.rd32 l x.a) e) (half x.sty.fmt (c.rd32 l x.b) e)
    Fmt.f32.dotSum c.mode (c.rb l) [p 0, p 1, Term.of (c.fv l .f32 x.c)])

/-- The format of the packed forms: .bf16 unless .f16 is named (R92). -/
def packFmt (x : Ext) : Fmt := if x.dty = .f16 then Fmt.f16 else Fmt.bf16
/-- A packed form: element e rounded on its own with the random bits rotated by e. -/
def State.packed (s : State) (i : Instr) (x : Ext) (srcs : List Src) (f : Ctx → Nat → Nat → List Term) : Host.Outcome State Fault Refusal :=
  s.flt i x srcs .w32 (fun c l =>
    let r := fun e => (packFmt x).sum c.mode false (rotRb (c.rb l) e) (f c l e)
    ((r 0).1 + 2 ^ 16 * (r 1).1, (r 0).2 ||| (r 1).2))
def execFma2 (x : Ext) (s : State) : Host.Outcome State Fault Refusal :=
  s.packed (.fma2 x) x [x.srcA 1, x.srcB 1, x.srcC 1] (fun c l e =>
    [Term.mul (half (packFmt x) (c.rd32 l x.a) e) (half (packFmt x) (c.rd32 l x.b) e), Term.of (half (packFmt x) (c.rd32 l x.c) e)])
def execFadd2 (x : Ext) (s : State) : Host.Outcome State Fault Refusal :=
  s.packed (.fadd2 x) x [x.srcA 1, x.srcB 1] (fun c l e =>
    [Term.of (half (packFmt x) (c.rd32 l x.a) e), Term.of (half (packFmt x) (c.rd32 l x.b) e)])
def execFmul2 (x : Ext) (s : State) : Host.Outcome State Fault Refusal :=
  s.packed (.fmul2 x) x [x.srcA 1, x.srcB 1] (fun c l e =>
    [Term.mul (half (packFmt x) (c.rd32 l x.a) e) (half (packFmt x) (c.rd32 l x.b) e)])
/-- DOT4: four byte products, each operand signed by IMM, and the addend (R72, R99). -/
def execDot4 (x : Ext) (s : State) : Host.Outcome State Fault Refusal :=
  s.alu (.dot4 x) x [x.srcA 1, x.srcB 1, x.srcC 1] .w32 (fun c l =>
    let byte := fun (w : Word) (sg : Bool) k => (if sg then Ty.s8 else Ty.u8).readInt (w.toNat / 2 ^ (8 * k))
    let p := fun k => byte (c.rd32 l x.a) (bitAt x.imm 0) k * byte (c.rd32 l x.b) (bitAt x.imm 1) k
    Eff.v (Ty.s32.intResult x.sat (p 0 + p 1 + p 2 + p 3 + (c.rd32 l x.c).toInt)))

end Sys2Proof.Machine
end

