-- ==== Sys2Proof/Machine/IoOps.lean ====
section
/-!
DEFINITION. The ordering points of the I/O dies (21 R363, R365, R366), requests from endpoints (16 R299, R303 to R307, 23 R381), Clasp (16 R312 to R315),
IDE and PTM (R318), removal (R311), remote writes and reductions (21 R369 to R372).
-/

namespace Sys2Proof.Machine

/-! Whose requests these are. -/

/-- The world a virtual device is bound to; world 0 for none (23 R380, R381). -/
def State.worldOfVdev (s : State) (v : BitVec 8) : BitVec 12 :=
  match s.worlds.find? (fun p => p.2.keyed && p.2.vdevs.getLsbD v.toNat) with
  | some p => BitVec.ofNat 12 p.1
  | none => 0

/-- A selective stream of the port, 1 to 8, is keyed for a world (16 R318). -/
def State.ideKeyed (s : State) (port : Nat) (w : BitVec 12) (k : Nat) : Bool :=
  w != 0 && decide (1 ≤ k) && decide (k ≤ 8) && Tab.get none (s.io (ioOfPort port)).ide (port * 16 + k) == some w
/-- Some stream is: the world's requesters must use one of them. -/
def State.ideBound (s : State) (port : Nat) (w : BitVec 12) : Bool := [1, 2, 3, 4, 5, 6, 7, 8].any (s.ideKeyed port w)

/-- ACS source validation: the bus number of the requester lies among those below its port (R299). -/
def State.acsPasses (s : State) (q : Tlp) : Bool :=
  match Tab.get none (s.io (ioOfPort q.port)).acs q.port with
  | some (lo, hi) => decide (lo ≤ q.rid.toNat / 256) && decide (q.rid.toNat / 256 ≤ hi)
  | none => true

/-- The RQT entry lets the request pass: its source is valid, its world is the one bound to its virtual device, it came under the stream bound to its world
(R299, R318, 23 R381). -/
def State.entryPasses (s : State) (q : Tlp) : Bool :=
  let w := (s.rqt q.port q.rid.toNat).1
  s.acsPasses q && s.worldOfVdev (rqtVdev w) == rqtWorld w && (q.protectedIde.any (s.ideKeyed q.port (rqtWorld w)) || !s.ideBound q.port (rqtWorld w))

/-- The space of an untranslated request (R304 step 1). -/
def State.inboundSpace (s : State) (q : Tlp) : Option (BitVec 12) :=
  let w := s.rqt q.port q.rid.toNat
  if !rqtV w.1 || !s.entryPasses q then none
  else match q.pasid with
    | none => some (BitVec.ofNat 12 (rqtDasid w.1))
    | some p =>
      let e := s.pasidWord q.port q.rid.toNat p.toNat
      if rqtPen w.1 && bitAt e 31 then some (BitVec.ofNat 12 (bitsOf e 11 0)) else none

/-- What an inbound translation or request comes to: an answer; a refusal, with whether a read of the request completes with Completer Abort (18 R333,
23 R388); or a wait for a write that a table read must see (12 R238). -/
inductive Inb (α : Type) where
  | ok (x : α)
  | refuse (abort : Bool)
  | wait
  deriving DecidableEq, Repr

/-- The reader that an inbound request's walk is. -/
def State.inboundReader (s : State) (q : Tlp) (asid : BitVec 12) : Reader :=
  { src := ioOfPort q.port, level := 1, asid := asid, gen := (s.space asid.toNat).gen, world := rqtWorld (s.rqt q.port q.rid.toNat).1 }

/-- A walk for an inbound request ends in a fault: an error is logged at its home (18 R333), a tag that does not match halts the world (23 R388). -/
def State.inboundFault (s : State) (r : Reader) (cause at_ : Nat) : State :=
  let h := homeOf (s.pool r.src) at_
  if cause = cIntegrity then s.haltWorld r.world (BitVec.ofNat 64 at_)
  else if cause = cMachineCheck then s.mclog (h * 64) (s.readSrc r.src at_ r.world) (localOf (s.pool r.src) at_) else s
/-- The fault of a walk makes a read abort: an error, or a halted world. -/
def State.inboundAborts (s : State) (r : Reader) (cause : Nat) : Bool :=
  cause == cMachineCheck || cause == cIntegrity || (r.world != 0 && (s.world r.world.toNat).halted)

/-- A leaf of the inbound TLB, or of a walk that fills it (R304). -/
def State.inboundLeaf (s : State) (q : Tlp) (asid : BitVec 12) : Inb TlbEntry × State :=
  let io := ioOfPort q.port
  let va := q.addr.toNat
  if 2 ^ 56 ≤ va then (.refuse false, s)
  else match (s.io io).tlb.find? (fun e => e.covers asid va) with
    | some e => (.ok e, s)
    | none =>
      let r := s.inboundReader q asid
      match s.walkFrom r va 5 (s.space asid.toNat).root.toNat with
      | (.leaf e, _, s1) => (.ok e, s1.setIo io { s1.io io with tlb := tlbPut 4096 (s1.io io).tlb e })
      | (.fault cause at_, _, s1) => (.refuse (s1.inboundAborts r cause), s1.inboundFault r cause at_)
      | (.wait, _, _) => (.wait, s)

/-- What an inbound request comes to: its physical address, with its space and generation. -/
def State.inbound (s : State) (q : Tlp) (write : Bool) : Inb (Nat × Option (BitVec 12 × BitVec 10)) × State :=
  let w := (s.rqt q.port q.rid.toNat).1
  let pool := s.pool (ioOfPort q.port)
  if q.translated then
    let pa := q.addr.toNat
    let ok := rqtV w && rqtAte w && !Tab.get false (s.io (ioOfPort q.port)).noAte (fnKey q.port q.rid.toNat) && s.entryPasses q &&
      (match regionOf pool pa with | .hbm _ | .cxl => true | _ => false)
    (if ok then .ok (pa, none) else .refuse false, s)
  else match s.inboundSpace q with
    | none => (.refuse false, s)
    | some asid =>
      match s.inboundLeaf q asid with
      | (.wait, _) => (.wait, s)
      | (.refuse b, s1) => (.refuse b, s1)
      | (.ok e, s1) =>
        let pa := ptePfn e.leaf.toNat + (q.addr.toNat - e.vbase)
        (if grants e.leaf.toNat (if write then .store else .load) 1 && (regionOf pool pa).memory then .ok (pa, some (asid, (s1.space asid.toNat).gen)) else .refuse false, s1)

/-! The ordering point. -/

def State.setEntries (s : State) (io : Nat) (es : List OpEntry) : State := s.setIo io { s.io io with entries := es }

/-- The ordering point can accept: it holds fewer than 1,024 entries (R365), and its counter is not too far ahead of a home (12 R237). -/
def State.opAccepts (s : State) (io : Nat) : Bool := decide ((s.io io).entries.length < 1024) && !s.farAheadBy io 1

/-- A request from a port whose device was removed shows that one has been inserted (R299, assumption 97). -/
def State.plugIn (s : State) (port : Nat) : State :=
  if Tab.get false (s.io (ioOfPort port)).removed port then
    s.setIo (ioOfPort port) { s.io (ioOfPort port) with removed := Tab.set false (s.io (ioOfPort port)).removed port false }
  else s

/-- The table words that a request's entry and PASID name, with their sizes (R304). -/
def State.lookups (s : State) (q : Tlp) : List (Nat × Nat) :=
  let w := s.rqt q.port q.rid.toNat
  (s.rqtEntry q.port q.rid.toNat, 16) :: (match q.pasid with | some p => if rqtV w.1 && rqtPen w.1 then [(w.2 + 4 * p.toNat, 4)] else [] | none => [])
/-- The writes that the reads of a request's table words must see are applied (12 R238). -/
def State.looksReady (s : State) (q : Tlp) : Bool := (s.lookups q).all (fun a => s.tableReady (ioOfPort q.port) a.1)
/-- A request's port has a device, and its I/O die has read the request's table words. -/
def State.looked (s : State) (q : Tlp) : State := (s.lookups q).foldl (fun s a => s.tableLook (ioOfPort q.port) a.1 a.2) (s.plugIn q.port)

/-- A request a port can deliver: one page, at most `most` bytes (16 R299), from a port that is not contained. -/
def State.delivers (s : State) (port : Nat) (addr : Nat) (len most : Nat) : Bool :=
  decide (port < 32) && !Tab.get false (s.io (ioOfPort port)).contained port && decide (0 < len) && decide (len ≤ most) && decide (addr % 4096 + len ≤ 4096)

/-- The parts of a write: cut where the home may change (R365). -/
def State.split (s : State) (io : Nat) (pa : Nat) (data : List Byte) (world : BitVec 12) (asid : Option (BitVec 12 × BitVec 10)) (red : Option (Nat × Nat))
    (stamp : Tab (BitVec 24)) : List Part :=
  let pool := s.pool io
  let n := 1024 - pa % 1024
  let part (a : Nat) (bs : List Byte) : Part := { home := homeOf pool a, pa := a, lpa := localOf pool a, data := bs, world := world, asid := asid, red := red, stamp := stamp }
  if data.length ≤ n then [part pa data] else [part pa (data.take n), part (pa + n) (data.drop n)]

/-- A write takes its number and its parts, and waits for their acknowledgement. -/
def State.opWrite (s : State) (io : Nat) (pa : Nat) (data : List Byte) (world : BitVec 12) (asid : Option (BitVec 12 × BitVec 10)) (red : Option (Nat × Nat))
    (entry : BitVec 24 → List Part → OpEntry) : State :=
  let (n, s) := s.nextNum io
  s.setEntries io ((s.io io).entries ++ [entry n (s.split io pa data world asid red (s.kvec io))])

/-- Why a home rejects an inbound request (11 R222, 18 R333, 23 R378, R384, R388); a translated request carries no generation. -/
def State.inboundRefuses (s : State) (h lpa : Nat) (world : BitVec 12) (asid : Option (BitVec 12 × BitVec 10)) (reads : Bool) : Option Nat :=
  match asid with
  | some (a, g) => s.homeRefuses h lpa 1 a g world reads
  | none => s.homeRefuses h lpa 1 0 (s.space 0).gen world reads

/-- The operation and type of a reduction window, 21 R369: sum, minimum or maximum. -/
def redAtom (op : Nat) (ty : Nat) : AtomOp × Ty :=
  if ty = 0xA then (if op = 0 then .fadd else if op = 1 then .fmin else .fmax, .f32)
  else (if op = 0 then .add else if op = 1 then .min else .max, if ty = 6 then .u32 else .s32)

/-- Four bytes after a member of a reduction is applied to them. -/
def redWord (red : Nat × Nat) (old new : List Byte) : List Byte :=
  let (op, ty) := redAtom red.1 red.2
  bytesLE 4 ((atomNew op ty 4 (ofBytesLE old) (ofBytesLE new) 0).getD 0)

/-- Element by element (R372). -/
def redBytes (red : Nat × Nat) : Nat → List Byte → List Byte → List Byte
  | 0, _, _ => []
  | n + 1, old, new => redWord red (old.take 4) (new.take 4) ++ redBytes red n (old.drop 4) (new.drop 4)

/-- A part is applied at its home, or rejected there and logged (R304). -/
def State.applyPart (s : State) (io : Nat) (num : BitVec 24) (port : Nat) (p : Part) : State :=
  let l := p.lpa
  let s := (s.carried io p.home p.stamp).travels p.home io
  if cxlHole p.pa then (s.logHole p.pa).applied p.home io (some num) p.stamp true
  else match s.inboundRefuses p.home l p.world p.asid p.red.isSome with
  | some cause =>
    let s1 := (s.rperr port 4 (p.pa % 2 ^ 32)).applied p.home io (some num) [] false
    if cause = cIntegrity then s1.haltWorld p.world (BitVec.ofNat 64 p.pa) else s1
  | none =>
    let bs := match p.red with | some r => redBytes r (p.data.length / 4) (s.bytesAt l p.data.length) p.data | none => p.data
    (s.homeStores p.home (pieces 256 l bs.length) bs).applied p.home io (some num) p.stamp true

/-- The port of a write's entry. -/
def OpEntry.port : OpEntry → Nat
  | .write _ p _ => p
  | .remote _ r _ _ => r.port
  | .read q .. => q.port
  | .msg q .. => q.port
  | .page q .. => q.port
  | .revoke _ => 0
def OpEntry.setParts (e : OpEntry) (ps : List Part) : OpEntry :=
  match e with
  | .write n p _ => .write n p ps
  | .remote n r k _ => .remote n r k ps
  | e => e
/-- An entry's parts for a home that an acknowledgement of `num` covers. -/
def OpEntry.due (e : OpEntry) (home : Nat) (num : BitVec 24) : List (BitVec 24 × Part) :=
  e.parts.filter (fun p => p.2.home == home && serialGe num p.1)

/-- A store of a system core with a lower number on the same counter is not performed at the home: a part waits for it (12 R238, 22 R374). -/
def State.coreBefore (s : State) (io home : Nat) (n : BitVec 24) : Bool :=
  s.reqs.any (fun r => r.src == io && r.homeIs home && !r.performed && (match r.num with | some m => m != n && serialGe n m | none => false))

/-- The entries' writes to a home numbered at or below `num` are applied in order, as far as the home may apply them (12 R238). -/
def applyEntries (io home : Nat) (num : BitVec 24) : List OpEntry → State → List OpEntry × State
  | [], s => ([], s)
  | e :: r, s =>
    let ps := e.due home num
    if ps.all (fun p => s.covers home io p.2.stamp && !s.coreBefore io home p.1) then
      let s1 := ps.foldl (fun s p => s.applyPart io p.1 e.port p.2) s
      let (r2, s2) := applyEntries io home num r s1
      ((if ps.isEmpty then e else e.setParts ((e.parts.map Prod.snd).filter (fun p => p.home != home))) :: r2, s2)
    else (e :: r, s)

/-- A retired write. -/
def OpEntry.retired : OpEntry → Bool
  | .write _ _ [] | .remote _ _ _ [] => true
  | _ => false
def OpEntry.ofWindow (e : OpEntry) (w : BitVec 12) : Bool := match e with | .remote _ r _ _ => r.win == w.toNat | _ => false
/-- A revocation is over once no earlier write to its window stands (21 R371). -/
def dropRevokes (es : List OpEntry) : List OpEntry :=
  es.foldl (fun kept e => match e with | .revoke w => if kept.any (fun k => k.ofWindow w) then kept ++ [e] else kept | e => kept ++ [e]) []

/-- Entries whose parts are acknowledged retire; remote writes are acknowledged to their packages (R365, R370, R371). -/
def State.retire (s : State) (io : Nat) : State :=
  let es := (s.io io).entries
  let s := es.foldl (fun s e => match e with | .remote n r pkgs [] => pkgs.foldl (fun s p => s.send r.port p 9 (bytesLE 3 n.toNat)) s | _ => s) s
  let left := dropRevokes (es.filter (fun e => !e.retired))
  let busy := left.any (fun e => match e with | .revoke _ => true | _ => false)
  let x := s.io io
  s.setIo io { x with entries := left, rwrstat := if busy then x.rwrstat else x.rwrstat &&& ~~~(1#64 <<< 63) }

/-- The performed writes of a die to a home that an acknowledgement covers (R363). -/
def State.ackedReqs (s : State) (src home : Nat) (num : BitVec 24) : List Req :=
  s.reqs.filter (fun r => r.src == src && r.homeIs home && r.performed && (match r.num with | some m => serialGe num m | none => false))

/-- WRITE_ACK: a home acknowledges the writes of a source up to a number, those of an I/O die's ordering point and those of its system cores alike (R363). -/
def execWriteAck (src home : Nat) (num : BitVec 24) (s : State) : Host.Outcome State Fault Refusal :=
  let acks (s : State) : State := if s.unappliedTo src home num then s else (s.ackedReqs src home num).foldl (fun s r => s.acked r) s
  if src < 32 then .next (acks s)
  else
    let (es, s1) := applyEntries src home num (s.io src).entries s
    .next (acks ((s1.setEntries src es).retire src))

/-! Requests of endpoints. -/

def inClasp (a : Nat) : Bool := decide (0x0E8000000000 ≤ a) && decide (a < 0x0E8000100000)

/-- The number of the Clasp entry that an address names, with the I/O die that holds it (R312). -/
def claspAt (addr : DWord) : Nat × Nat :=
  let i := (addr.toNat - 0x0E8000000000) / 16
  (if i < 32768 then 32 else 33, i % 32768)

/-- A message with the words of its entry as they stand when it arrives (R312). -/
def State.claspMessage (s : State) (q : Tlp) (data : List Byte) : OpEntry :=
  let w := (s.rqt q.port q.rid.toNat).1
  let (io, i) := claspAt q.addr
  .msg q data (rqtVdev w) (rqtWorld w) (Tab.get 0 (s.io io).clt i) (Tab.get 0 (s.io io).cltt i)

/-- INBOUND_POSTED_WRITE, R304, R312, R365. -/
def execInboundPostedWrite (q : Tlp) (data : List Byte) (s : State) : Host.Outcome State Fault Refusal :=
  let io := ioOfPort q.port
  let w := (s.rqt q.port q.rid.toNat).1
  if !(s.delivers q.port q.addr.toNat data.length 512 && s.opAccepts io && s.looksReady q) then .next s
  else if inClasp q.addr.toNat then
    .next (if s.entryPasses q then (s.looked q).setEntries io (((s.looked q).io io).entries ++ [s.claspMessage q data])
      else (s.looked q).rperr q.port 4 (q.addr.toNat % 2 ^ 32))
  else match (s.looked q).inbound q true with
    | (.ok (pa, asid), s1) => .next (s1.opWrite io pa data (rqtWorld w) asid none (fun n ps => .write n q.port ps))
    | (.refuse _, s1) => .next (s1.rperr q.port 4 (q.addr.toNat % 2 ^ 32))
    | (.wait, _) => .next s

/-- The first sector of a read that its home refuses, with the cause. -/
def State.readRefused (s : State) (io : Nat) (world : BitVec 12) (asid : Option (BitVec 12 × BitVec 10)) (pa len : Nat) : Option (Nat × Nat) :=
  let pool := s.pool io
  (pieces 256 pa len).findSome? (fun p =>
    if cxlHole p.1 then none else (s.inboundRefuses (homeOf pool p.1) (localOf pool p.1) world asid true).map (fun c => (c, p.1)))

/-- The answer to a read: its data; Completer Abort for a halted world, an uncorrectable error or a tag that does not match, else Unsupported Request (R304,
18 R333, 23 R378, R388). -/
def State.answerRead (s : State) (io : Nat) (q : Tlp) (len : Nat) (world : BitVec 12) (asid : Option (BitVec 12 × BitVec 10)) (pa : Nat) : State :=
  let pool := s.pool io
  if world != 0 && (s.world world.toNat).halted then s.send q.port q.rid.toNat 7 []
  else match s.readRefused io world asid pa len with
    | some (cause, p) =>
      let h := homeOf pool p
      if cause = cMachineCheck then (s.mclog (h * 64) (s.errSrc h (localOf pool p)) (localOf pool p)).send q.port q.rid.toNat 7 []
      else if cause = cIntegrity then (s.haltWorld world (BitVec.ofNat 64 p)).send q.port q.rid.toNat 7 []
      else (s.rperr q.port 4 (q.addr.toNat % 2 ^ 32)).send q.port q.rid.toNat 6 []
    | none =>
      let (bs, s1) := s.agentRead io pool pa len
      s1.send q.port q.rid.toNat 1 bs

/-- A request that its entry or translation refuses: Completer Abort, or Unsupported Request with a record (R304, 18 R333, 23 R388). -/
def State.refuseRead (s : State) (q : Tlp) (abort : Bool) : State :=
  if abort then s.send q.port q.rid.toNat 7 [] else (s.rperr q.port 4 (q.addr.toNat % 2 ^ 32)).send q.port q.rid.toNat 6 []

def OpEntry.isRead : OpEntry → Bool | .read .. => true | _ => false
def OpEntry.isMsg : OpEntry → Bool | .msg .. => true | _ => false
/-- A read accepted now may be answered: what K_io covers is applied, and no Clasp message stands before it in the order (R366, 16 R312). -/
def State.readsNow (s : State) (io : Nat) : Bool := s.settled io && !(s.io io).entries.any OpEntry.isMsg

/-- INBOUND_READ, R304, R366: it waits until the writes that K_io covers, and the messages before it, are applied. -/
def execInboundRead (q : Tlp) (len : Nat) (s : State) : Host.Outcome State Fault Refusal :=
  let io := ioOfPort q.port
  let w := (s.rqt q.port q.rid.toNat).1
  if !(s.delivers q.port q.addr.toNat len 4096 && s.opAccepts io && s.looksReady q) then .next s
  else if inClasp q.addr.toNat then .next ((s.looked q).refuseRead q false)
  else match (s.looked q).inbound q false with
    | (.wait, _) => .next s
    | (.refuse abort, s1) => .next (s1.refuseRead q abort)
    | (.ok (pa, asid), s1) =>
      .next (if s1.readsNow io then s1.answerRead io q len (rqtWorld w) asid pa
        else s1.setEntries io ((s1.io io).entries ++ [.read q len (rqtWorld w) asid pa]))

/-- The entries of an ordering point before the first Clasp message. -/
def State.beforeMsg (s : State) (io : Nat) : List OpEntry := (s.io io).entries.takeWhile (fun e => !e.isMsg)
/-- The reads of an ordering point that wait are answered once everything they stand behind is applied. -/
def State.finishReads (s : State) (io : Nat) : State :=
  if !s.settled io then s
  else
    let front := s.beforeMsg io
    let s1 := s.setEntries io (front.filter (fun e => !e.isRead) ++ (s.io io).entries.drop front.length)
    front.foldl (fun s e => match e with | .read q len w a pa => s.answerRead io q len w a pa | _ => s) s1
def State.readsDue (s : State) (io : Nat) : Bool := (s.beforeMsg io).any OpEntry.isRead && s.settled io

/-! Address services. -/

/-- ATS_TRANSLATION_REQUEST, R305: the completion names the page, its size up to 128 MiB, and the permissions. -/
def execAtsTranslationRequest (q : Tlp) (s : State) : Host.Outcome State Fault Refusal :=
  let w := (s.rqt q.port q.rid.toNat).1
  if !(s.delivers q.port 0 1 512 && s.looksReady q) then .next s
  else if !rqtAte w || Tab.get false (s.io (ioOfPort q.port)).noAte (fnKey q.port q.rid.toNat) then .next ((s.looked q).refuseRead q false)
  else match s.inboundSpace q with
    | none => .next ((s.looked q).refuseRead q false)
    | some asid =>
      match (s.looked q).inboundLeaf q asid with
      | (.wait, _) => .next s
      | (.refuse abort, s1) => .next (s1.refuseRead q abort)
      | (.ok e, s1) =>
        let l := e.leaf.toNat
        let sz := min e.sz 27
        let pa := ptePfn l + (q.addr.toNat - e.vbase) / 2 ^ sz * 2 ^ sz
        let dev := pteMt l == 1 || !(regionOf (s.pool (ioOfPort q.port)) pa).memory
        let perm := if dev then 0 else (if pteR l then 1 else 0) + (if pteW l then 2 else 0)
        .next (s1.send q.port q.rid.toNat 2 (bytesLE 8 (if dev then 0 else pa) ++ bytesLE 8 (2 ^ sz) ++ bytesLE 1 perm))

/-- The first outstanding invalidation of a function goes. -/
def dropInval (f : Nat) : List (Nat × Nat × Nat) → List (Nat × Nat × Nat)
  | [] => []
  | p :: r => if p.1 = f then r else p :: dropInval f r

/-- A TLBI goes on once its invalidations are complete (R306). -/
def State.tlbiDone (s : State) (gid : Nat) : State := if (s.group gid).wait == .tlbi && !s.invalsOf gid then s.finishWait gid else s

/-- Outstanding invalidations of a function go by `f`; the groups they held go on. -/
def State.endInvals (s : State) (port rid : Nat) (f : List (Nat × Nat × Nat) → List (Nat × Nat × Nat)) : State :=
  let io := ioOfPort port
  let old := (s.io io).inval
  let s1 := s.setIo io { s.io io with inval := f old }
  ((old.filter (fun p => p.1 == fnKey port rid)).map (fun p => p.2.1)).foldl (fun s g => s.tlbiDone g) s1

/-- ATS_INVALIDATION_COMPLETION, R306. -/
def execAtsInvalidationCompletion (port : Nat) (rid : BitVec 16) (s : State) : Host.Outcome State Fault Refusal :=
  .next (s.endInvals port rid.toNat (dropInval (fnKey port rid.toNat)))

/-- ATS_INVALIDATION_TIMEOUT, R306: 2^22 cycles after a request without its completion the function counts as ATE = 0. -/
def execAtsInvalidationTimeout (port : Nat) (rid : BitVec 16) (s : State) : Host.Outcome State Fault Refusal :=
  let f := fnKey port rid.toNat
  let io := ioOfPort port
  if (s.io io).inval.any (fun p => p.1 == f && decide (p.2.2 + 2 ^ 22 ≤ s.cycles)) then
    let s1 := (s.setIo io { s.io io with noAte := Tab.set false (s.io io).noAte f true }).rperr port 5 0
    .next (s1.endInvals port rid.toNat (fun l => l.filter (fun p => p.1 != f)))
  else .next s

/-- The response that a port sends: requester, port, code, PASID, PRG index (R307). -/
def prgResponse (q : Tlp) (code : Nat) (prg : Nat) : List Byte :=
  bytesLE 8 (q.rid.toNat * 2 ^ 48 + q.port % 256 * 2 ^ 40 + code * 2 ^ 36 + (match q.pasid with | some p => p.toNat | none => 0) * 2 ^ 12 + prg)

/-- PAGE_REQUEST: from a requester with PRE = 1 it takes its place in the order of the port (R307). One from a requester whose entry has V = 0 or PRE = 0 is
discarded and logged with reason 4, and gets no response (DESIGN CHOICE, assumption 113). -/
def execPageRequest (q : Tlp) (rd wr last : Bool) (prg : BitVec 9) (s : State) : Host.Outcome State Fault Refusal :=
  let io := ioOfPort q.port
  let w := (s.rqt q.port q.rid.toNat).1
  let b (x : Bool) (n : Nat) : Nat := if x then 2 ^ n else 0
  if !(s.delivers q.port 0 1 512 && s.opAccepts io && s.looksReady q) then .next s
  else if rqtV w && rqtPre w && s.entryPasses q then
    .next ((s.looked q).setEntries io ((s.io io).entries ++ [.page q
      (BitVec.ofNat 64 (q.addr.toNat / 4096 * 4096 + b rd 11 + b wr 10 + b last 9 + prg.toNat))
      (BitVec.ofNat 64 (q.rid.toNat * 2 ^ 48 + q.port % 256 * 2 ^ 40 + (match q.pasid with | some p => p.toNat | none => 0)))]))
  else .next ((s.looked q).rperr q.port 4 (q.addr.toNat % 2 ^ 32))

/-- The system core that a number of 0 to 31 names (R313, R307). -/
def sysCoreNo (n : Nat) : Nat := (32 + n / 16 % 2) * 64 + n % 16

/-- A page request at the head of the order is written into the ring, or is answered with the failure code when the ring is full (R307), or when the home
refuses the place, which lies in the private region (23 R378, assumption 98). -/
def State.applyPage (s : State) (io : Nat) : State :=
  match (s.io io).entries with
  | .page q w0 w1 :: r =>
    if !s.settled io then s
    else
      let s1 := s.setEntries io r
      let c := (s.io io).prqctl.toNat
      let n := bitsOf c 31 16
      let tail := bitsOf c 63 48
      let at_ := (s.io io).prqbase.toNat + 16 * tail
      if n ≤ 1 ∨ (tail + 1) % n = bitsOf c 47 32 ∨ s.refuses 2 0 (localOf (s.pool io) at_) = true then s1.send q.port q.rid.toNat 4 (prgResponse q 0xF (w0.toNat % 512))
      else
        let s2 := s1.agentWrite io (s1.pool io) at_ (bytesLE 8 w0.toNat ++ bytesLE 8 w1.toNat)
        let s3 := s2.setIo io { s2.io io with prqctl := BitVec.ofNat 64 (putBits c 63 48 ((tail + 1) % n)) }
        (s3.setIpend (sysCoreNo (bitsOf c 4 0)) 63).wakeCore (sysCoreNo (bitsOf c 4 0))
  | _ => s
def State.pageDue (s : State) (io : Nat) : Bool := match (s.io io).entries with | .page .. :: _ => s.settled io | _ => false

/-! Messages, time, protection, removal. -/

/-- INTX_MESSAGE: discarded and logged (R299). -/
def execIntxMessage (port : Nat) (s : State) : Host.Outcome State Fault Refusal := .next (s.rperr port 6 0)
/-- PTM_REQUEST: the counter in nanoseconds (R318). -/
def execPtmRequest (port : Nat) (s : State) : Host.Outcome State Fault Refusal := .next (s.send port 0 5 (bytesLE 8 (s.clock * 5 / 3)))
/-- IDE_CHECK_FAILURE: the request is discarded and logged (R318). -/
def execIdeCheckFailure (q : Tlp) (s : State) : Host.Outcome State Fault Refusal := .next (s.rperr q.port 4 (q.addr.toNat % 2 ^ 32))

/-- The port whose window the entry of a Bezel page names; none for a target outside the PCIe windows. -/
def State.bezelPort (s : State) (page : Nat) : Option Nat :=
  let t := (Tab.get 0 (s.io (if page < 32768 then 32 else 33)).bzt (page % 32768)).toNat
  if 0x0C0000000000 ≤ t ∧ t < 0x0E0000000000 then some ((t - 0x0C0000000000) / 2 ^ 36) else none

/-- SURPRISE_REMOVAL: the port has no device from now on; stores held for it are discarded (R311). -/
def execSurpriseRemoval (port : Nat) (s : State) : Host.Outcome State Fault Refusal :=
  let io := ioOfPort port
  let s1 := s.setIo io { s.io io with removed := Tab.set false (s.io io).removed port true }
  let held := s1.reqs.filter (fun r => !r.performed && !r.isLoad && (match r.tgt with | .bezel p => decide (p < 65536) && s1.bezelPort p == some port | _ => false))
  .next (held.foldl (fun s r => match r.tgt with
    | .bezel p => (s.bezerr io 4 (p % 32768) r.data.toNat).dropReq r.id
    | _ => s) s1)

/-! Clasp. -/

def cltKind (w : Nat) : Nat := bitsOf w 62 61
def cltVdev (w : Nat) : BitVec 8 := BitVec.ofNat 8 (bitsOf w 23 16)

/-- The reason for which a message is dropped whatever its target holds; 0 for none (R312, R315). -/
def claspDrop (w t len : Nat) (vdev : BitVec 8) : Nat :=
  let k := cltKind w
  let o := t % 2 ^ 24 - 0x100000
  let inSpad := decide (0x0F0000000000 ≤ t) && decide (t < 0x0F2000000000) && decide ((t - 0x0F0000000000) % 2 ^ 32 < 0x40000000) &&
    decide (0x100000 ≤ t % 2 ^ 24) && decide (o < 0x40000) && t % 16 == 0
  let inMem := (match regionOf 0 t with | .hbm _ | .cxl => true | _ => false) && t % 4 == 0
  if !bitAt w 63 || k == 3 || (k == 0 && !inSpad) || (k == 1 && !inMem) then 1
  else if len ≠ 4 then 2
  else if k ≠ 0 && cltVdev w != vdev then 4
  else if k == 2 && decide (32 ≤ t) then 6
  else 0

/-- A message as its ordering point applies it: its request, the number of its entry with the I/O die that holds it, the words of the entry, the data, the
requester's virtual device and world. -/
structure Message where
  q : Tlp
  io : Nat
  idx : Nat
  clt : Nat
  target : Nat
  data : List Byte
  vdev : BitVec 8
  world : BitVec 12
  deriving DecidableEq, Repr
def Message.kind (m : Message) : Nat := cltKind m.clt
def Message.x (m : Message) : Nat := ofBytesLE (m.data.take 4)

/-- The message at the head of the order of an ordering point (R314). -/
def State.claspHead (s : State) (io : Nat) : Option Message :=
  match (s.io io).entries with
  | .msg q d v w c t :: _ =>
    some { q := q, io := (claspAt q.addr).1, idx := (claspAt q.addr).2, clt := c.toNat, target := t.toNat, data := d, vdev := v, world := w }
  | _ => none

/-- A message is dropped and logged (R315). -/
def State.claspLost (s : State) (m : Message) (reason : Nat) : State := s.clasperr m.io reason m.idx m.q.port m.x

/-- The message at the head goes on with `f`, or is dropped and logged (R315). -/
def State.claspTake (s : State) (io kind : Nat) (f : Message → State → State) : State :=
  match s.claspHead io with
  | some m =>
    if (if m.kind = 3 then 0 else m.kind) ≠ kind then s
    else
      let s1 := s.setEntries io ((s.io io).entries.drop 1)
      let r := claspDrop m.clt m.target m.data.length m.vdev
      if r ≠ 0 then s1.claspLost m r else f m s1
  | none => s

/-- CLASP_BARRIER_ARRIVAL, kind 0: arrive(row, x), a release at system scope by the ordering point (R313, R314). -/
def execClaspBarrierArrival (io : Nat) (s : State) : Host.Outcome State Fault Refusal :=
  .next (s.claspTake io 0 (fun m s =>
    let die := (m.target - 0x0F0000000000) / 2 ^ 32
    let cid := die * 64 + (m.target - 0x0F0000000000) % 2 ^ 32 / 2 ^ 24
    let off := m.target % 2 ^ 24 - 0x100000
    if !(s.core cid).tagged off then s.claspLost m 3
    else if !s.holdsCore cid (cltVdev m.clt) then s.claspLost m 4
    else ((s.mergeStamp die (s.kvec io)).arrive cid off m.x true).2.2))

/-- CLASP_COUNTER_ADD, kind 1: a relaxed AADD.u32 at the word's home, as an inbound write (R313). -/
def execClaspCounterAdd (io : Nat) (s : State) : Host.Outcome State Fault Refusal :=
  if (s.claspHead io).map Message.kind = some 1 ∧ s.settled io = false then .next s
  else .next (s.claspTake io 1 (fun m s =>
    let pool := s.pool io
    let l := localOf pool m.target
    if (s.inboundRefuses (homeOf pool m.target) l m.world none true).isSome then s.claspLost m 5
    else s.agentWrite io pool m.target (bytesLE 4 (ofBytesLE (s.memBytes pool m.target 4) + m.x))))

/-- CLASP_INTERRUPT, kind 2: a bit of IPEND, and the core wakes (R313). -/
def execClaspInterrupt (io : Nat) (s : State) : Host.Outcome State Fault Refusal :=
  .next (s.claspTake io 2 (fun m s => (s.setIpend (sysCoreNo m.target) (m.x % 64)).wakeCore (sysCoreNo m.target)))

/-! Remote windows. -/

/-- The peer's ordering point accepts the write (R370). -/
def State.rwinAccepts (s : State) (r : RemoteTlp) (len : Nat) : Bool :=
  let e := (Tab.get 0 (s.io (ioOfPort r.port)).rwin (r.win % 4096)).toNat
  bitAt e 63 && bitsOf e 31 22 == r.gen.toNat && bitsOf e 47 40 == r.part.toNat && decide (r.off + len ≤ 2 ^ bitsOf e 4 0)

/-- A remote write of some packages reaches the ordering point: it is accepted, or each package is told of the rejection (R370, R372). -/
def State.remoteAccept (s : State) (r : RemoteTlp) (data : List Byte) (pkgs : List Nat) (red : Option (Nat × Nat)) : State :=
  let io := ioOfPort r.port
  let x := s.io io
  if s.rwinAccepts r data.length then
    s.opWrite io ((Tab.get 0 x.rwinb (r.win % 4096)).toNat + r.off) data
      (s.worldOfVdev (BitVec.ofNat 8 (bitsOf (Tab.get 0 x.rwin (r.win % 4096)).toNat 39 32))) none red (fun n ps => .remote n r pkgs ps)
  else pkgs.foldl (fun s p => s.send r.port p 10 []) s

/-- A remote write arrives through a Rhadin port (R367, R370). -/
def State.remoteArrive (s : State) (r : RemoteTlp) (data : List Byte) : State :=
  let io := ioOfPort r.port
  if s.isRhadin r.port && s.opAccepts io && decide (0 < data.length) && decide (data.length ≤ 512) then
    s.remoteAccept r data [r.pkg] none else s
/-- REMOTE_WRITE, R370. -/
def execRemoteWrite (r : RemoteTlp) (data : List Byte) (s : State) : Host.Outcome State Fault Refusal := .next (s.remoteArrive r data)

/-- The window combines writes, with an operation and type that are not reserved (R369). -/
def State.reduces (s : State) (r : RemoteTlp) : Option (Nat × Nat × Nat) :=
  let e := (Tab.get 0 (s.io (ioOfPort r.port)).rwin (r.win % 4096)).toNat
  let ty := bitsOf e 59 56
  if bitAt e 62 && bitsOf e 61 60 != 3 && (ty == 5 || ty == 6 || ty == 10) then some (bitsOf e 61 60, ty, bitsOf e 55 48) else none

/-- Two values of a combined write element by element: sums under rne, integer sums wrap, minimum and maximum by FMIN and FMAX (R372). -/
def redCombine (op ty : Nat) : Nat → List Byte → List Byte → List Byte
  | 0, _, _ => []
  | n + 1, a, b =>
    let t : Ty := if ty = 0xA then .f32 else if ty = 6 then .u32 else .s32
    bytesLE 4 (combine op t (ofBytesLE (a.take 4)) (ofBytesLE (b.take 4))).1 ++ redCombine op ty n (a.drop 4) (b.drop 4)

/-- A contribution joins the held writes of the same window, offset and width from other packages, of its partition and naming the same generation of the
window (assumption 59), or is held alone. -/
def joinReduction (r : RemoteTlp) (data : List Byte) (now : Nat) : List Reduction → List Reduction
  | [] => [{ r := r, data := [data], pkgs := [r.pkg], since := now }]
  | x :: xs =>
    if x.r.win = r.win ∧ x.r.off = r.off ∧ x.r.port = r.port ∧ x.r.gen = r.gen ∧ x.r.part = r.part ∧ (x.data.headD []).length = data.length ∧ x.pkgs.contains r.pkg = false then
      { x with data := x.data ++ [data], pkgs := x.pkgs ++ [r.pkg] } :: xs
    else x :: joinReduction r data now xs

/-- The held writes are combined in an order that the switch chooses: free values. -/
def redAll (op ty : Nat) : Nat → Nat → List Byte → List (List Byte) → List Byte
  | 0, _, acc, _ => acc
  | n + 1, k, acc, ds =>
    let i := (Config.freeValue k).toNat % ds.length
    redAll op ty n (k + 1) (redCombine op ty (acc.length / 4) acc (ds.getD i [])) (ds.eraseIdx i)

/-- The ordering point can take the writes that a held reduction comes to: one, or each by itself when its window combines no longer (R365, R372). -/
def State.forwards (s : State) (x : Reduction) : Bool :=
  let n := if (s.reduces x.r).isSome then 1 else x.data.length
  s.isRhadin x.r.port && decide ((s.io (ioOfPort x.r.port)).entries.length + n ≤ 1024) && !s.farAheadBy (ioOfPort x.r.port) n

/-- The switch forwards the combined write, which it holds while the ordering point is full. -/
def State.forward (s : State) (x : Reduction) : State :=
  if !s.forwards x then s
  else
  let s1 := { s with reductions := s.reductions.filter (fun y => y != x) }
  match s.reduces x.r with
  | some (op, ty, _) =>
    let i := (Config.freeValue s.free).toNat % x.data.length
    let v := redAll op ty (x.data.length - 1) (s.free + 1) (x.data.getD i []) (x.data.eraseIdx i)
    { s1 with free := s.free + x.data.length }.remoteAccept x.r v x.pkgs (some (op, ty))
  | none => (x.data.zip x.pkgs).foldl (fun s p => s.remoteAccept { x.r with pkg := p.2 } p.1 [p.2] none) s1

/-- REDUCTION_CONTRIBUTION, R372: a write that is not of whole aligned words goes on uncombined. -/
def execReductionContribution (r : RemoteTlp) (data : List Byte) (s : State) : Host.Outcome State Fault Refusal :=
  if !s.isRhadin r.port then .next s
  else match s.reduces r with
  | some (_, _, cnt) =>
    if data.length % 4 = 0 ∧ 0 < data.length ∧ r.off % 4 = 0 then
      let s1 := { s with reductions := joinReduction r data s.cycles s.reductions }
      match s1.reductions.find? (fun x => decide (cnt ≤ x.pkgs.length) && x.r.port == r.port && x.r.win == r.win && x.r.off == r.off) with
      | some x => .next (s1.forward x)
      | none => .next s1
    else .next (s.remoteArrive r data)
  | none => .next (s.remoteArrive r data)

/-- REDUCTION_TIMEOUT: 2^16 cycles after the first contribution the write goes as it is (R372). -/
def execReductionTimeout (idx : Nat) (s : State) : Host.Outcome State Fault Refusal :=
  match s.reductions[idx]? with
  | some x => .next (if x.since + 2 ^ 16 ≤ s.cycles then s.forward x else s)
  | none => .next s

end Sys2Proof.Machine
end

