-- ==== Sys2Proof/Machine/Matrix.lean ====
section
/-!
DEFINITION. The matrix unit: tiles and their owners (09 R168 to R170), the multiply-accumulate forms and their passes (R172 to R182), ACZ, ACLD and
ACMOV (R183), the drain chain (R184 to R188), ASPILL, AFILL and AOWN (R194, 19 R353).
-/

namespace Sys2Proof.Machine

/-! Tiles. -/

def State.tile (s : State) (cid t : Nat) : Tile := Tab.get Tile.reset (s.core cid).tiles t
def State.setTile (s : State) (cid t : Nat) (x : Tile) : State := s.setCore cid { s.core cid with tiles := Tab.put (s.core cid).tiles t x }

/-- The tile behind acN; none when the group does not hold it (R171). -/
def Group.tileOf (g : Group) (d : Opnd) : Option Nat :=
  let t := if d.code = 0 then g.ac0.toNat else g.ac1.toNat
  if t = 0xFF then none else some t

/-- A group's save slot for a tile, 0 when it holds it under no name (19 R353). -/
def Group.slotFor (g : Group) (t : Nat) : DWord := if g.ac0.toNat = t then g.accslot0 else if g.ac1.toNat = t then g.accslot1 else 0

/-- A tile becomes owned by the context of a group: its record address is that of the group's slot (19 R353), its world the group's (23 R382). -/
def Group.own (g : Group) (t : Nat) (x : Tile) : Tile := { x with own := 1#1 ++ g.ctxid, recAddr := g.slotFor t, world := g.world }

/-- One row of a tile: 32 columns. -/
def Tile.row (x : Tile) (r : Nat) : List Word := laneList.map (fun j => Tab.get 0 x.elems (r * 32 + j))
def Tile.setRow (x : Tile) (r : Nat) (ws : List Word) : Tile :=
  { x with bad := Tab.set false x.bad r false, elems := laneList.foldl (fun t j => Tab.set 0 t (r * 32 + j) (ws.getD j 0)) x.elems }

/-- An operation on some rows of a tile is in flight (R182). -/
def State.rowsBusy (s : State) (cid t : Nat) (rows : Mask) : Bool :=
  s.passes.any (fun p => coreOf p.q.gid == cid && p.tile == t && p.rows.any (fun r => rows.has r.lane))

/-- An error found in rows of a tile that an issue reads: logged, and trapped in the lanes of those rows (18 R333, R334). -/
def State.rowError (s : State) (c : Ctx) (t : Nat) (lanes : Mask) : State :=
  (s.mclog (coreOf c.gid) 5 (0x20000 + t)).trapAt c cMachineCheck lanes (BitVec.ofNat 64 (0x20000 + t))

/-- The checks of R177, items 1 to 4: sources, the tile's name, its owner, its kind; then, for a form that reads the rows of its lanes, their bits. -/
def State.tileGate (s : State) (c : Ctx) (srcs : List Src) (d tile : Opnd) (dn : Nat) (kind : TileKind → Bool) (reads : Bool) (ok : Nat → State) :
    Host.Outcome State Fault Refusal :=
  if isSystem c.gid then .next (s.illegal c)
  else s.gate c (c.chk srcs d dn)
    (if c.en = 0 then s.commit c c.g
     else match c.g.tileOf tile with
       | none => s.trapAt c cRegBound c.en (BitVec.ofNat 64 tile.code)
       | some t =>
         if !s.ownsTile (coreOf c.gid) t c.g.ctxid then s.trapAt c cAccOwner c.en (BitVec.ofNat 64 t)
         else if !kind (s.tile (coreOf c.gid) t).kind then s.trapAt c cAccType c.en (BitVec.ofNat 64 t)
         else
           let bad := maskOf (fun l => reads && c.en.has l && Tab.get false (s.tile (coreOf c.gid) t).bad l)
           if bad != 0 then s.rowError c t bad else ok t)

/-! Checks of rows, lane by lane (R178). -/

/-- What the checks of a lane's addresses lead to: physical addresses, the first failing check with its address, or walks to ask for. -/
inductive RowChk where
  | ok (pas : List Nat)
  | fault (rank addr : Nat)
  | miss (vas : List Nat)
  | hold
  deriving DecidableEq, Repr

/-- One address that the tile fetch unit or a drain reaches: only memory (R178). -/
def State.tfuChk (s : State) (c : Ctx) (acc : Acc) (va : Nat) : LaneChk :=
  match s.translate c.gid c.g.asid va acc c.g.priv with
  | .miss => .miss
  | .fault cause => .fault (causeRank cause)
  | .ok pa dev _ =>
    let pool := s.pool (dieOf c.gid)
    if dev || !((regionOf pool pa).memory || beyondPool pool pa) then .fault 3
    else s.writeChk c acc 16 { lane := 0, ea := va, pa := pa, dev := false }

/-- The addresses of a lane together. -/
def joinChk (rs : List (Nat × LaneChk)) : RowChk :=
  let missing := rs.filterMap (fun p => if p.2 = .miss then some p.1 else none)
  if missing ≠ [] then .miss missing
  else if rs.any (fun p => p.2 == .hold) then .hold
  else match (ranks.findSome? (fun k => (rs.find? (fun p => p.2 == .fault k)).map (fun p => (k, p.1)))) with
    | some (k, a) => .fault k a
    | none => .ok (rs.filterMap (fun p => match p.2 with | .ok a => some a.pa | _ => none))
def State.rowOf (s : State) (c : Ctx) (acc : Acc) (vas : List Nat) : RowChk := joinChk (vas.map (fun va => (va, s.tfuChk c acc va)))

/-- The first check that does not pass. -/
def RowChk.and (a b : RowChk) : RowChk :=
  match a, b with
  | .miss x, .miss y => .miss (x ++ y)
  | .miss x, _ => .miss x
  | _, .miss y => .miss y
  | .hold, _ | _, .hold => .hold
  | .fault k x, .fault j y => if j < k then .fault j y else .fault k x
  | .fault k x, .ok _ => .fault k x
  | .ok _, .fault j y => .fault j y
  | .ok x, .ok y => .ok (x ++ y)

/-- Every lane's checks are resolved; the passing lanes act and advance, the others keep PCs and rows, and the first cause traps (R178);
a parity error of a scratchpad row is recorded, where the rows lie in scratchpad (18 R333). -/
def State.rowsGo (s : State) (c : Ctx) (g : Group) (sp : Bool) (chk : Nat → RowChk) (go : State → List (Nat × List Nat) → State) : State :=
  let rs := c.en.lanes.map (fun l => (l, chk l))
  let missing := rs.flatMap (fun p => match p.2 with | .miss v => v | _ => [])
  if missing ≠ [] then s.askWalks c.gid c.g.asid missing
  else if rs.any (fun p => p.2 == .hold) then s.stall c.gid
  else
    let oks := rs.filterMap (fun p => match p.2 with | .ok pas => some (p.1, pas) | _ => none)
    let failed := maskOf (fun l => c.en.has l && oks.all (fun a => a.1 != l))
    let s1 := s.commitExcept c failed g
    let s1 := s1.setGroup c.gid { s1.group c.gid with prior := c.g.lanes }
    let faults := rs.filterMap (fun p => match p.2 with | .fault k a => some (p.1, k, a) | _ => none)
    let s2 := match faults.find? (fun f => sp && f.2.1 == 4) with
      | some f => (go s1 oks).mclog (coreOf c.gid) 6 f.2.2
      | none => go s1 oks
    match ranks.find? (fun k => faults.any (fun f => f.2.1 == k)) with
    | none => s2
    | some k =>
      let fs := faults.filter (fun f => f.2.1 == k)
      s2.trapAt c (rankCause k) (maskOf (fun l => fs.any (fun f => f.1 == l))) (BitVec.ofNat 64 ((fs.head?.map (fun f => f.2.2)).getD 0))

/-! Reads of the tile fetch unit. -/

/-- The reader that a matrix read is. -/
def Req.reader (q : Req) : Reader := { src := q.src, level := q.level, asid := q.asid, gen := q.gen, world := q.world }

/-- What several reads come to: their bytes, the first rejection with its cause and addresses, or a wait for a write before one of them. -/
inductive Pieces where
  | ok (bs : List Byte) (s : State)
  | fault (cause pa : Nat) (va : DWord)
  | wait
  deriving DecidableEq, Repr

/-- Pieces that do not cross a sector, read through the die's L2 as a .cb load reads them (R179, R183, 11 R213, R214). -/
def State.tfuReads (s : State) (q : Req) (n : Nat) : List (Nat × DWord) → Pieces
  | [] => .ok [] s
  | (pa, va) :: r =>
    match s.l2Read q.reader pa n with
    | .wait => .wait
    | .fault cause => .fault cause pa va
    | .ok bs s1 =>
      match s1.tfuReads q n r with
      | .ok bs2 s2 => .ok (bs ++ bs2) s2
      | k => k

/-- A store or atomic of the group to one of these ranges, or a load of it by the same class, is not yet performed: the read waits (06 R118, 12 R235). -/
def State.ownBefore (s : State) (gid id : Nat) (cls : Cls) (xs : List (Nat × Nat)) : Bool :=
  s.reqs.any (fun r => r.gid == gid && decide (r.id < id) && !r.performed && (r.writes || (r.isLoad && !r.isPref && r.cls == cls)) &&
    xs.any (fun x => decide (r.pa < x.1 + x.2) && decide (x.1 < r.pa + r.width)))

/-! Arithmetic. -/

def PassKind.k : PassKind → Nat
  | .mma => 32 | .mmaq => 128 | .mmai => 64 | .acld | .acmov => 0
/-- Bytes of an element. -/
def PassKind.elem : PassKind → Nat
  | .mma => 2 | _ => 1
/-- A B tile packed: R173. -/
def PassKind.bTile (k : PassKind) : Nat := k.k * k.bRow

/-- The format of the operands of MMA and MMAQ. -/
def Pass.fmt (p : Pass) (b : Bool) : Fmt :=
  match p.kind with
  | .mma => if b then Fmt.f16 else Fmt.bf16
  | _ => if b then Fmt.e5m2 else Fmt.e4m3

/-- The elements of a row of bytes. -/
def elems (e : Nat) : Nat → List Byte → List Nat
  | 0, _ => []
  | n + 1, bs => ofBytesLE (bs.take e) :: elems e n (bs.drop e)

/-- The scale of an MMAQ row: sA × sW under rne (04 R71). -/
def scaleOf (sa sw : Word) : Nat × Fl := Fmt.f32.sum .rne false 0 [Term.mul (Fmt.f32.decode sa.toNat) (Fmt.f32.decode sw.toNat)]

/-- One element of the accumulator after a quarter-op (R176). -/
def Pass.elemOf (p : Pass) (row : PassRow) (s : Nat) (a b : List Nat) (acc : Word) (j : Nat) : Nat × Fl :=
  let rb := rotRb row.rb.toNat j
  match p.kind with
  | .mmai =>
    let sgn (f : Bool) (x : Nat) : Int := (if f then Ty.s8 else Ty.u8).readInt x
    let t : Int := (a.zip b).foldl (fun (t : Int) q => t + sgn p.af q.1 * sgn p.bf q.2) (Ty.s32.readInt acc.toNat)
    (Ty.s32.intResult p.sat t, 0)
  | _ =>
    let ts := (a.zip b).map (fun q => Term.mul ((p.fmt p.af).decode q.1) ((p.fmt p.bf).decode q.2))
    let ac := Term.of (Fmt.f32.decode acc.toNat)
    if p.kind = .mma then Fmt.f32.dotSum p.rnd rb (ts ++ [ac])
    else
      let (v, fl) := exactSum p.rnd ts
      let r := Fmt.f32.sum p.rnd false rb [ac, Term.mul v (Fmt.f32.decode s)]
      (r.1, fl ||| r.2)

/-- A row after a quarter-op, with its flags. -/
def Pass.rowOf (p : Pass) (row : PassRow) (abs : List Byte) (bcols : List (List Nat)) (acc : List Word) : List Word × Fl :=
  let a := elems p.kind.elem p.kind.k abs
  let sc := if p.kind = .mmaq then scaleOf row.scale p.wscale else (0, 0)
  let rs := laneList.map (fun j => p.elemOf row sc.1 a (bcols.getD j []) (acc.getD j 0) j)
  (rs.map (fun r => BitVec.ofNat 32 r.1), rs.foldl (fun f r => f ||| r.2) sc.2)

/-- The columns of a B tile whose rows follow one another. -/
def Pass.columns (p : Pass) (bs : List Byte) : List (List Nat) :=
  let rows := (List.range p.kind.k).map (fun k => elems p.kind.elem 32 (bs.drop (k * p.kind.bRow)))
  laneList.map (fun j => rows.map (fun r => r.getD j 0))

/-! Passes. -/

/-- Two passes stand on a common row of a core's tile. -/
def Pass.meets (p o : Pass) : Bool := coreOf p.q.gid == coreOf o.q.gid && p.tile == o.tile && o.rows.any (fun r => p.rows.any (fun t => t.lane == r.lane))
/-- A pass may be tried: no earlier operation stands on its rows (R182), the window in which quarter-ops may still join it has closed (R180), and the
group's own accesses before it are performed. -/
def State.passOpen (s : State) (p : Pass) : Bool :=
  s.passes.all (fun o => !(decide (o.q.id < p.q.id) && p.meets o)) &&
  (p.kind == .acld || p.kind == .acmov || decide (p.q.since + 5 ≤ s.cycles)) && !s.ownBefore p.q.gid p.q.id p.cls p.ranges

/-- A lane's rejection comes back (R178, 18 R328); a tag that does not match halts the world (23 R388). -/
def State.rejectRow (s : State) (p : Pass) (row : PassRow) (cause pa : Nat) (va : DWord) : State :=
  if cause = cIntegrity then s.integrityMet { p.q with issueNo := row.issueNo } pa
  else
    s.reject { p.q with members := p.q.members.filter (fun m => m.lane == row.lane), va := va, pc := row.pc, issueNo := row.issueNo, lpa := pa } cause
      (s.readSrc p.q.src pa p.q.world)

/-- The columns of the B tile, or why a row of it cannot be read. -/
inductive Cols where
  | ok (cs : List (List Nat))
  | fault (cause pa : Nat) (va : DWord)
  deriving DecidableEq, Repr

/-- The result of one row of a pass: its tile row and flags; none when a read must wait. -/
def State.passRow (s : State) (p : Pass) (b : Cols) (row : PassRow) : Option State :=
  match b with
  | .fault cause pa va => some (s.rejectRow p row cause pa va)
  | .ok cols =>
    match (if row.src = [] then .ok row.data s else s.tfuReads p.q p.kind.aBytes row.src) with
    | .wait => none
    | .fault cause pa va => some (s.rejectRow p row cause pa va)
    | .ok bs s1 =>
      let cid := coreOf p.q.gid
      let t := s1.tile cid p.tile
      let (ws, fl) := if p.kind = .acld then ((elems 4 32 bs).map (fun v => BitVec.ofNat 32 v), 0) else p.rowOf row bs cols (t.row row.lane)
      let s2 := s1.setTile cid p.tile (t.setRow row.lane ws)
      some (if ((s2.group p.q.gid).lane row.lane).gen == row.gen then s2.setGroup p.q.gid ((s2.group p.q.gid).raise row.lane fl) else s2)

/-- The columns that an ACMOV takes: the first, and how many. -/
def Pass.moves (p : Pass) : Nat × Nat := (p.wscale.toNat % 32, p.wscale.toNat / 32 + 1)

/-- An ACMOV reads its rows: each register is on its way to the lanes (R183). -/
def State.moveRows (s : State) (p : Pass) : State :=
  let t := s.tile (coreOf p.q.gid) p.tile
  (List.range p.moves.2).foldl (fun s i =>
    s.addReq { p.q with
      dst := (match p.q.dst with | .v n => .v ⟨(n.val + i) % 192, Nat.mod_lt _ (by decide)⟩ | o => o), width := 4, performed := true, pa := 2 ^ 64
      result := p.rows.map (fun r => (r.lane, ((t.row r.lane).getD (p.moves.1 + i) 0).zeroExtend 128)) }) s

/-- What a pass comes to: it pins its sectors, computes and writes its rows (R179, R181); none when a read must wait. -/
def State.passRun (s : State) (p : Pass) : Option State :=
  let s1 := { s with passes := s.passes.filter (fun o => o.q.id != p.q.id) }
  if p.kind = .acmov then some (s1.moveRows p)
  else match (if p.brows = [] then .ok p.bdata s1 else s1.tfuReads p.q p.kind.bRow p.brows) with
    | .wait => none
    | .fault cause pa va => p.rows.foldl (fun o r => o.bind (fun s => s.passRow p (.fault cause pa va) r)) (some s1)
    | .ok bs s2 => p.rows.foldl (fun o r => o.bind (fun s => s.passRow p (.ok (p.columns bs)) r)) (some s2)

/-- A pass may start. -/
def State.passReady (s : State) (p : Pass) : Bool := s.passOpen p && (s.passRun p).isSome

/-- PASS_START, R179 to R183. -/
def execPassStart (id : Nat) (s : State) : Host.Outcome State Fault Refusal :=
  match s.passes.find? (fun p => p.q.id == id) with
  | none => .next s
  | some p => .next (if s.passOpen p then ((s.passRun p).map (fun t => t.reads (dieOf p.q.gid) true p.tile)).getD s else s)

def State.addPass (s : State) (p : Pass) : State :=
  { s with passes := s.passes ++ [{ p with q := { p.q with id := s.seq, since := s.cycles } }], seq := s.seq + 1 }

/-- Two passes name the same B with the same form and formats. -/
def Pass.sameB (p o : Pass) : Bool :=
  p.q.gid == o.q.gid && p.kind == o.kind && p.tile == o.tile && p.brows == o.brows && p.bdata == o.bdata && p.wscale == o.wscale && p.af == o.af && p.bf == o.bf &&
  p.sat == o.sat && p.rnd == o.rnd && p.q.gen == o.q.gen && p.q.level == o.q.level
/-- A quarter-op may join a pass (R180): no more than 4 cycles after the first one, with no quarter-op of its quarter there, no later operation on its rows
(R182), and none of the group's writes between them to what it reads (06 R118). -/
def State.joins (s : State) (p o : Pass) : Bool :=
  p.sameB o && decide (s.cycles ≤ o.q.since + 4) && !o.rows.any (fun r => p.rows.any (fun t => t.lane / 8 == r.lane / 8)) &&
  !s.passes.any (fun x => decide (o.q.id < x.q.id) && p.meets x) &&
  !s.reqs.any (fun r => r.gid == p.q.gid && r.writes && decide (o.q.id < r.id) && p.touches r)
/-- A quarter-op joins an open pass or opens one (R180). -/
def State.openPass (s : State) (p : Pass) : State :=
  match s.passes.find? (fun o => s.joins p o) with
  | some o => { s with passes := s.passes.map (fun x => if x.q.id = o.q.id then { x with q := { x.q with members := x.q.members ++ p.q.members }, rows := x.rows ++ p.rows } else x) }
  | none => s.addPass p

/-! MMA, MMAQ, MMAI. -/

def quarterOf (l : Nat) : Nat := l / 8
/-- The enabled lanes of a quarter. -/
def Ctx.quarter (c : Ctx) (k : Nat) : Mask := maskOf (fun l => c.en.has l && quarterOf l == k)

/-- The fields of layout X. -/
structure MmaX where
  wsl : Nat
  ag : Bool
  bs : Bool
  af : Bool
  bf : Bool
  sca : Opnd
  scw : Opnd
  deriving DecidableEq, Repr
def Ext.mmaX (x : Ext) (k : PassKind) : MmaX :=
  match x.w2 with
  | .x wsl ag bs sa sb afm bfm sca scw => ⟨wsl.val, ag, bs, if k = .mmai then sa else afm, if k = .mmai then sb else bfm, sca, scw⟩
  | _ => ⟨0, false, false, false, false, .none, .none⟩

/-- A quarter's stream checks, R192: the slot's tile, a wait, or the trap. -/
inductive StreamChk where
  | ok (bytes : List Byte)
  | fault (cause : Nat) (addr : DWord)
  | wait
  | refuse
  deriving DecidableEq, Repr

def State.stream (s : State) (d k : Nat) : Stream := Tab.get Stream.reset (s.die d).streams k
def State.setStream (s : State) (d k : Nat) (x : Stream) : State := s.setDie d { s.die d with streams := Tab.put (s.die d).streams k x }
/-- The handle is current and of the group's virtual device (R191). -/
def State.handleOk (s : State) (gid h : Nat) : Bool :=
  let x := s.stream (dieOf gid) (h % 64)
  x.opened && x.gen.toNat == h / 64 % 1024 && x.vdev == (s.group gid).vdev

def State.streamChk (s : State) (gid : Nat) (size : Nat) (o : Word) : StreamChk :=
  let h := o.toNat % 65536
  let t := o.toNat / 65536
  let x := s.stream (dieOf gid) (h % 64)
  match x.subs.find? (fun u => u.gid == gid) with
  | none => .refuse
  | some u =>
    if !s.handleOk gid h || decide (t < x.floor) || decide (x.n ≤ t) || x.size != size then .refuse
    else if x.floor + u.w < t then .wait
    else match x.tiles.find? (fun k => k.t == t) with
      | none => .wait
      | some k => match k.fault with | some (cause, a) => .fault cause.toNat a | none => .ok k.bytes

/-- The checks of a lane's A row, and of its quarter's B rows (R174, R178). -/
def State.mmaRow (s : State) (c : Ctx) (x : Ext) (k : PassKind) (m : MmaX) (strm : StreamChk) (l : Nat) : RowChk :=
  let cst := (c.rd32 l x.c).toNat
  let a := (c.rd64 l x.a).toNat
  let ra := wrapInt 64 (if m.ag then a else a + l * (cst / 65536) : Nat)
  let ca : RowChk := if ra % k.aBytes ≠ 0 ∨ (m.ag = false ∧ cst / 65536 % k.aBytes ≠ 0) then .fault 1 ra else s.rowOf c .load [ra]
  let b := (c.rd64 l x.b).toNat
  let cb : RowChk :=
    if m.bs then match strm with
      | .fault cause va => .fault (causeRank cause) va.toNat
      | _ => .ok []
    else if b % k.bRow ≠ 0 ∨ cst % 65536 % k.bRow ≠ 0 then .fault 1 b
    else s.rowOf c .load ((List.range k.k).map (fun i => wrapInt 64 (b + i * (cst % 65536) : Nat)))
  ca.and cb

/-- The failing quarters of R175. -/
def Ctx.unevenQuarters (c : Ctx) (x : Ext) (m : MmaX) : Mask :=
  maskOf (fun l => c.en.has l &&
    (let q := (c.quarter (quarterOf l)).lanes
     !((if m.bs then allSame (q.map (fun l => c.rd32 l x.b)) else allSame (q.map (fun l => c.rd64 l x.b))) && allSame (q.map (fun l => c.rd32 l x.c)) && (m.ag || allSame (q.map (fun l => c.rd64 l x.a))))))

/-- The sources of a matrix issue: the A address, the B address or stream operand, the strides; the scales of MMAQ; the random bits of MMA under rsr
(R172, R174, R176). -/
def Ctx.mmaSrcs (c : Ctx) (x : Ext) (k : PassKind) : List Src :=
  let m := Ext.mmaX x k
  [x.srcA 2, x.srcB (if m.bs then 1 else 2), x.srcC 1] ++ (if k = .mmaq then [Src.plain m.sca 1, (Src.plain m.scw 1).over [m.wsl]] else []) ++
    (if c.mode == .rsr && k = .mma then [Src.plain m.scw 1] else [])

/-- A matrix issue, R172 to R178. -/
def State.mmaForm (s : State) (i : Instr) (x : Ext) (k : PassKind) : Host.Outcome State Fault Refusal :=
  let c := s.ctx i x
  let m := Ext.mmaX x k
  let rsr := c.mode == .rsr
  let srcs := c.mmaSrcs x k
  s.tileGate c srcs .none x.d 0 (fun t => if k = .mmai then t == .s32 else t == .f32) true (fun t =>
    let uneven := c.unevenQuarters x m
    let qs := [0, 1, 2, 3].filter (fun q => c.quarter q != 0)
    let strm := qs.map (fun q => (q, if m.bs then s.streamChk c.gid k.bTile (c.rd32 (((c.quarter q).first).getD 0) x.b) else .ok []))
    let refused := strm.filter (fun p => p.2 == .refuse)
    if uneven != 0 then s.trapAt c cUniform uneven 0
    else if refused ≠ [] then
      let ls := refused.foldl (fun (a : Mask) p => a ||| c.quarter p.1) 0
      s.trapAt c cPermission ls ((c.rd32 (ls.first.getD 0) x.b).zeroExtend 64)
    else if strm.any (fun p => p.2 == .wait) || s.holdLoad c.gid then s.stall c.gid
    else
      let sOf (q : Nat) : StreamChk := ((strm.find? (fun p => p.1 == q)).map Prod.snd).getD .refuse
      s.rowsGo c (c.g.killSrcs srcs) false (fun l => s.mmaRow c x k m (sOf (quarterOf l)) l) (fun s oks =>
        qs.foldl (fun s q =>
          match oks.filter (fun p => quarterOf p.1 == q) with
          | [] => s
          | (l0, pas0) :: r =>
            let mine := (l0, pas0) :: r
            let b0 := (c.rd64 l0 x.b).toNat
            let cst := (c.rd32 l0 x.c).toNat
            s.openPass {
              q := { s.blankReq c (s.group c.gid).issueNo with members := mine.map (fun p => ⟨p.1, (c.g.lane p.1).gen, 0, 0⟩) }
              kind := k, tile := t
              rows := mine.map (fun p =>
                { lane := p.1, gen := (c.g.lane p.1).gen, issueNo := (s.group c.gid).issueNo, pc := c.pc
                  src := [(p.2.headD 0, BitVec.ofNat 64 (if m.ag then (c.rd64 p.1 x.a).toNat else (c.rd64 p.1 x.a).toNat + p.1 * (cst / 65536)))]
                  data := [], scale := if k = .mmaq then c.rd32 p.1 m.sca else 0, rb := if rsr then c.rd32 p.1 m.scw else 0 })
              brows := if m.bs then [] else ((pas0.drop 1).zip (List.range k.k)).map (fun p => (p.1, BitVec.ofNat 64 (b0 + p.2 * (cst % 65536))))
              bdata := match sOf q with | .ok bs => bs | _ => []
              wscale := if k = .mmaq then BitVec.ofNat 32 (c.rdLane m.wsl false m.scw) else 0
              af := m.af, bf := m.bf, sat := x.sat, rnd := c.mode }) s))

def execMma (x : Ext) (s : State) : Host.Outcome State Fault Refusal := s.mmaForm (.mma x) x .mma
def execMmaq (x : Ext) (s : State) : Host.Outcome State Fault Refusal := s.mmaForm (.mmaq x) x .mmaq
def execMmai (x : Ext) (s : State) : Host.Outcome State Fault Refusal := s.mmaForm (.mmai x) x .mmai

/-! ACZ, ACLD, ACMOV. -/

def kindOf (t : Ty) : TileKind := if t = .s32 then .s32 else .f32

/-- ACZ, R183. -/
def execAcz (x : Ext) (s : State) : Host.Outcome State Fault Refusal :=
  let c := s.ctx (.acz x) x
  s.tileGate c [] .none x.d 0 (fun _ => true) false (fun t =>
    let cid := coreOf c.gid
    if s.rowsBusy cid t c.en then s.stall c.gid
    else
      let y := c.en.lanes.foldl (fun (y : Tile) l => y.setRow l []) (s.tile cid t)
      (s.setTile cid t { y with kind := kindOf x.dty }).commit c c.g)

/-- The addresses of the 16-byte pieces of n bytes. -/
def piecesAt (a n : Nat) : List Nat := (List.range (n / 16)).map (fun i => a + 16 * i)
/-- The scratchpad pieces of a lane with the checks of R119: a row may lie in the parts of several members of a joined scratchpad (07 R136). -/
def State.spadRow (s : State) (c : Ctx) (a n : Nat) (store : Bool) : RowChk := joinChk ((piecesAt a n).map (fun b => (b, s.spadChk c 0 b 16 store)))
/-- A piece of scratchpad: its core and where it lies there. -/
def State.spadPiece (s : State) (gid a : Nat) : Nat × Nat := (s.spadAt gid a 16).getD (0, 0)
/-- The bytes of a row of scratchpad that passed its checks. -/
def State.spadGet (s : State) (gid a n : Nat) : List Byte :=
  (piecesAt a n).flatMap (fun b => (s.core (s.spadPiece gid b).1).spadBytes (s.spadPiece gid b).2 16)
/-- Such a row takes bytes. -/
def State.spadStore (s : State) (gid : Nat) : List Nat → List Byte → State
  | [], _ => s
  | b :: r, bs =>
    let q := s.spadPiece gid b
    (s.setCore q.1 ((s.core q.1).spadPut q.2 (bs.take 16))).spadStore gid r (bs.drop 16)

/-- The 16-byte pieces of a lane's memory range. -/
def State.memRow (s : State) (c : Ctx) (a n : Nat) (acc : Acc) : RowChk :=
  if a % 16 ≠ 0 then .fault 1 a else s.rowOf c acc ((List.range (n / 16)).map (fun i => wrapInt 64 (a + 16 * i : Nat)))

/-- ACLD, R183: each lane's row is loaded from its own address. -/
def execAcld (x : Ext) (s : State) : Host.Outcome State Fault Refusal :=
  let c := s.ctx (.acld x) x
  let sp := bitAt x.imm 4
  let srcs := [x.srcA (if sp then 1 else 2)]
  let ad := fun l => if sp then (c.rd32 l x.a).toNat else (c.rd64 l x.a).toNat
  s.tileGate c srcs .none x.d 0 (fun k => k == kindOf x.dty) false (fun t =>
    if s.holdLoad c.gid || (sp && s.windowOut c.gid) then s.stall c.gid
    else s.rowsGo c (c.g.killSrcs srcs) sp (fun l => if sp then s.spadRow c (ad l) 128 false else s.memRow c (ad l) 128 .load) (fun s oks =>
      if oks = [] then s
      else s.addPass {
        q := { s.blankReq c (s.group c.gid).issueNo with members := oks.map (fun p => ⟨p.1, (c.g.lane p.1).gen, 0, 0⟩) }
        kind := .acld, tile := t
        rows := oks.map (fun p =>
          { lane := p.1, gen := (c.g.lane p.1).gen, issueNo := (s.group c.gid).issueNo, pc := c.pc
            src := if sp then [] else (p.2.zip (List.range 8)).map (fun q => (q.1, BitVec.ofNat 64 (ad p.1 + 16 * q.2)))
            data := if sp then s.spadGet c.gid (ad p.1) 128 else []
            scale := 0, rb := 0 })
        brows := [], bdata := [], wscale := 0, af := false, bf := false, sat := false, rnd := .rne }))

/-- ACMOV, R183: its registers are empty from the issue on, and become full after the rows' earlier operations. -/
def execAcmov (x : Ext) (s : State) : Host.Outcome State Fault Refusal :=
  let c := s.ctx (.acmov x) x
  let n := x.imm / 32 + 1
  s.tileGate c [] x.d x.a n (fun k => k != .none) true (fun t =>
    let s1 := s.commit c (match x.d with | .v r => c.g.setEmpties r.val n true | _ => c.g)
    let i := (s1.group c.gid).issueNo
    s1.addPass {
      q := { s1.blankReq c i with dst := x.d, members := c.en.lanes.map (fun l => ⟨l, (c.g.lane l).gen, 0, 0⟩) }
      kind := .acmov, tile := t
      rows := c.en.lanes.map (fun l => { lane := l, gen := (c.g.lane l).gen, issueNo := i, pc := c.pc, src := [], data := [], scale := 0, rb := 0 })
      brows := [], bdata := [], wscale := BitVec.ofNat 32 x.imm, af := false, bf := false, sat := false, rnd := .rne })

/-! The drain chain. -/

/-- A word of a table image. -/
def lutWord (b : Tab Byte) (o : Nat) : Nat := ofBytesLE ((List.range 4).map (fun i => Tab.get 0 b (o + i)))

/-- The segment of R187: floor((x - lo) × W), clamped; a NaN gives 0. -/
def lutSegment (b : Tab Byte) (x : Nat) : Nat :=
  let f := Fmt.f32
  let v := (exactSum .rne [Term.of (f.decode x), Term.of (f.decode (lutWord b 0)).flip]).1
  match (Term.mul v (f.decode (lutWord b 8))).v with
  | .nan _ => 0
  | .inf neg => if neg then 0 else 255
  | .fin neg m e => if neg then 0 else min 255 (if 0 ≤ e then m * 2 ^ e.toNat else m / 2 ^ (-e).toNat)

/-- What the drain of a column needs: the stages and their operands. -/
structure Drain where
  bias : Option Word
  lut : Option (Tab Byte)
  dty : Ty
  scale : Word
  zp : Int
  mode : Rnd
  sat : Bool
  rb : Nat
  int : Bool
  deriving DecidableEq, Repr

/-- One column of a drain, R187: output bits and flags. A requantising drain to .s8 or .u8 raises NV for a signalling NaN under SAT too: it comes from
forming x × s + ZP by R58, while 04 R67 names no NV for the conversion itself, and FCVTI, which forms nothing, raises none (assumption 99). -/
def Drain.out (d : Drain) (acc : Word) : Nat × Fl :=
  let f := Fmt.f32
  let x0 : Nat × Fl := if d.int && (d.bias.isSome || d.lut.isSome || d.dty != .dflt) then f.write .rne false 0 (FV.ofInt (Ty.s32.readInt acc.toNat)) else (acc.toNat, 0)
  let x1 : Nat × Fl := match d.bias with
    | some b => let r := f.sum .rne false 0 [Term.of (f.decode x0.1), Term.of (f.decode b.toNat)]; (r.1, x0.2 ||| r.2)
    | none => x0
  let x2 : Nat × Fl := match d.lut with
    | some b =>
      let k := lutSegment b x1.1
      let r := f.sum .rne false 0 [Term.mul (f.decode (lutWord b (0x10 + 8 * k))) (f.decode x1.1), Term.of (f.decode (lutWord b (0x14 + 8 * k)))]
      (r.1, x1.2 ||| r.2)
    | none => x1
  if d.dty = .dflt then x2
  else
    let ts := [Term.mul (f.decode x2.1) (f.decode d.scale.toNat), Term.of (FV.ofInt d.zp)]
    let r : Nat × Fl := if d.dty.isFloat then d.dty.fmt.sum d.mode d.sat d.rb ts
      else (let v := exactSum d.mode ts; let r := toIntTy d.dty d.mode d.sat d.rb v.1; (r.1, v.2 ||| r.2))
    (r.1, x2.2 ||| r.2)

/-- The bytes of an output. -/
def outBytes (t : Ty) : Nat := match t with | .s8 | .u8 | .e4m3 | .e5m2 => 1 | .f16 | .bf16 => 2 | _ => 4

/-- The stores of one lane's outputs: relaxed .ca stores at group scope, in pieces of 16 bytes (R188). -/
def State.drainStore (s : State) (c : Ctx) (l a : Nat) : List Nat → List Byte → State
  | [], _ => s
  | pa :: r, bs =>
    let pool := s.pool (dieOf c.gid)
    let (lpa, tgt, s1) := s.placeOf pool pa
    (s1.issueStore { s1.blankReq c (s1.group c.gid).issueNo with
      op := .store, tgt := tgt, pa := pa, lpa := lpa, va := BitVec.ofNat 64 a, width := 16, data := valOf (bs.take 16),
      members := [⟨l, (c.g.lane l).gen, 0, 0⟩] }).drainStore c l (a + 16) r (bs.drop 16)

/-- The sources of ACST: the address, the scale of a requantising drain, the bias, the random bits (R186). -/
def Ctx.acstSrcs (c : Ctx) (x : Ext) : List Src :=
  [x.srcA (if bitAt x.imm 4 then 1 else 2)] ++ (if x.dty = .dflt then [] else [x.srcB 1]) ++ (if bitAt x.imm 0 then [(x.srcC 1).over laneList] else []) ++ c.rsrSrc

/-- What the drain of column j of a lane needs (R187). -/
def State.drainOf (s : State) (c : Ctx) (x : Ext) (y : Tile) (l j : Nat) : Drain :=
  { bias := if bitAt x.imm 0 then some (BitVec.ofNat 32 (c.rdLane j false x.c)) else none
    lut := if bitAt x.imm 1 then some (Tab.get [] (s.core (coreOf c.gid)).luts (bitsOf x.imm 3 2)) else none
    dty := x.dty, scale := c.rd32 l x.b, zp := toSigned 8 (bitsOf x.imm 15 8), mode := c.mode, sat := x.sat
    rb := rotRb (c.rb l) j, int := y.kind == .s32 }

/-- The 32 outputs of a lane's row, with their flags. -/
def State.drainRow (s : State) (c : Ctx) (x : Ext) (y : Tile) (l : Nat) : List (Nat × Fl) :=
  laneList.map (fun j => (s.drainOf c x y l j).out ((y.row l).getD j 0))

/-- ACST, R186 to R188. -/
def execAcst (x : Ext) (s : State) : Host.Outcome State Fault Refusal :=
  let c := s.ctx (.acst x) x
  let cid := coreOf c.gid
  let sp := bitAt x.imm 4
  let act := bitAt x.imm 1
  let slot := bitsOf x.imm 3 2
  let srcs := c.acstSrcs x
  let ad := fun l => if sp then (c.rd32 l x.a).toNat else (c.rd64 l x.a).toNat
  let n := 32 * outBytes x.dty
  s.tileGate c srcs .none x.d 0 (fun k => k != .none) true (fun t =>
    if act && Tab.get 0 (s.core cid).lutown slot != 1#1 ++ c.g.ctxid then s.trapAt c cAccOwner c.en (BitVec.ofNat 64 (0x40 + slot))
    else if s.holdStore c.gid .rlx .grp (c.en.lanes.length * (n / 16)) || s.rowsBusy cid t c.en || (sp && s.windowOut c.gid) then s.stall c.gid
    else
      let y := s.tile cid t
      let outs := fun l => s.drainRow c x y l
      s.rowsGo c (c.g.killSrcs srcs) sp (fun l => if sp then s.spadRow c (ad l) n true else s.memRow c (ad l) n .store) (fun s oks =>
        oks.foldl (fun s p =>
          let os := outs p.1
          let bs := os.flatMap (fun o => bytesLE (outBytes x.dty) o.1)
          let s1 := s.setGroup c.gid ((s.group c.gid).raise p.1 (os.foldl (fun f o => f ||| o.2) 0))
          let s2 := if bitAt x.imm 5 then s1.setTile cid t ((s1.tile cid t).setRow p.1 []) else s1
          if sp then s2.spadStore c.gid (piecesAt (ad p.1) n) bs
          else s2.drainStore c p.1 (ad p.1) p.2 bs) s))

/-! Forms that act once per group. -/

/-- A range of memory that a once-per-group form reads or writes whole, in pieces of 16 bytes: its fault is every enabled lane's. -/
def State.imageGo (s : State) (c : Ctx) (a n : Nat) (acc : Acc) (ok : List (Nat × DWord) → State) : State :=
  match s.memRow c a n acc with
  | .miss vas => s.askWalks c.gid c.g.asid vas
  | .fault k addr => s.trapAt c (rankCause k) c.en (BitVec.ofNat 64 addr)
  | .hold => s.stall c.gid
  | .ok pas => ok (((pas.zip (List.range pas.length))).map (fun p => (p.1, BitVec.ofNat 64 (a + 16 * p.2))))

/-- Such a read, once the group's own accesses there and what the die's stamp covers are performed; a rejection traps before any change. -/
def State.imageRead (s : State) (c : Ctx) (ps : List (Nat × DWord)) (ok : List Byte → State → State) : State :=
  let q := s.blankReq c 0
  if s.holdLoad c.gid || s.ownBefore c.gid s.seq .cb (ps.map (fun p => (p.1, 16))) then s.stall c.gid
  else match s.tfuReads q 16 ps with
    | .wait => s.stall c.gid
    | .fault cause pa va =>
      if cause = cIntegrity then s.haltWorld q.world (BitVec.ofNat 64 pa)
      else (if cause = cMachineCheck then s.mclog (coreOf c.gid) (s.readSrc q.src pa q.world) pa else s).trapPr c cause c.en va
        (privateFault cause q.level (localOf (s.pool q.src) pa))
    | .ok bs s1 => ok bs s1

/-- Bytes as a table. -/
def tabOf (bs : List Byte) : Tab Byte := (List.range bs.length).foldl (fun t i => Tab.set 0 t i (bs.getD i 0)) []

/-- A table slot takes an image for a context. -/
def Core.loadLut (k : Core) (slot : Nat) (bs : List Byte) (ctxid : BitVec 16) : Core :=
  { k with luts := Tab.put k.luts slot (tabOf bs), lutown := Tab.set 0 k.lutown slot (1#1 ++ ctxid) }
/-- ALUT, R185. -/
def execAlut (x : Ext) (s : State) : Host.Outcome State Fault Refusal :=
  let c := s.ctx (.alut x) x
  let slot := x.imm % 4
  if isSystem c.gid then .next (s.illegal c)
  else s.gate c (c.chk [x.srcA 2] .none 0)
    (if c.en = 0 then s.commit c c.g
     else if !allSame (c.en.lanes.map (fun l => c.rd64 l x.a)) then s.trapAt c cUniform c.en 0
     else
       let a := c.rd64 (c.en.first.getD 0) x.a
       s.imageGo c a.toNat 2064 .load (fun ps => s.imageRead c ps (fun bs s =>
         let k := s.core (coreOf c.gid)
         let s1 := s.setCore (coreOf c.gid) (k.loadLut slot bs c.g.ctxid)
         s1.commit c { c.g.killSrcs [x.srcA 2] with lutsrc := Tab.set 0 c.g.lutsrc slot a })))

/-- The level, guard and tile number of a form of R194. -/
def State.onTile (s : State) (i : Instr) (x : Ext) (srcs : List Src) (num : Opnd) (reads : Bool) (ok : Ctx → Nat → State) : Host.Outcome State Fault Refusal :=
  let c := s.ctx i x
  if isSystem c.gid then .next (s.illegal c)
  else if c.g.priv < 2 then .next (s.privTrap c)
  else s.gate c (c.chk srcs .none 0)
    (match c.en.first with
     | none => s.commit c c.g
     | some l =>
       let t := (c.rd32 l num).toNat
       if 63 < t then s.trapAt c cRegBound c.en (BitVec.ofNat 64 t)
       else if c.g.priv < 3 ∧ (s.tile (coreOf c.gid) t).world ≠ c.g.world then s.trapAt c cPermission c.en (BitVec.ofNat 64 t)
       else if s.rowsBusy (coreOf c.gid) t (BitVec.allOnes 32) then s.stall c.gid
       else if reads && (s.tile (coreOf c.gid) t).bad.any (fun p => p.2) then s.rowError c t c.en
       else ok c t)

/-- The image of a tile, R194. -/
def Tile.image (x : Tile) : List Byte :=
  (laneList.flatMap (fun r => (x.row r).flatMap (fun w => bytesLE 4 w.toNat))) ++
  bytesLE 16 (x.own.toNat + (match x.kind with | .none => 0 | .f32 => 1 | .s32 => 2) * 2 ^ 17)

/-- The tile that an image holds, R194; whose record it has, and its world. -/
def Tile.ofImage (bs : List Byte) (recAddr : BitVec 17 → DWord) (world : BitVec 12) : Tile :=
  let w := ofBytesLE ((bs.drop 4096).take 4)
  let ws := Sys2Proof.Machine.elems 4 1024 bs
  { own := BitVec.ofNat 17 w, recAddr := recAddr (BitVec.ofNat 17 w), world := world
    kind := match bitsOf w 18 17 with | 1 => .f32 | 2 => .s32 | _ => .none
    elems := (List.range 1024).foldl (fun e i => Tab.set 0 e i (BitVec.ofNat 32 (ws.getD i 0))) [], bad := [] }

/-- ASPILL: the image's stores are stores of the group. -/
def execAspill (x : Ext) (s : State) : Host.Outcome State Fault Refusal :=
  s.onTile (.aspill x) x [x.srcA 2, x.srcB 1] x.b true (fun c t =>
    let l := c.en.first.getD 0
    let a := (c.rd64 l x.a).toNat
    s.imageGo c a 4112 .store (fun ps =>
      if s.holdStore c.gid .rlx .grp 257 then s.stall c.gid
      else
        let y := s.tile (coreOf c.gid) t
        let s1 := s.commit c (c.g.killSrcs [x.srcA 2, x.srcB 1])
        let s2 := s1.setGroup c.gid { s1.group c.gid with prior := c.g.lanes }
        let c2 : Ctx := if c.g.priv = 3 then { c with g := { c.g with world := y.world } } else c
        s2.drainStore c2 l a (ps.map Prod.fst) y.image))

/-- A group of a core whose context an owner word names: one that holds the tile, the executing group before others, else any (19 R353, 23 R382). -/
def State.ownerOn (s : State) (gid t : Nat) (ctxid : BitVec 16) : Option Group :=
  let gs := (gid, s.group gid) :: s.groups.filter (fun p => coreOf p.1 == coreOf gid)
  let mine (p : Nat × Group) : Bool := p.2.resident && p.2.ctxid == ctxid
  match gs.find? (fun p => mine p && (p.2.ac0.toNat == t || p.2.ac1.toNat == t)) with
  | some p => some p.2
  | none => (gs.find? mine).map Prod.snd

/-- AFILL. At level 3 the image is read in the world of the context that its last row names (23 R382). -/
def execAfill (x : Ext) (s : State) : Host.Outcome State Fault Refusal :=
  s.onTile (.afill x) x [x.srcA 2, x.srcB 1] x.b false (fun c t =>
    let cid := coreOf c.gid
    s.imageGo c (c.rd64 (c.en.first.getD 0) x.a).toNat 4112 .load (fun ps =>
      let own := s.ownerOn c.gid t (BitVec.ofNat 16 (ofBytesLE ((s.memBytes (s.pool (dieOf c.gid)) ((ps.getD 256 (0, 0)).1) 2))))
      let c2 : Ctx := if c.g.priv = 3 then { c with g := { c.g with world := (own.map Group.world).getD c.g.world } } else c
      s.imageRead c2 ps (fun bs s =>
        let own := s.ownerOn c.gid t (BitVec.ofNat 16 (ofBytesLE ((bs.drop 4096).take 2)))
        let y := Tile.ofImage bs
          (fun w => match own with | some g => (if w.getLsbD 16 then g.slotFor t else (s.tile cid t).recAddr) | none => (s.tile cid t).recAddr)
          (if c.g.priv = 3 then (own.map Group.world).getD c.g.world else c.g.world)
        (s.setTile cid t y).commit c (c.g.killSrcs [x.srcA 2, x.srcB 1]))))

/-- A tile zeroed, of no kind. -/
def Tile.zeroed (y : Tile) : Tile := { y with kind := .none, elems := [], bad := [] }
/-- AOWN. -/
def execAown (x : Ext) (s : State) : Host.Outcome State Fault Refusal :=
  s.onTile (.aown x) x [x.srcA 1] x.a false (fun c t =>
    let cid := coreOf c.gid
    let y := s.tile cid t
    let y := if bitAt x.imm 0 then y.zeroed else y
    (s.setTile cid t (c.g.own t y)).commit c (c.g.killSrcs [x.srcA 1]))

end Sys2Proof.Machine
end

