-- ==== Sys2Proof/Machine/Streams.lean ====
section
/-!
DEFINITION. Operand streams (09 R189 to R193): OSOPEN, OSSUB, OSCLOSE, the distributor's reads and replies.
-/

namespace Sys2Proof.Machine

/-- The floor F after a change of positions: the least P over the subscribers; tiles below it are released (R191). -/
def Stream.settle (x : Stream) : Stream :=
  let f := match x.subs.map Sub.p with
    | [] => x.floor
    | p :: r => r.foldl min p
  { x with floor := f, tiles := x.tiles.filter (fun t => decide (f ≤ t.t)) }

/-- A stream closes: its generation advances (R189). -/
def Stream.close (x : Stream) : Stream := { Stream.reset with gen := x.gen + 1 }
/-- A group's subscription ends. -/
def Stream.leave (x : Stream) (gid : Nat) : Stream := ({ x with subs := x.subs.filter (fun u => u.gid != gid) }).settle

/-- The checks common to the stream forms: MAJ 0x3D is illegal on a system core, operands are the same in every enabled lane (R190). -/
def State.streamForm (s : State) (i : Instr) (x : Ext) (srcs : List Src) (d : Opnd) (same : Ctx → Bool) (ok : Ctx → Nat → State) :
    Host.Outcome State Fault Refusal :=
  let c := s.ctx i x
  if isSystem c.gid then .next (s.illegal c)
  else s.gate c (c.chk srcs d 1)
    (match c.en.first with
     | none => s.commit c c.g
     | some l => if !same c then s.trapAt c cUniform c.en 0 else ok c l)

/-- The distributor's reply is on its way: D is empty until DISTRIBUTOR_REPLY brings it (R190). -/
def State.replyLater (s : State) (c : Ctx) (d : Opnd) (v : Nat) : State :=
  if d = .none then s
  else
    let g := s.group c.gid
    (s.setGroup c.gid (g.markEmpty d 4)).addReq
      { s.blankReq c g.issueNo with
        dst := d, width := 4, performed := true, pa := 2 ^ 64 + 1
        members := c.en.lanes.map (fun l => ⟨l, (g.lane l).gen, 0, 0⟩), result := c.en.lanes.map (fun l => (l, BitVec.ofNat 128 v)) }

/-- OSOPEN, R190, R191. -/
def osopenMeaning (i : Instr) (x : Ext) (s : State) : Host.Outcome State Fault Refusal :=
  let srcs := [x.srcA 2, x.srcB 1]
  s.streamForm i x srcs x.d (fun c => allSame (c.en.lanes.map (fun l => c.rd64 l x.a)) && allSame (c.en.lanes.map (fun l => c.rd32 l x.b))) (fun c l =>
    let a := c.rd64 l x.a
    let b := (c.rd32 l x.b).toNat
    let die := dieOf c.gid
    let s1 := s.commit c (c.g.killSrcs srcs)
    match (List.range 64).find? (fun k => !(s.stream die k).opened) with
    | none => s1.replyLater c x.d 0xFFFFFFFF
    | some k =>
      if b % 65536 = 0 ∨ 2 ^ 17 ≤ b ∧ b / 2 ^ 17 ≠ 0 ∨ a.toNat % 256 ≠ 0 then s1.replyLater c x.d 0xFFFFFFFE
      else
        let y : Stream := { Stream.reset with
          opened := true, gen := (s.stream die k).gen, base := a, n := b % 65536, size := if b / 65536 = 0 then 2048 else 4096
          asid := c.g.asid, vdev := c.g.vdev, world := c.g.world, level := c.g.priv, launch := c.g.launch }
        (s1.setStream die k y).replyLater c x.d (y.gen.toNat * 64 + k))
def execOsopen (d a b : Opnd) (s : State) : Host.Outcome State Fault Refusal := osopenMeaning (.osopen d a b) (Ext.ofBase 0x3D d a b) s
def execOsopenX (x : Ext) (s : State) : Host.Outcome State Fault Refusal := osopenMeaning (.osopenX x) x s

/-- A change of a group's subscription. -/
def Stream.mapSub (x : Stream) (gid : Nat) (f : Sub → Sub) : Stream := { x with subs := x.subs.map (fun (v : Sub) => if v.gid = gid then f v else v) }

/-- OSSUB, R191: subscribe with a window, or declare tiles consumed. A handle is the operand's low 16 bits; TADDR records the operand whole (DESIGN CHOICE,
assumption 112). -/
def execOssub (x : Ext) (s : State) : Host.Outcome State Fault Refusal :=
  let adv := bitAt x.imm 4
  let srcs := x.srcA 1 :: (if adv then [x.srcB 1] else [])
  s.streamForm (.ossub x) x srcs x.d (fun c => allSame (c.en.lanes.map (fun l => c.rd32 l x.a)) && (!adv || allSame (c.en.lanes.map (fun l => c.rd32 l x.b)))) (fun c l =>
    let h := c.rd32 l x.a
    let k := h.toNat % 64
    let die := dieOf c.gid
    let y := s.stream die k
    let mine := y.subs.find? (fun u => u.gid == c.gid)
    if !s.handleOk c.gid (h.toNat % 65536) || (adv && mine.isNone) then s.trapAt c cPermission c.en (h.zeroExtend 64)
    else
      let s1 := s.commit c (c.g.killSrcs srcs)
      match mine with
      | some u =>
        if adv then
          let p := max u.p (min (c.rd32 l x.b).toNat y.n)
          (s1.setStream die k (y.mapSub c.gid (fun v => { v with p := p })).settle).replyLater c x.d p
        else (s1.setStream die k (y.mapSub c.gid (fun v => { v with w := x.imm % 16 }))).replyLater c x.d u.p
      | none =>
        if 256 ≤ y.subs.length then s1.replyLater c x.d 0xFFFFFFFF
        else (s1.setStream die k { y with subs := y.subs ++ [{ gid := c.gid, w := x.imm % 16, p := y.floor }] }).replyLater c x.d y.floor)

/-- OSCLOSE, R191. The handle is that of OSSUB (assumption 112). -/
def execOsclose (x : Ext) (s : State) : Host.Outcome State Fault Refusal :=
  s.streamForm (.osclose x) x [x.srcA 1] .none (fun c => allSame (c.en.lanes.map (fun l => c.rd32 l x.a))) (fun c l =>
    let h := c.rd32 l x.a
    let k := h.toNat % 64
    let die := dieOf c.gid
    if !s.handleOk c.gid (h.toNat % 65536) then s.trapAt c cPermission c.en (h.zeroExtend 64)
    else
      let s1 := s.commit c (c.g.killSrcs [x.srcA 1])
      s1.setStream die k (if bitAt x.imm 0 then (s.stream die k).close else (s.stream die k).leave c.gid))

/-- DISTRIBUTOR_REPLY: D becomes full (R190). -/
def execDistributorReply (id : Nat) (s : State) : Host.Outcome State Fault Refusal :=
  match s.req? id with
  | some r => .next (if r.performed && r.pa == 2 ^ 64 + 1 then s.finish r else s)
  | none => .next s

/-- The agent that reads for a stream, in the generation that the stream's space has now (R193, 11 R222). -/
def State.streamAgent (s : State) (die : Nat) (x : Stream) : Agent :=
  { cid := die * 64, q := 0, asid := x.asid.toNat, gen := (s.space x.asid.toNat).gen, level := x.level, vdev := x.vdev, ctxid := 0, world := x.world, own := false }

/-- A tile may be read now. -/
def State.tileReadable (s : State) (die slot t : Nat) : Bool :=
  let x := s.stream die slot
  x.opened && decide (x.floor ≤ t) && decide (t < x.n) && !x.tiles.any (fun k => k.t == t) && s.settled die

/-- STREAM_TILE_READ: the distributor reads a tile once (R193). -/
def execStreamTileRead (die slot t : Nat) (s : State) : Host.Outcome State Fault Refusal :=
  if !s.tileReadable die slot t then .next s
  else
    let x := s.stream die slot
    let put (s : State) (k : StreamTile) : State := s.setStream die slot { s.stream die slot with tiles := (s.stream die slot).tiles ++ [k] }
    match s.engReadMem (s.streamAgent die x) (pieces 4096 (x.base.toNat + t * x.size) x.size) with
    | .ok (bs, s1) => .next (put s1 { t := t, bytes := bs, fault := none })
    | .error ((cause, va), s1) =>
      .next (if cause = 0 then s else put s1 { t := t, bytes := [], fault := some (BitVec.ofNat 8 cause, BitVec.ofNat 64 va) })

/-- The tiles that the subscribers of a die may name next and that are not read. -/
def State.wantedTile (s : State) (die : Nat) : Option (Nat × Nat) :=
  (List.range 64).findSome? (fun k =>
    let x := s.stream die k
    let w := x.subs.foldl (fun a u => max a u.w) 0
    if x.subs.isEmpty then none
    else ((List.range (w + 1)).find? (fun i => s.tileReadable die k (x.floor + i))).map (fun i => (k, x.floor + i)))

/-- A group leaves its slot: its subscriptions end, and the streams of its launch close once its last group on the die, resident or
saved, has left (R191), even if gangs of the launch are still to be placed there (DESIGN CHOICE, assumption 112). -/
def State.leaveStreams (s : State) (gid : Nat) : State :=
  let die := dieOf gid
  let launch := (s.group gid).launch
  let last := !s.groups.any (fun p => dieOf p.1 == die && p.1 != gid && p.2.resident && p.2.launch == launch && p.2.status != .vacant) &&
    !s.saved.any (fun x => x.gang.die == die && x.groups.any (fun q => q.2.launch == launch))
  s.setDie die { s.die die with streams := (s.die die).streams.map (fun p =>
    (p.1, if !p.2.opened then p.2 else if last && p.2.launch == launch then p.2.close else if p.2.subs.any (fun u => u.gid == gid) then p.2.leave gid else p.2)) }

end Sys2Proof.Machine
end

