-- ==== Sys2Proof/Machine/Launching.lean ====
section
/-!
DEFINITION. Launches (19 R339, R343 to R345), dealing items (R346, 07 R127), placing gangs (R347, 07 R128, R137, 20 R356), retirement (07 R134, R135).
-/

namespace Sys2Proof.Machine

/-! Copying a launch. -/

/-- The distributor of a die as an agent of a virtual device, in a space and at a level. -/
def State.distAgent (s : State) (die asid level : Nat) (vdev : BitVec 8) : Agent :=
  { cid := die * 64, q := 0, asid := asid, gen := (s.space asid).gen, level := level, vdev := vdev, ctxid := 0, world := s.worldOfVdev vdev, own := false }
/-- The distributor of a die as an agent of a launch in its data space. -/
def State.launchAgent (s : State) (die level : Nat) (l : Launch) : Agent := s.distAgent die l.asid.toNat level l.vdev

/-- Eight-byte words of a list of bytes. -/
def wordAt (bs : List Byte) (k : Nat) : Nat := ofBytesLE ((bs.drop (8 * k)).take 8)

/-- A kernel descriptor (R339), or none when it breaks the rule. -/
def kernelOf (bs : List Byte) : Option Kernel :=
  let w1 := wordAt bs 1
  let w3 := wordAt bs 3
  let ext := bitsOf w1 51 44
  let rows := bitsOf w1 14 0
  if ext ≤ 128 ∧ ext % 16 = 0 ∧ bitsOf w1 43 42 ≤ 2 ∧ rows ≤ 16384 ∧ bitsOf w1 30 15 = 0 ∧ bitsOf w3 31 16 = 0 ∧
     wordAt bs 4 = 0 ∧ wordAt bs 5 = 0 ∧ wordAt bs 6 = 0 ∧ wordAt bs 7 = 0 then
    some { entry := BitVec.ofNat 64 (wordAt bs 0), casid := BitVec.ofNat 12 (bitsOf w1 63 52), ext := ext, acc := bitsOf w1 43 42
           gang := bitsOf w1 41 40 + 1, wg := bitsOf w1 39 35 + 1, refill := bitAt w1 34, tag := bitAt w1 33, pin := bitAt w1 32, xq := bitAt w1 31
           rows := rows, ptab := BitVec.ofNat 64 (wordAt bs 2), entries := bitsOf w3 15 0, recsz := bitsOf w3 63 32 }
  else none

/-- What copying a launch entry comes to: an error 0 when a read must wait, 1 when the entry is malformed. -/
abbrev CopyErr := Nat
/-- The error of an access of the distributor. -/
def copyErr (cause : Nat) : CopyErr := if cause = 0 then 0 else 1

/-- Each piece translates writable, and for a world lies in its sealed regions (R347, 23 R383). A piece lies in one block of the spread window (11 R206). -/
def State.poolOk (s : State) (a : Agent) : List (Nat × Nat) → Except (CopyErr × State) State
  | [] => .ok s
  | (va, _) :: r =>
    match s.engLeaf { a with level := 1 } va .store with
    | .error (c, t) => .error (copyErr c, t)
    | .ok (pa, dev, s1) =>
      let l := localOf (s.pool a.die) pa
      if !dev && ((regionOf (s.pool a.die) pa).memory || beyondPool (s.pool a.die) pa) && (a.world == 0 || s.sealedAt l == some a.world) then s1.poolOk a r
      else .error (1, s1)

/-- The fields of a launch entry are in range (R343, R344). -/
def State.fieldsOk (s : State) (home : Nat) (v : BitVec 8) (w : Nat → Nat) : Bool :=
  bitsOf (w 1) 31 0 != 0 && bitsOf (w 1) 63 32 != 0 && bitsOf (w 2) 31 0 != 0 && bitsOf (w 2) 47 44 == 0 && bitsOf (w 2) 39 32 == 0 && bitsOf (w 3) 31 12 == 0 &&
  decide (bitsOf (w 2) 43 42 ≤ bitsOf (s.vdt home v.toNat).1 57 56) && w 0 % 64 == 0 && w 4 % 8 == 0 && w 6 % 256 == 0 && bitsOf (w 7) 31 0 == 0 &&
  [8, 10, 12, 14].all (fun k => w k % 8 == 0)

/-- A launch entry with the kernel that its descriptor describes. -/
def launchWith (seq home : Nat) (v : BitVec 8) (w : Nat → Nat) (k : Kernel) : Launch :=
  { seq := seq, vdev := v, k := k, asid := BitVec.ofNat 12 (bitsOf (w 3) 11 0), ctxid := BitVec.ofNat 16 (bitsOf (w 2) 63 48), level := bitsOf (w 2) 43 42
    prio := bitsOf (w 2) 41 40, nx := bitsOf (w 1) 31 0, ny := bitsOf (w 1) 63 32, nz := bitsOf (w 2) 31 0, dieMask := BitVec.ofNat 32 (bitsOf (w 3) 63 32)
    cwaddr := BitVec.ofNat 64 (w 4), cval := BitVec.ofNat 64 (w 5), savebase := BitVec.ofNat 64 (w 6), savecnt := bitsOf (w 7) 63 32
    deps := ([8, 10, 12, 14].filter (fun i => w i != 0)).map (fun i => (BitVec.ofNat 64 (w i), BitVec.ofNat 64 (w (i + 1))))
    home := home, eligible := false, halted := false, placed := [], first := [], taken := [], cur := [], stolen := [], back := [], dry := [], recs := [] }

/-- A launch entry is read: its fields, its descriptor, its save pool (R343, R344, R347). -/
def State.launchOf (s : State) (home : Nat) (v : BitVec 8) (bs : List Byte) : Except (CopyErr × State) (Launch × State) :=
  let w := wordAt bs
  let a := s.distAgent home (bitsOf (w 3) 11 0) (bitsOf (w 2) 43 42) v
  if !s.fieldsOk home v w then .error (1, s)
  else match s.engReadMem a (pieces 4096 (w 0) 64) with
    | .error ((c, _), t) => .error (copyErr c, t)
    | .ok (kb, s1) =>
      match kernelOf kb with
      | none => .error (1, s1)
      | some k =>
        match s1.poolOk a (pieces 2048 (w 6) (bitsOf (w 7) 63 32 * k.recsz)) with
        | .error c => .error c
        | .ok s2 => .ok (launchWith s.seq home v w k, s2)

/-- An entry of a virtual device's ring waits to be copied, and the pending set has room (R344). -/
def State.copyDue (s : State) (v : Nat) : Option Nat :=
  let r := s.ring v
  if r.err || r.head == r.tail then none
  else match s.homeOfVdev v with
    | some d =>
      if s.settled d && s.tableReady d (s.vdtEntry d v) && decide ((s.launches.filter (fun l => l.vdev.toNat == v && !l.eligible)).length < 64) then some d else none
    | none => none

/-- LAUNCH_COPY, R344. The ring is read as the virtual device (23 R381); a home that refuses the read leaves the entry malformed. -/
def execLaunchCopy (vdev : Nat) (s : State) : Host.Outcome State Fault Refusal :=
  match s.copyDue vdev with
  | none => .next s
  | some d =>
    let r := s.ring vdev
    let (_, base, sz) := s.vdt d vdev
    let s0 := s
    let s := s.vdtLook d vdev
    let pa := base + 128 * r.head.toNat
    let v := BitVec.ofNat 8 vdev
    let l := localOf (s.pool d) pa
    let fail (t : State) : State := t.setRing vdev { r with err := true }
    if !(regionOf (s.pool d) pa).memory then .next (fail s)
    else match (if cxlHole pa then none else s.homeRefuses (homeOf (s.pool d) pa) l 1 0 (s.space 0).gen (s.worldOfVdev v) true) with
      | some c =>
        .next (fail (if c = cIntegrity then s.haltWorld (s.worldOfVdev v) (BitVec.ofNat 64 pa)
          else if c = cMachineCheck then s.mclog (homeOf (s.pool d) pa * 64) (s.errSrc (homeOf (s.pool d) pa) l) l else s))
      | none =>
        let (bs, s1) := s.agentRead d (s.pool d) pa 128
        match s1.launchOf d v bs with
        | .error (0, _) => .next s0
        | .error (_, t) => .next (fail t)
        | .ok (x, s2) =>
          .next { s2.setRing vdev { r with head := BitVec.ofNat 16 ((r.head.toNat + 1) % (bitsOf sz 15 0)) } with
            launches := s2.launches ++ [x], seq := s2.seq + 1, launched := true
            contexts := (vdev, x.ctxid.toNat, BitVec.allOnes 32) :: s2.contexts.filter (fun p => !(p.1 == vdev && p.2.1 == x.ctxid.toNat)) }

/-- A dependence is read: what it holds, as an acquire that merges into the home die's stamp (R345). -/
def State.readDep (s : State) (l : Launch) (d : DWord × DWord) : Except (EngErr × State) (List Byte × State) :=
  s.engReadMem (s.launchAgent l.home l.level l) [(d.1.toNat, 8)]
/-- A dependence holds: the word there is at least the value. -/
def State.depHolds (s : State) (l : Launch) (d : DWord × DWord) : Bool :=
  match s.readDep l d with
  | .ok (bs, _) => decide (d.2.toNat ≤ ofBytesLE bs)
  | .error _ => false
/-- The words that a launch waited on are read. -/
def State.depMerge (s : State) (l : Launch) : State :=
  l.deps.foldl (fun s d => match s.readDep l d with
    | .ok (_, s1) => s1
    | .error _ => s) s
def State.pollDue (s : State) (l : Launch) : Bool := !l.eligible && s.settled l.home && l.deps.all (fun d => s.depHolds l d)

/-- DEPENDENCE_POLL, R345: a pending launch becomes eligible when every dependence holds. -/
def execDependencePoll (seq : Nat) (s : State) : Host.Outcome State Fault Refusal :=
  match s.launch? seq with
  | some l => .next (if s.pollDue l then (s.depMerge l).onLaunch seq (fun l => { l with eligible := true }) else s)
  | none => .next s

/-! Dealing. -/

/-- The items a distributor holds. -/
def Launch.avail (l : Launch) (d : Nat) : Nat :=
  (Tab.get [] l.back d).length + (Tab.get [] l.cur d).length + (Tab.get [] l.stolen d).flatten.length +
  (List.range (l.undealt d)).foldl (fun a i => a + (l.chunk (32 * (Tab.get 0 l.first d + i) + d)).length) 0

/-- The items of a first fill without refill: run after run, the rest of the last run stays as the current chunk, or
among the returned items (R127, R346). -/
def Launch.takeItems (l : Launch) (d : Nat) : Nat → Nat → List Nat × Launch
  | 0, _ => ([], l)
  | fuel + 1, need =>
    if need = 0 then ([], l)
    else match l.deal d with
      | none => ([], l)
      | some (is, l1) =>
        let rest := is.drop need
        if rest.isEmpty then
          let r := l1.takeItems d fuel (need - is.length)
          (is ++ r.1, r.2)
        else if (Tab.get [] l.back d).isEmpty then (is.take need, { l1 with cur := Tab.put l1.cur d (rest ++ Tab.get [] l1.cur d) })
        else (is.take need, { l1 with back := Tab.put l1.back d (rest ++ Tab.get [] l1.back d) })

/-- The items of each member's first fill, and the launch after (R127, R128). -/
def Launch.memberItems (l : Launch) (d : Nat) : Nat → List (List Nat) × Launch
  | 0 => ([], l)
  | n + 1 =>
    let r := if l.k.refill then (match l.deal d with | some (is, l1) => (is, l1) | none => ([], l)) else l.takeItems d (32 * l.k.wg + 1) (32 * l.k.wg)
    let q := r.2.memberItems d n
    (r.1 :: q.1, q.2)

/-- A new gang has what its first fill needs, or the distributor is exhausted (R127). -/
def Launch.fillReady (l : Launch) (d : Nat) : Bool :=
  Tab.get false l.dry d ||
  (if l.k.refill then (l.memberItems d l.k.gang).1.all (fun is => !is.isEmpty) else decide (l.k.gang * 32 * l.k.wg ≤ l.avail d))
/-- A new gang of the launch waits to be placed on a die: it may run there, and the die holds items, or may yet take some from another die. -/
def State.wantsGang (s : State) (l : Launch) (d : Nat) : Bool :=
  l.eligible && !l.halted && l.dieMask.getLsbD d &&
  (decide (0 < l.avail d) ||
   (!Tab.get false l.dry d && ((List.range 32).any (fun e => e != d && l.holds e) || s.steals.any (fun x => x.seq == l.seq && x.asker == d))))

/-! Where a gang fits. -/

/-- The resident groups of a core. -/
def State.coreGroups (s : State) (cid : Nat) : List (Nat × Group) := s.groups.filter (fun p => coreOf p.1 == cid && p.2.resident)
def State.freeSlots (s : State) (cid : Nat) : List Nat := laneList.filter (fun k => !(s.group (cid * 32 + k)).resident)
/-- The tiles of a core that no resident group holds, ascending (20 R356). -/
def State.freeTiles (s : State) (cid : Nat) : List Nat :=
  let gs := s.coreGroups cid
  (List.range 64).filter (fun t => gs.all (fun p => p.2.ac0.toNat != t && p.2.ac1.toNat != t))
/-- The workgroups whose scratchpad parts lie on a core: a part is free again when its workgroup has retired (07 R135). -/
def State.coreWgs (s : State) (cid : Nat) : List Workgroup := (s.wgs.map Prod.snd).filter (fun w => w.core == cid && w.live)

/-- The lowest place of n bytes of a core's scratchpad that no workgroup holds: place 0, or the end of a workgroup. -/
def State.spadPlace (s : State) (cid n : Nat) : Option Nat :=
  let ws := s.coreWgs cid
  let ok (b : Nat) : Bool := decide (b + n ≤ 0x40000) && ws.all (fun w => decide (b + n ≤ w.base) || decide (w.base + w.size ≤ b))
  ((0 :: ws.map (fun w => w.base + w.size)).filter ok).foldl (fun a b => match a with | none => some b | some x => some (min x b)) none

/-- A core may hold a gang of a virtual device, and what a workgroup needs is free (07 R137). -/
def State.coreMay (s : State) (cid : Nat) (v : BitVec 8) : Bool :=
  (Tab.get 0 (s.die (coreDie cid)).cmt v.toNat).getLsbD (coreNo cid)
def State.coreTakes (s : State) (cid : Nat) (v : BitVec 8) (k : Kernel) (exts : List Nat) (tiles : Nat) : Bool :=
  s.coreMay cid v && (s.coreGroups cid).all (fun p => p.2.vdev == v) && decide (exts.length ≤ (s.freeSlots cid).length) &&
  decide (exts.foldl (fun a e => a + e) 0 ≤ s.poolFree cid) && decide (tiles ≤ (s.freeTiles cid).length) && (s.spadPlace cid (16 * k.rows)).isSome

/-- Runs of g consecutive cores of one cell, the lowest cell first, the lowest core first (R347). -/
def gangSpots (g : Nat) : List Nat := (List.range 64).filter (fun c => decide (c % 4 + g ≤ 4))
/-- The die has a cell with g cores for the virtual device (R345). -/
def State.everFits (s : State) (d : Nat) (l : Launch) : Bool := (gangSpots l.k.gang).any (fun c => (List.range l.k.gang).all (fun m => s.coreMay (d * 64 + c + m) l.vdev))

def State.freeWire (s : State) (d : Nat) : Option Nat := (List.range 8).find? (fun w => (s.wire d w).gang.isNone)
/-- The first save record that is not in use, among as many as could be. -/
def Launch.freeRec (l : Launch) : Option Nat := (List.range (min l.savecnt (l.recs.length + 1))).find? (fun r => !l.recs.contains r)

/-- Where a new gang goes. -/
def State.spotFor (s : State) (d : Nat) (l : Launch) : Option Nat :=
  if (l.k.tag && (s.freeWire d).isNone) || l.freeRec.isNone then none
  else (gangSpots l.k.gang).find? (fun c => (List.range l.k.gang).all (fun m =>
    s.coreTakes (d * 64 + c + m) l.vdev l.k (List.replicate l.k.wg l.k.ext) (l.k.wg * l.k.acc)))

/-- The tiles that the groups of a saved gang hold on its member m. -/
def Saved.tiles (v : Saved) (m : Nat) : List Nat :=
  (v.groups.filter (fun p => p.2.member == m)).flatMap (fun p => [p.2.ac0.toNat, p.2.ac1.toNat].filter (fun t => t != 0xFF))
def Saved.exts (v : Saved) (m : Nat) : List Nat := (v.groups.filter (fun p => p.2.member == m)).map (fun p => p.2.ext)
/-- The members whose workgroup has not retired. -/
def Saved.memberLive (v : Saved) (m : Nat) : Bool := v.wgs.any (fun p => p.2.member == m && p.2.live)

/-- A saved gang waits for its recorded tile numbers, or no cell of the die holds its number of cores in CMT: it holds no other gang back (R345, 20 R356). -/
def State.savedSkips (s : State) (v : Saved) (l : Launch) : Bool :=
  !s.everFits v.gang.die l ||
  (l.k.acc != 0 && (List.range v.gang.members).any (fun m => (v.tiles m).any (fun t => !(s.freeTiles (v.gang.core + m)).contains t)))

/-- Where a saved gang is restored: with tiles, on the cores it left (R351). -/
def State.spotForSaved (s : State) (v : Saved) (l : Launch) : Option Nat :=
  let d := v.gang.die
  let fits (c : Nat) : Bool := (List.range v.gang.members).all (fun m =>
    if v.memberLive m then s.coreTakes (d * 64 + c + m) l.vdev l.k (v.exts m) 0 else s.coreMay (d * 64 + c + m) l.vdev)
  if l.k.tag && (s.freeWire d).isNone then none
  else if l.k.acc = 0 then (gangSpots v.gang.members).find? fits
  else if fits (coreNo v.gang.core) then some (coreNo v.gang.core) else none

/-- What a distributor does next for a virtual device (R345 to R347). -/
inductive Cand where
  | place (seq core : Nat)
  | restore (gang core : Nat)
  | steal (seq : Nat)
  | blocked
  deriving DecidableEq, Repr

/-- The launches of a virtual device in the order of placement: priority, then ring order. -/
def State.ordered (s : State) (v : BitVec 8) : List Launch :=
  let ls := s.launches.filter (fun l => l.vdev == v && l.eligible && !l.halted)
  [3, 2, 1, 0].flatMap (fun p => ls.filter (fun l => l.prio == p))

/-- What one launch asks of a die: its saved gangs first, then a new one; none when it asks nothing, or only for gangs that hold no other back. -/
def State.candOf (s : State) (d : Nat) (l : Launch) : Option Cand :=
  match (s.saved.filter (fun v => v.gang.launch == l.seq && v.gang.die == d && !s.savedSkips v l)) with
  | v :: _ => some (match s.spotForSaved v l with | some c => .restore v.gang.id c | none => .blocked)
  | [] =>
    if !s.wantsGang l d || !s.everFits d l then none
    else match s.spotFor d l with
      | none => some .blocked
      | some c => some (if l.fillReady d then .place l.seq c else .steal l.seq)
/-- The first in the strict order (R345). -/
def State.cand (s : State) (d : Nat) (v : BitVec 8) : Option Cand := (s.ordered v).findSome? (fun l => s.candOf d l)
/-- What a saved gang waits for may come to it: a cell that holds its number of cores, or with tiles the cores it left, belongs to its virtual device. -/
def State.mayReturn (s : State) (x : Saved) (l : Launch) : Bool :=
  if l.k.acc = 0 then s.everFits x.gang.die l else (List.range x.gang.members).all (fun m => s.coreMay (x.gang.core + m) l.vdev)
/-- A gang of v waits to be placed on the die (R348). One whose cores are not its virtual device's waits for system software, which no turn brings about
(20 R357, assumption 67). -/
def State.placeable (s : State) (d : Nat) (v : BitVec 8) : Bool :=
  (s.ordered v).any (fun l => (s.wantsGang l d && s.everFits d l) || s.saved.any (fun x => x.gang.launch == l.seq && x.gang.die == d && s.mayReturn x l))

/-! Placing. -/

/-- The tile slot of group i of a gang under name n, in its record (R347, R353). The layout of the record is the device's own. -/
def Launch.tileSlot (l : Launch) (record i n : Nat) : Nat :=
  let g := l.k.gang * l.k.wg
  let top := if l.k.xq then 192 else 64 + l.k.ext
  l.savebase.toNat + record * l.k.recsz + 256 + g * (2048 + 128 * top) + (i * l.k.acc + n) * 4112

/-- The distributor of a die writes into the save pool of a launch, part by part. A fault discards the rest of the write and stops the launch's placement
(R347); none when the write must wait, for its page or for a frontier (12 R237). -/
def State.poolParts (s : State) (d : Nat) (l : Launch) : List (Nat × List Byte) → Option State
  | [] => some s
  | (va, bs) :: r =>
    if s.farAheadBy d 1 then none
    else match s.engWrite (s.launchAgent d 1 l) 0 va bs true with
    | .ok s1 => s1.poolParts d l r
    | .error ((0, _), _) => none
    | .error (_, s1) => some (s1.onLaunch l.seq (fun l => { l with halted := true }))
/-- A write of one part. -/
def State.poolWrite (s : State) (d : Nat) (l : Launch) (va : Nat) (bs : List Byte) : Option State := s.poolParts d l [(va, bs)]

/-- The owner words of a record's tile slots become 0 (R347). -/
def State.clearSlots (s : State) (d : Nat) (l : Launch) (record : Nat) : Option State :=
  (List.range (l.k.gang * l.k.wg * l.k.acc)).foldl (fun (o : Option State) j =>
    o.bind (fun s => s.poolWrite d l (l.tileSlot record (j / l.k.acc) (j % l.k.acc) + 4096) (List.replicate 8 0))) (some s)

/-- n bytes that nothing constrains. -/
def freeBytes (free n : Nat) : List Byte := (List.range n).map (fun i => ((Config.freeValue (free + i / 8)) >>> (8 * (i % 8))).truncate 8)

/-- The parts of a record that are the device's own, as offset and length: what stands before its tile slots, and the rows and tags behind them (R340). -/
def Launch.ownParts (l : Launch) : List (Nat × Nat) :=
  let part (a n : Nat) : Nat × Nat := (a, min n (l.k.recsz - a))
  let slots := l.tileSlot 0 0 0 - l.savebase.toNat
  [part 0 slots, part (slots + l.k.gang * l.k.wg * l.k.acc * 4112) (16 * l.k.rows * (l.k.gang + 1))].filter (fun p => p.2 != 0)
/-- A gang's record is written: the layout of its own parts is the device's own, so that what stands there afterwards is free (R350, assumption 65). -/
def State.writeRecord (s : State) (d : Nat) (l : Launch) (record : Nat) : Option State :=
  { s with free := s.free + l.k.recsz }.poolParts d l
    (l.ownParts.map (fun (p : Nat × Nat) => (l.savebase.toNat + record * l.k.recsz + p.1, freeBytes (s.free + p.1) p.2)))

/-- A claim at placement: a tile without an owner becomes the group's, zeroed, of no kind (09 R170). -/
def State.claim (s : State) (cid : Nat) (g : Group) (t : Nat) : State :=
  if (s.tile cid t).own.getLsbD 16 then s else s.setTile cid t (g.own t { Tile.reset with kind := .none })

/-- The barrier objects of a workgroup that retires, or leaves its core, are free (07 R135). -/
def Core.freeBars (k : Core) (base size : Nat) : Core := { k with bar := Tab.keep (fun r => outside base size (r * 16)) k.bar }
/-- The rows of a newly placed workgroup read zero, with sound bits, and are no barriers (11 R224). -/
def Core.freeRows (k : Core) (base size : Nat) : Core := { k.freeBars base size with spad := Tab.keep (outside base size) k.spad, badSpad := Tab.keep (fun r => outside base size (r * 16)) k.badSpad }

/-- A group of a new gang: its registers at launch (07 R132, R137, 09 R170). -/
def Launch.newGroup (l : Launch) (s : State) (gang wg m i record gangIdx : Nat) (tiles : List Nat) : Group :=
  let t (n : Nat) : BitVec 8 := match tiles[n]? with | some t => BitVec.ofNat 8 t | none => 0xFF
  let slot (n : Nat) : DWord := if n < tiles.length then BitVec.ofNat 64 (l.tileSlot record i n) else 0
  ({ Group.vacant with
    status := .running, ext := l.k.ext, ctxid := l.ctxid, ac0 := t 0, ac1 := t 1, accslot0 := slot 0, accslot1 := slot 1
    world := s.worldOfVdev l.vdev, asid := l.asid, cgen := (s.space l.k.casid.toNat).gen, vdev := l.vdev, k := l.k, launch := l.seq, gang := gang, wg := wg
    wgIdx := BitVec.ofNat 32 (gangIdx * l.k.gang + m), gangIdx := BitVec.ofNat 32 gangIdx, member := m
    spbase := BitVec.ofNat 32 ((s.wg wg).base), lastIssue := s.clock, readySince := s.clock }).setPriv l.level

/-- The groups of one member are placed: slots, tiles, first fill in order (07 R128). Any free slot may be taken (07 R122): the lowest is (assumption 66). -/
def State.placeGroups (s : State) (d : Nat) (l : Launch) (gang wg m record gangIdx cid : Nat) : List Nat → List Nat → State × List Nat
  | [], _ => (s, [])
  | i :: is, items =>
    let slot := ((s.freeSlots cid)[0]?).getD 0
    let gid := cid * 32 + slot
    let tiles := (s.freeTiles cid).take l.k.acc
    let g0 := l.newGroup s gang wg m (m * l.k.wg + i) record gangIdx tiles
    let (g1, rest) := g0.fillFrom l.nx l.ny laneList items
    let s1 := tiles.foldl (fun s t => s.claim cid g0 t) (s.setGroup gid g1)
    let (s2, gs) := s1.placeGroups d l gang wg m record gangIdx cid is rest
    (s2, gid :: gs)

/-- The members of a new gang are placed. -/
def State.placeMembers (s : State) (d : Nat) (l : Launch) (gang record gangIdx core : Nat) : List Nat → List (List Nat) → State × List Nat × List Nat
  | [], _ => (s, [], [])
  | m :: ms, items =>
    let is := items.headD []
    let cid := core + m
    let wg := s.seq
    let base := (s.spadPlace cid (16 * l.k.rows)).getD 0
    let n := l.k.wg * 32
    let w : Workgroup := { gang := gang, member := m, core := cid, base := base, size := 16 * l.k.rows,
                           items := if l.k.refill then is.drop n else [], waiters := [], fetching := false, dry := false, live := true }
    let s1 := { s.setWg wg (if l.k.refill then w.wantsChunk else w) with seq := s.seq + 1 }
    let s2 := s1.setCore cid ((s1.core cid).freeRows base (16 * l.k.rows))
    let (s3, gs) := s2.placeGroups d l gang wg m record gangIdx cid (List.range l.k.wg) is
    let (s4, ws, hs) := s3.placeMembers d l gang record gangIdx core ms (items.drop 1)
    (s4, wg :: ws, gs ++ hs)

/-- A group begins as if by an acquire at system scope that read what its launch waited on, and fetches see the code stored before (12 R247); one that took
no item drains or waits for items. -/
def State.startGroup (s : State) (gid : Nat) : State :=
  let t := s.acquire gid .sys
  (t.setCore (coreOf gid) { t.core (coreOf gid) with l1i := [] }).afterExit gid

/-- PLACE_GANG, R347. A fault of a reservation write stops the placement. -/
def execPlaceGang (die seq : Nat) (s : State) : Host.Outcome State Fault Refusal :=
  match s.launch? seq with
  | none => .next s
  | some l =>
    match (if (s.die die).turn = some l.vdev.toNat ∧ s.settled die then s.cand die l.vdev else none) with
    | some (.place q core) =>
      if q ≠ seq then .next s
      else
        let record := l.freeRec.getD 0
        match s.clearSlots die l record with
        | none => .next s
        | some s0 =>
          if (s0.launch? seq).any (fun x => x.halted) then .next s0
          else
            let (items, l1) := l.memberItems die l.k.gang
            let n := Tab.get 0 l.placed die
            let id := s0.seq
            let s1 := { s0 with seq := s0.seq + 1 }.onLaunch seq (fun _ => { l1 with placed := Tab.put l1.placed die (n + 1), recs := record :: l1.recs })
            let wire := if l.k.tag then s1.freeWire die else none
            let s2 := match wire with | some w => s1.setWire die w { gang := some id, arrivals := 0 } | none => s1
            let (s3, ws, gs) := s2.placeMembers die l id record (32 * n + die) (die * 64 + core) (List.range l.k.gang) items
            let g : Gang := { id := id, launch := seq, vdev := l.vdev, die := die, core := die * 64 + core, members := l.k.gang, idx := 32 * n + die,
                              record := record, wire := wire, wgs := ws, groups := gs }
            let s4 := ({ s3 with gangs := s3.gangs ++ [g] }).mergeStamp die (s3.kvec l.home)
            .next (gs.foldl (fun s gid => s.startGroup gid) s4)
    | _ => .next s

/-! Chunks on their way. -/

/-- A fetch of a workgroup can be answered: the distributor holds a chunk, or is exhausted. -/
def State.chunkDue (s : State) (wg : Nat) : Bool :=
  let w := s.wg wg
  w.live && w.fetching &&
  (match (s.gang? w.gang).bind (fun g => (s.launch? g.launch).map (fun l => (g, l))) with
   | some (g, l) => l.holds g.die || Tab.get false l.dry g.die
   | none => true)

/-- A refill that waited takes place: that of an RFL, which then is done, or that of a group whose last lane has exited (07 R129, R130). -/
def State.serveRefill (s : State) (gid : Nat) : State :=
  if (s.group gid).wait == .refill then (s.finishWait gid).refill gid else s.afterExit gid
/-- The refills of a queue are served in the order in which they reached it, until one must wait for the next chunk (07 R129). -/
def State.serveRefills (s : State) (wg : Nat) : List Nat → State
  | [] => s.setWg wg { s.wg wg with waiters := [] }
  | gid :: r =>
    if (s.wg wg).items.isEmpty && (s.wg wg).fetching then s.setWg wg { s.wg wg with waiters := gid :: r }
    else (s.serveRefill gid).serveRefills wg r

/-- CHUNK_ARRIVAL: the chunk enters the queue, and the refills that wait are served (07 R127, R129, R130). -/
def execChunkArrival (wg : Nat) (s : State) : Host.Outcome State Fault Refusal :=
  if !s.chunkDue wg then .next s
  else
    let w := s.wg wg
    let s1 := match (s.gang? w.gang).bind (fun g => (s.launch? g.launch).map (fun l => (g, l))) with
      | some (g, l) =>
        match l.deal g.die with
        | some (is, l1) => (s.onLaunch l.seq (fun _ => l1)).setWg wg ({ w with items := w.items ++ is, fetching := false }).wantsChunk
        | none => s.setWg wg { w with fetching := false, dry := true }
      | none => s.setWg wg { w with fetching := false, dry := true }
    .next (s1.serveRefills wg w.waiters)

/-- The distributor of a die has to ask others for a chunk of a launch (R346): a queue or a placement waits for items. -/
def State.wantsSteal (s : State) (seq d : Nat) : Bool :=
  match s.launch? seq with
  | none => false
  | some l =>
    l.eligible && !Tab.get false l.dry d &&
    ((!l.holds d && s.wgs.any (fun p => p.2.live && p.2.fetching && (match s.gang? p.2.gang with | some g => g.launch == seq && g.die == d | none => false))) ||
     ((s.die d).turn == some l.vdev.toNat && s.cand d l.vdev == some (.steal seq)))

/-- The other dies in ascending order of hops, ties to the lower number (R346). -/
def donors (d : Nat) : List Nat := (List.range 15).flatMap (fun h => (List.range 32).filter (fun e => e != d && hops d e == h))

def State.steal? (s : State) (seq d : Nat) : Option Steal := s.steals.find? (fun x => x.seq == seq && x.asker == d)
def State.dropSteal (s : State) (seq d : Nat) : State := { s with steals := s.steals.filter (fun x => !(x.seq == seq && x.asker == d)) }

/-- A message reaches a donor: it gives one chunk, or says that it has none. -/
def State.stealAsk (s : State) (x : Steal) : State :=
  match x.left, s.launch? x.seq with
  | d :: _, some l =>
    let (is, l1) := match l.give d with | some r => r | none => ([], l)
    (((s.onLaunch x.seq (fun _ => l1)).dropSteal x.seq x.asker)) |> fun s => { s with steals := s.steals ++ [{ x with answer := some is }] }
  | _, _ => s.dropSteal x.seq x.asker

/-- STEAL_MESSAGE, R346. -/
def execStealMessage (seq asker : Nat) (s : State) : Host.Outcome State Fault Refusal :=
  match s.steal? seq asker with
  | some x => .next (if x.answer.isNone then s.stealAsk x else s)
  | none => .next (if s.wantsSteal seq asker then s.stealAsk { seq := seq, asker := asker, left := donors asker, answer := none } else s)

/-- STEAL_ANSWER, R346: a chunk joins those that the asking distributor has stolen; when every die has answered that it has none, it is exhausted. -/
def execStealAnswer (seq asker : Nat) (s : State) : Host.Outcome State Fault Refusal :=
  match s.steal? seq asker with
  | some x =>
    match x.answer with
    | none => .next s
    | some (i :: is) => .next ((s.dropSteal seq asker).onLaunch seq (fun l => { l with stolen := Tab.put l.stolen asker (Tab.get [] l.stolen asker ++ [i :: is]) }))
    | some [] =>
      match x.left.drop 1 with
      | [] => .next ((s.dropSteal seq asker).onLaunch seq (fun l => { l with dry := Tab.set false l.dry asker true }))
      | r => .next { s.dropSteal seq asker with steals := (s.dropSteal seq asker).steals ++ [{ x with left := r, answer := none }] }
  | none => .next s

/-! Retirement. -/

/-- Nothing that the group issued or handed over is still to be acknowledged (07 R134, 09 R182). -/
def State.quiet (s : State) (gid : Nat) : Bool :=
  !s.reqs.any (fun r => r.gid == gid) && !s.passes.any (fun p => p.q.gid == gid) &&
  s.cores.all (fun c => c.2.queues.all (fun q => q.2.entries.all (fun e => e.gid != gid) && q.2.advs.all (fun a => a.gid != gid)))
def State.releaseDue (s : State) (gid : Nat) : Bool := (s.group gid).status == .draining && s.quiet gid

/-- A tile at the release of its group: the owner goes when it is the group's through its own save slot, and a world's tile is zeroed (R134, 23 R383); a tile
that another context owns, or that a saved gang recorded, keeps its owner and its contents. -/
def State.releaseTile (s : State) (cid : Nat) (g : Group) (t : Nat) : State :=
  let x := s.tile cid t
  if x.own.getLsbD 16 && !(x.own == 1#1 ++ g.ctxid && x.recAddr == g.slotFor t) then s
  else
    let y := { x with own := x.own &&& 0xFFFF#17 }
    s.setTile cid t (if g.world ≠ 0 then { y with elems := [], kind := .none } else y)

/-- The table slots that a group of a world loaded are cleared (23 R383). -/
def Core.clearLuts (k : Core) (g : Group) : Core :=
  [0, 1, 2, 3].foldl (fun k n =>
    if g.world ≠ 0 ∧ Tab.get 0 k.lutown n = 1#1 ++ g.ctxid ∧ Tab.get 0 g.lutsrc n ≠ 0 then
      { k with lutown := Tab.set 0 k.lutown n 0, luts := Tab.put k.luts n [] }
    else k) k

/-- A workgroup retires with its last group, and its scratchpad and barriers are free; a gang retires with its last workgroup (R135). -/
def State.retireWg (s : State) (gang wg : Nat) : State :=
  match s.gang? gang with
  | none => s
  | some g =>
    if s.groups.any (fun p => p.2.resident && p.2.wg == wg && g.groups.contains p.1) then s
    else
      let w := s.wg wg
      let s1 := s.setCore w.core ((s.core w.core).freeBars w.base w.size)
      let s2 := s1.setWg wg { w with items := [], waiters := [], fetching := false, live := false }
      if s2.wgs.any (fun p => p.2.live && p.2.gang == gang) then s2
      else
        let s2 : State := { s2 with wgs := s2.wgs.filter (fun p => p.2.gang != gang) }
        let s3 : State := match g.wire with | some k => s2.setWire g.die k Wire.free | none => s2
        { s3.onLaunch g.launch (fun l => { l with recs := l.recs.filter (fun r => r != g.record) }) with
          gangs := s3.gangs.filter (fun x => x.id != gang), dies := s3.dies.map (fun (d : Nat × Die) => (d.1, { d.2 with preqs := d.2.preqs.filter (fun q => q.gang != gang) })) }

/-- GROUP_RELEASE, R134. -/
def execGroupRelease (gid : Nat) (s : State) : Host.Outcome State Fault Refusal :=
  if !s.releaseDue gid then .next s
  else
    let g := s.group gid
    let cid := coreOf gid
    let s1 := ([g.ac0.toNat, g.ac1.toNat].filter (fun t => t != 0xFF)).foldl (fun s t => s.releaseTile cid g t) s
    let s2 := (s1.setCore cid ((s1.core cid).clearLuts g)).leaveStreams gid
    let s3 : State := { s2 with groups := Tab.erase s2.groups gid, gangs := s2.gangs.map (fun (x : Gang) => if x.id = g.gang then { x with groups := x.groups.filter (fun q => q != gid) } else x) }
    .next (s3.retireWg g.gang g.wg)

/-- Every item of a launch is dealt, and every gang has retired. -/
def State.launchDone (s : State) (l : Launch) : Bool :=
  l.eligible && !l.halted && (List.range 32).all (fun d => !l.holds d) && !s.steals.any (fun x => x.seq == l.seq) &&
  !s.gangs.any (fun g => g.launch == l.seq) && !s.saved.any (fun v => v.gang.launch == l.seq)

/-- The home die learns what the dies of the launch wrote. -/
def State.gather (s : State) (l : Launch) : State := l.dieMask.lanes.foldl (fun s d => s.mergeStamp l.home (s.kvec d)) s

/-- LAUNCH_COMPLETE, R345: CVAL goes to CWADDR as a release at system scope. -/
def execLaunchComplete (seq : Nat) (s : State) : Host.Outcome State Fault Refusal :=
  match s.launch? seq with
  | none => .next s
  | some l =>
    let s1 := s.gather l
    if !s.launchDone l || !s1.settled l.home then .next s
    else
      let gone (t : State) : State := { t with launches := t.launches.filter (fun x => x.seq != seq) }
      if l.cwaddr = 0 then .next (gone s1)
      else if s1.farAheadBy l.home 1 then .next s
      else match s1.engWrite (s1.launchAgent l.home l.level l) 0 l.cwaddr.toNat (bytesLE 8 l.cval.toNat) true with
        | .ok s2 => .next (gone s2)
        | .error ((0, _), _) => .next s
        | .error (_, s2) => .next (gone s2)

end Sys2Proof.Machine
end

