-- ==== Sys2Proof/Machine/Platform.lean ====
section
/-!
DEFINITION. Resets (24 R392, R393, 23 R376, R377), power and temperature (R396, R397), the correction of the cycle counter (R394),
the standby domain (R398).
-/

namespace Sys2Proof.Machine

/-- MGSTAT of every die, which outlives resets. -/
def State.mgstats (s : State) : Tab Die := s.dies.map (fun (d : Nat × Die) => (d.1, { Die.reset with mgstat := d.2.mgstat }))

/-- A failure is recorded in MGSTAT of every die: its bit, the cause, the die (R392, R397, R398). -/
def State.setMgstat (s : State) (bit cause die : Nat) : State :=
  (List.range 32).foldl (fun s d =>
    let old := (s.die d).mgstat.toNat
    s.setDie d { s.die d with mgstat := BitVec.ofNat 64 (putBits (putBits (putBits old bit bit 1) 15 8 cause) 4 0 die) }) s

/-- A core that Signet releases: level 2, its lane at the firmware's entry (23 R376). -/
def Group.firmware (image : List Byte) : Group :=
  { Group.vacant with status := .running, lanes := [(0, { Lane.vacant with occupied := true, pc := Config.firmwareEntry image })], gsw := 0x08000000#32, ext := 128 }
/-- Signet's group on system core 0 of an I/O die: level 3, at the entry of the Signet section (23 R376). -/
def Group.signet (image : List Byte) : Group := Group.system.setLane 0 { Group.system.lane 0 with pc := Config.signetEntry image }

/-- Everything at its reset value but what outlives a reset: MGSTAT, and the model's own counters and agenda. -/
def State.cleared (s : State) : State :=
  { State.reset with groups := [], dies := s.mgstats, boot := none, agenda := s.agenda, pace := s.pace, seq := s.seq, free := s.free }

/-- What a boot ROM checks of the image it reads: the signature over the image's digest under the key whose digest is in the fuses, and the security
version (23 R376). -/
def imageOk (image : List Byte) : Bool :=
  Config.falconVerify (Config.imageKey image) (Config.imageSignature image) (shake256 image) && shake256 (Config.imageKey image) == Config.fusedKey &&
  decide (Config.fusedVersion ≤ Config.imageVersion image)

/-- Steps 3 and 4 of R392: an image that fails on either I/O die starts no core; else Signet starts on core 0 of each I/O die. A die that Signet cannot
bring up is recorded, the compute dies stay in reset, and Signet does not go on to step 5. -/
def State.bootFrom (s : State) (r : Boot) : State :=
  if !imageOk r.west || !imageOk r.east then { s with off := true }
  else
    let t : State := { s with
      groups := [(65536, Group.signet r.west), (67584, Group.signet r.east)]
      mr0 := shake256 (Config.signetPart r.west), mr1 := shake256 (Config.firmwarePart r.west), version := Config.imageVersion r.west }
    match r.failure with
    | some (cause, die) => { t with off := true }.setMgstat 62 cause.toNat die.toNat
    | none => { t with boot := some (r.west, r.east) }

/-- Signet goes to the firmware by RETT: TRAPPC the firmware's entry, the level below 2 (23 R376). -/
def Group.toFirmware (g : Group) (image : List Byte) : Group :=
  let t := { g.tr 3 with pc := Config.firmwareEntry image, priv := 2, lanes := 1, tstat := 1 }
  (g.setTr 3 t).rett 3 t.pc

/-- Step 5 of R392: Signet starts the system firmware on the sixteen system cores of each I/O die, on core 0 by RETT (23 R376). -/
def State.startFirmware (s : State) : State :=
  match s.boot with
  | none => s
  | some (west, east) =>
    let core0 (gid : Nat) (image : List Byte) : List (Nat × Group) := if (s.group gid).resident then [(gid, (s.group gid).toFirmware image)] else []
    let others (gid : Nat) (image : List Byte) : List (Nat × Group) := (List.range 15).map (fun k => (gid + 32 * (k + 1), Group.firmware image))
    { s with
      groups := s.groups.filter (fun p => decide (p.1 < 65536)) ++ core0 65536 west ++ others 65536 west ++ core0 67584 east ++ others 67584 east
      boot := none }

/-- COLD_RESET, R392: the counter starts at 0. -/
def execColdReset (r : Boot) (s : State) : Host.Outcome State Fault Refusal := .next (s.cleared.bootFrom r)

/-- WARM_RESET, R393: the counter keeps counting; memory keeps its bytes. After a trip only a cold reset restarts the device. -/
def execWarmReset (r : Boot) (s : State) : Host.Outcome State Fault Refusal :=
  .next (if s.tripped then s else { s.cleared with clock := s.clock, mem := s.mem, launched := s.launched }.bootFrom r)

/-- A trip, R397: issue and engines stop, the die is recorded, the compute dies lose power. -/
def State.trip (s : State) (die : Nat) : State :=
  let s1 : State := { s with
    off := true, tripped := true
    groups := (s.groups.filter (fun p => decide (65536 ≤ p.1))).map (fun p => (p.1, { p.2 with status := .stopped }))
    cores := s.cores.filter (fun p => decide (2048 ≤ p.1)), dies := s.mgstats
    mem := s.mem.filter (fun p => decide (0x020000000000 ≤ p.1)), boot := none, reqs := [], passes := [], launches := [], gangs := [], wgs := [], saved := [], steals := [] }
  s1.setMgstat 63 0 die

/-- A junction or stack temperature, in 1/16 °C, has come to the trip point (R397). -/
def hot (t : Nat) : Bool := decide (115 * 16 ≤ t)

/-- THROTTLE_CHECK, R396: the measurements of a compute die, in watts and in 1/16 °C, and whether issue is withheld; at the trip point the device trips. -/
def execThrottleCheck (die power junction stack : Nat) (s : State) : Host.Outcome State Fault Refusal :=
  let x := s.die die
  let lim := x.pwrlim.toNat % 65536
  let t := s.setDie die { x with
    temp := BitVec.ofNat 64 (junction % 65536 + stack % 65536 * 65536), pwrnow := BitVec.ofNat 64 (power % 65536)
    withheld := (decide (lim ≠ 0) && decide (lim < power)) || decide (105 * 16 < junction) || decide (95 * 16 < stack) }
  .next (if 32 ≤ die then s else if hot junction || hot stack then t.trip die else t)

/-- THERMAL_TRIP, R397: a compute die has come to the trip point. -/
def execThermalTrip (die : Nat) (s : State) : Host.Outcome State Fault Refusal := .next (if 32 ≤ die then s else s.trip die)

/-- The package follows a time master: the number of the package in its pod, on a Rhadin port, is not 0 (21 R367, 24 R394). -/
def State.follows (s : State) : Bool := [32, 33].any (fun d => (s.io d).rhcfg.any (fun p => p.2.getLsbD 63 && bitsOf p.2.toNat 7 0 != 0))
/-- PTM_CORRECTION, R394: the measured offset from the master, in cycles ahead of it; the counter of a package that follows one is corrected from now on.
Before the first launch Signet may set a counter that is behind forward in one step: whether it does is a free value. -/
def execPtmCorrection (ahead : Int) (s : State) : Host.Outcome State Fault Refusal :=
  .next (if !s.follows then s
    else if ahead < 0 ∧ s.launched = false then
      if (Config.freeValue s.free).getLsbD 0 then { s.draw with clock := s.clock + ahead.natAbs, drift := 0 } else { s.draw with drift := ahead }
    else { s with drift := ahead })

/-- STANDBY_SUPPLY_APPLIED, R398. -/
def execStandbySupplyApplied (die : Nat) (s : State) : Host.Outcome State Fault Refusal := .next (s.setDie die { s.die die with mgstat := 0 })

end Sys2Proof.Machine
end

