-- ==== Sys2Proof/Machine/Preempt.lean ====
section
/-!
DEFINITION. Time sharing of a die (19 R348), spatial pre-emption and restoring (R349 to R352), the reset of a virtual device (R355).
-/

namespace Sys2Proof.Machine

/-! Turns, R348. -/

/-- The virtual device holds a group on the die, draining groups included. -/
def State.holdsDie (s : State) (d v : Nat) : Bool := s.groups.any (fun p => dieOf p.1 == d && p.2.resident && p.2.vdev.toNat == v)
def State.deficit (s : State) (d v : Nat) : Int := Tab.get 0 (s.die d).deficit v
def State.setDeficit (s : State) (d v : Nat) (x : Int) : State := s.setDie d { s.die d with deficit := Tab.set 0 (s.die d).deficit v x }
def State.placeableN (s : State) (d v : Nat) : Bool := s.placeable d (BitVec.ofNat 8 v)

/-- The cores in CMT[v]. -/
def State.cmtCores (s : State) (d v : Nat) : List Nat := (List.range 64).filter (fun c => (Tab.get 0 (s.die d).cmt v).getLsbD c)
/-- Q_v, in core-cycles. -/
def State.quantumOf (s : State) (d v : Nat) : Int := (bitsOf (s.vdt d v).1 15 8 * 3750 * (s.cmtCores d v).length : Nat)

/-- No virtual device but v has work on the die: v's turns follow one another. -/
def State.alone (s : State) (d v : Nat) : Bool :=
  s.holdsDie d v && (List.range 256).all (fun w => w == v || (!s.holdsDie d w && !s.placeableN d w))
/-- The virtual device whose turn is next: ascending from the one whose turn it was last, wrapping, with a placeable gang or alone with its groups. One
without a quantum whose deficit is not positive is passed over: its turn would end at once and change nothing (assumption 67). -/
def State.nextTurn (s : State) (d : Nat) : Option Nat :=
  ((List.range 256).map (fun i => ((s.die d).lastTurn + 1 + i) % 256)).find? (fun w =>
    (s.placeableN d w || s.alone d w) && (decide (0 < s.quantumOf d w) || decide (0 < s.deficit d w)))

/-- The turn of the die is over, or none runs and one can start, once the table's entry of the next can be read (12 R238). -/
def State.turnDue (s : State) (d : Nat) : Bool :=
  (s.nextTurn d).all (fun v => s.tableReady d (s.vdtEntry d v)) &&
  match (s.die d).turn with
  | some v => decide (s.deficit d v ≤ 0) || (!s.holdsDie d v && !s.placeableN d v)
  | none => (s.nextTurn d).isSome

/-- The gangs that a turn of v pre-empts: those of other virtual devices, but for PIN kernels, with a member on a core in CMT[v] (R349). -/
def State.requested (s : State) (d v : Nat) : List Nat :=
  (s.gangs.filter (fun g => g.die == d && !(s.die d).preqs.any (fun q => q.gang == g.id) &&
    g.wgs.any (fun w => (s.wg w).live && (Tab.get 0 (s.die d).cmt v).getLsbD (coreNo (s.wg w).core)) &&
    g.vdev.toNat != v && !(g.groups.any (fun q => (s.group q).k.pin)))).map Gang.id

/-- The turn of v starts: with a deficit that stays at or below 0 it ends at once, and requests nothing. -/
def State.startTurn (s : State) (d v : Nat) : State :=
  let n := s.deficit d v + s.quantumOf d v
  let s := (s.vdtLook d v).setDeficit d v n
  let x := s.die d
  if s.deficit d v ≤ 0 then s.setDie d { x with turn := none, lastTurn := v }
  else
    let qs := (s.requested d v).map (fun g => ({ gang := g, since := s.clock } : PreReq))
    s.setDie d { x with turn := some v, lastTurn := v, preqs := x.preqs ++ qs }

/-- The turn of v ends. -/
def State.endTurn (s : State) (d v : Nat) : State :=
  let s := if !s.holdsDie d v && !s.placeableN d v then s.setDeficit d v (min (s.deficit d v) 0) else s
  s.setDie d { s.die d with turn := none }

/-- TURN_END, R348: the turn that is over ends, and the next one starts. -/
def execTurnEnd (die : Nat) (s : State) : Host.Outcome State Fault Refusal :=
  if !s.turnDue die then .next s
  else
    let s1 := match (s.die die).turn with | some v => s.endTurn die v | none => s
    .next (match s1.nextTurn die with
      | some w => s1.startTurn die w
      | none => s1)

/-! Saving, R349, R350. -/

/-- Rename the groups in what outlives a stay on a core: stores, engine entries, subscriptions. -/
def State.renameGroups (s : State) (f : Nat → Nat) : State :=
  { s with
    reqs := s.reqs.map (fun (r : Req) => { r with gid := f r.gid })
    cores := s.cores.map (fun (c : Nat × Core) => (c.1, { c.2 with queues := c.2.queues.map (fun (q : Nat × Queue) =>
      (q.1, { q.2 with entries := q.2.entries.map (fun (e : Entry) => { e with gid := f e.gid }) })) }))
    dies := s.dies.map (fun (d : Nat × Die) => (d.1, { d.2 with streams := d.2.streams.map (fun (x : Nat × Stream) =>
      (x.1, { x.2 with subs := x.2.subs.map (fun (u : Sub) => { u with gid := f u.gid }) })) })) }

/-- The end of an entry's destination; a scatter may reach anywhere above its base. -/
def Entry.dstEnd (e : Entry) : Nat :=
  let w := e.w
  match entOp (w 0) with
  | 1 => w 3 + (bitsOf (w 4) 63 32 - 1) * bitsOf (w 5) 63 32 + bitsOf (w 4) 31 0
  | 2 => w 3 + bitsOf (w 5) 63 32 * bitsOf (w 5) 31 0
  | 3 => 2 ^ 64
  | 4 => w 3 + bitsOf (w 4) 31 0 * tyBytes (tyOfCode (bitsOf (w 4) 35 32))
  | 5 => w 3 + bitsOf (w 4) 31 0 * tyBytes (tyOfCode (bitsOf (w 4) 39 36))
  | _ => 0
/-- An entry writes into a window of a core (15 R295). -/
def Entry.intoCore (e : Entry) (cid : Nat) : Bool :=
  let base := coreDie cid * 2 ^ 32 + coreNo cid * 2 ^ 24
  bitsOf (e.w 6) 7 4 == 1 && decide (e.w 3 < base + 0x180000) && decide (base < e.dstEnd)
/-- The core waits for engine entries into its windows. -/
def State.entriesInto (s : State) (cid : Nat) : Bool := s.cores.any (fun c => c.2.queues.any (fun q => q.2.entries.any (fun e => e.intoCore cid)))

/-- A request that keeps its group on the core: all but posted stores (R349, 13 R259, 16 R310). -/
def Req.keeps (r : Req) : Bool := !(r.isStore && (match r.tgt with | .mem _ => true | .remote _ => r.performed | _ => false))

/-- An entry of the pre-emption table must wait to be read. -/
def State.tableWaits (s : State) (d : Nat) (g : Group) : Bool :=
  g.k.ptab != 0 && g.stopAt.isSome &&
  (match s.engReadMem (s.distAgent d g.k.casid.toNat (max 1 g.priv) g.vdev) (pieces 4096 g.k.ptab.toNat (48 * g.k.entries)) with
   | .error ((0, _), _) => true
   | _ => false)

/-- Every group has stopped, and the waits of R349 have ended. -/
def State.saveDue (s : State) (g : Gang) : Bool :=
  (s.die g.die).preqs.any (fun q => q.gang == g.id) && s.settled g.die &&
  g.groups.all (fun q => (s.group q).status == .running && (s.group q).held) &&
  !s.reqs.any (fun r => g.groups.contains r.gid && r.keeps) && !s.passes.any (fun p => g.groups.contains p.q.gid) &&
  !s.cores.any (fun c => c.2.queues.any (fun q => q.2.advs.any (fun a => g.groups.contains a.gid))) &&
  g.wgs.all (fun w => !(s.wg w).live || !s.entriesInto (s.wg w).core) && !g.groups.any (fun q => s.tableWaits g.die (s.group q))

/-- Entry number i of a kernel's pre-emption table (R340). -/
def State.preEntry (s : State) (d level : Nat) (v : BitVec 8) (k : Kernel) (i : Nat) : Option (List Byte) :=
  match s.engReadMem (s.distAgent d k.casid.toNat level v) (pieces 4096 (k.ptab.toNat + 48 * i) 48) with
  | .ok (bs, _) => some bs
  | .error _ => none

/-- The entry of the barrier at which a group stopped. -/
def State.stopEntry (s : State) (d : Nat) (g : Group) : Option (List Byte) :=
  match g.stopAt with
  | none => none
  | some pc =>
    if g.k.ptab = 0 then none
    else (List.range g.k.entries).findSome? (fun i =>
      (s.preEntry d (max 1 g.priv) g.vdev g.k i).bind (fun bs => if wordAt bs 0 = pc.toNat then some bs else none))

/-- An entry names a register, or a row of the joined scratchpad. -/
def entryLive (bs : List Byte) (r : Nat) : Bool := bitAt (ofBytesLE ((bs.drop 8).take 24)) r
def entryRow (bs : List Byte) (row : Nat) : Bool :=
  [0, 1, 2, 3].any (fun i =>
    let w := ofBytesLE ((bs.drop (32 + 4 * i)).take 4)
    decide (w % 65536 ≤ row) && decide (row < w % 65536 + w / 65536))

/-- A register is saved: below the bound, named by the entry if there is one, not dead. -/
def Group.saves (g : Group) (e : Option (List Byte)) (r : Nat) : Bool :=
  decide (r < g.bound) && !Tab.get false g.dead r && (match e with | some bs => entryLive bs r | none => true)

/-- The saved form of a group: registers by value, no tags, latches and slots invalid, no dead register; `rowAt` gives a row's member and place there. -/
def Group.saved (g : Group) (e : Option (List Byte)) (rowAt : Nat → Nat → Nat × Nat) : Group :=
  { g.desched with
    v := ((List.range 192).filter (fun r => g.saves e r)).flatMap (fun r =>
      (laneList.map (fun l => (key r l, g.reg l r))).filter (fun p => p.2 != 0))
    tag := [], dead := [], oc := [], prior := [], walkFaults := []
    wait := match g.wait with
      | .rows ws => .rows (ws.map (fun (w : RowWait) => { w with core := (rowAt w.core w.row).1, row := (rowAt w.core w.row).2 }))
      | w => w
    pend := { g.pend with watchdog := false, preempt := false } }

/-- The rows and tags of a workgroup that are saved: all of its part, or the rows that entries name. -/
def State.savedRows (s : State) (w : Workgroup) (all : Bool) (es : List (List Byte)) : List (Nat × Nat × Byte) × List (Nat × Nat) :=
  let keep (rel : Nat) : Bool := all || es.any (fun e => entryRow e (w.member * (w.size / 16) + rel))
  let k := s.core w.core
  (((k.spad.filter (fun p => !outside w.base w.size p.1 && keep ((p.1 - w.base) / 16)))).map (fun p => (w.member, p.1 - w.base, p.2)),
   ((k.bar.filter (fun p => p.2 && !outside w.base w.size (p.1 * 16) && keep (p.1 - w.base / 16)))).map (fun p => (w.member, p.1 - w.base / 16)))

/-- What is saved of a gang. -/
def State.savedOf (s : State) (g : Gang) : Saved :=
  let ws := g.wgs.map (fun w => (w, s.wg w))
  let gs := g.groups.map (fun q => (q, s.group q, s.stopEntry g.die (s.group q)))
  let es := gs.filterMap (fun p => p.2.2)
  let rowAt (core row : Nat) : Nat × Nat :=
    match ws.find? (fun p => p.2.core == core && !outside p.2.base p.2.size (row * 16)) with
    | some p => (p.2.member, row - p.2.base / 16)
    | none => (0, row)
  let rows := (ws.filter (fun p => p.2.live)).map (fun p => s.savedRows p.2 (gs.any (fun q => q.2.1.wg == p.1 && q.2.2.isNone)) es)
  { gang := { g with wire := none }, groups := gs.map (fun p => (p.1, p.2.1.saved p.2.2 rowAt))
    wgs := ws.map (fun p => (p.1, { p.2 with items := [], waiters := [], fetching := false, dry := false }))
    bytes := rows.flatMap Prod.fst, tags := rows.flatMap Prod.snd }

/-- The items of a gang's queues go back to the distributor, in ascending order. -/
def State.returnItems (s : State) (g : Gang) : State :=
  let is := g.wgs.flatMap (fun w => (s.wg w).items)
  s.onLaunch g.launch (fun l => { l with back := Tab.put l.back g.die (is.foldl (fun a i => insertItem i a) (Tab.get [] l.back g.die)) })

/-- The groups, workgroups and wire tag of a gang leave the die; its scratchpad parts are free. -/
def State.takeOff (s : State) (g : Gang) : State :=
  let s := (g.wgs.filter (fun w => (s.wg w).live)).foldl (fun s w => let x := s.wg w; s.setCore x.core ((s.core x.core).freeBars x.base x.size)) s
  let s : State := { s with
    groups := s.groups.filter (fun p => !g.groups.contains p.1)
    wgs := s.wgs.filter (fun p => !g.wgs.contains p.1)
    gangs := s.gangs.filter (fun x => x.id != g.id)
    cores := s.cores.map (fun (c : Nat × Core) => (c.1, { c.2 with xacqs := c.2.xacqs.filter (fun q => !g.groups.contains q) })) }
  let s := match g.wire with | some w => s.setWire g.die w Wire.free | none => s
  s.setDie g.die { s.die g.die with preqs := (s.die g.die).preqs.filter (fun q => q.gang != g.id) }

/-- GANG_SAVE, R349, R350. A fault of the save write stops the placement of the launch (R347). -/
def execGangSave (gang : Nat) (s : State) : Host.Outcome State Fault Refusal :=
  match s.gang? gang with
  | none => .next s
  | some g =>
    if !s.saveDue g then .next s
    else
      let v := s.savedOf g
      match (match s.launch? g.launch with | some l => s.writeRecord g.die l g.record | none => some s) with
      | none => .next s
      | some s0 =>
        let s1 := ((s0.returnItems g).takeOff g).renameGroups (fun q => if g.groups.contains q then savedKey gang q else q)
        .next { s1 with saved := s1.saved ++ [v] }

/-! Restoring, R351. -/

/-- A saved group on its new slot: new generations with the saved registers under them, rows on the new cores. -/
def Group.restored (g : Group) (spbase clock : Nat) (rowAt : Nat → Nat → Nat × Nat) : Group :=
  let lanes := g.lanes.map (fun (p : Nat × Lane) => (p.1, { p.2 with gen := if p.2.gen == 0xFFFF#16 then 1 else p.2.gen + 1 }))
  { g with
    lanes := lanes
    tag := g.v.map (fun p => (p.1, (Tab.get Lane.vacant lanes (p.1 % 32)).gen))
    spbase := BitVec.ofNat 32 spbase, held := false, satisfied := false, owed := none, stopAt := none, lastIssue := clock, readySince := clock
    wait := match g.wait with
      | .rows ws => .rows (ws.map (fun (w : RowWait) => { w with core := (rowAt w.core w.row).1, row := (rowAt w.core w.row).2 }))
      | w => w }

/-- The wait of a restored group: a satisfied one has ended, with the acquire that its instruction defines (`owed`: none for a sleep or an XACQ); rows are
tested again; an XACQ queues again. -/
def State.resumeWait (s : State) (gid : Nat) (satisfied : Bool) (owed : Option Scope) : State :=
  if satisfied then (match owed with | some sc => s.acquire gid sc | none => s)
  else match (s.group gid).wait with
  | .xacq .. => s.setCore (coreOf gid) { s.core (coreOf gid) with xacqs := (s.core (coreOf gid)).xacqs ++ [gid] }
  | .rows ws =>
    let ws' := ws.map (fun (w : RowWait) => { w with done := w.done || rowPhase (s.row w.core (16 * w.row)) != w.phase })
    let s1 := s.setGroup gid { s.group gid with wait := .rows ws' }
    if ws'.all (fun w => w.done) then s1.endWait gid (rowScope (coreOf gid) ws') else s1
  | _ => s

/-- The workgroups of a saved gang on their new cores, with the saved rows and tags. -/
def State.restoreWg (s : State) (l : Launch) (v : Saved) (core wg : Nat) (w : Workgroup) : State :=
  let cid := core + w.member
  if !w.live then s.setWg wg { w with core := cid } else
  let base := (s.spadPlace cid w.size).getD 0
  let x := { w with core := cid, base := base }
  let k := (s.core cid).freeRows base w.size
  let k := { k with spad := (v.bytes.filter (fun b => b.1 == w.member)).foldl (fun t b => Tab.set 0 t (base + b.2.1) b.2.2) k.spad
                    bar := (v.tags.filter (fun b => b.1 == w.member)).foldl (fun t b => Tab.set false t (base / 16 + b.2) true) k.bar }
  (s.setWg wg (if l.k.refill then x.wantsChunk else x)).setCore cid k

/-- The groups of a saved gang take free slots; the new key of each. -/
def State.restoreGroups (s : State) (core : Nat) : List (Nat × Group) → State × List (Nat × Nat)
  | [] => (s, [])
  | (q, g) :: r =>
    let cid := core + g.member
    let gid := cid * 32 + ((s.freeSlots cid)[0]?).getD 0
    let base := (s.wg g.wg).base
    let mine (m : Nat) : Workgroup := ((s.wgs.find? (fun p => p.2.gang == g.gang && p.2.member == m)).map Prod.snd).getD Workgroup.none
    let s1 := s.setGroup gid (g.restored base s.clock (fun m row => ((mine m).core, (mine m).base / 16 + row)))
    let (s2, ks) := s1.restoreGroups core r
    (s2, (q, gid) :: ks)

/-- GANG_RESTORE, R351. -/
def execGangRestore (gang : Nat) (s : State) : Host.Outcome State Fault Refusal :=
  match s.saved.find? (fun v => v.gang.id == gang) with
  | none => .next s
  | some v =>
    let d := v.gang.die
    match s.launch? v.gang.launch with
    | none => .next s
    | some l =>
      match (if (s.die d).turn = some l.vdev.toNat ∧ s.settled d then s.cand d l.vdev else none) with
      | some (.restore q c) =>
        if q ≠ gang then .next s
        else
          let core := d * 64 + c
          let wire := if l.k.tag then s.freeWire d else none
          let s1 : State := { s with saved := s.saved.filter (fun x => x.gang.id != gang) }
          let s2 := match wire with
            | some w => s1.setWire d w { gang := some gang, arrivals := (v.groups.filter (fun p => p.2.arr)).length }
            | none => s1
          let s3 := v.wgs.foldl (fun (s : State) (p : Nat × Workgroup) => s.restoreWg l v core p.1 p.2) s2
          let r := s3.restoreGroups core v.groups
          let s4 := r.1
          let ks : List (Nat × Nat) := r.2
          let back (k : Nat) : Nat :=
            if k / 2 ^ 20 = gang + 1 then (match ks.find? (fun (p : Nat × Nat) => p.1 == k % 2 ^ 20) with | some p => p.2 | none => k) else k
          let s5 := s4.renameGroups back
          let s6 : State := { s5 with gangs := s5.gangs ++ [{ v.gang with core := core, wire := wire, groups := ks.map Prod.snd }] }
          .next (ks.foldl (fun (s : State) (k : Nat × Nat) => 
            let was := ((v.groups.find? (fun p => p.1 == k.1)).map Prod.snd).getD Group.vacant
            s.resumeWait k.2 was.satisfied was.owed) s6)
      | _ => .next s

/-! Reset of a virtual device, R355. -/

/-- What a group that is taken off leaves behind: its numbered writes and atomics, which reach their homes and return nothing. -/
def State.orphan (s : State) (gone : Nat → Bool) (key : Nat → Nat) : State :=
  { s with
    reqs := s.reqs.filterMap (fun (r : Req) =>
      if !gone r.gid then some r
      else if r.writes && (match r.tgt with | .mem _ => true | _ => false) then some { r with gid := key r.gid, dst := .none, ord := .rlx }
      else none)
    passes := s.passes.filter (fun p => !gone p.q.gid)
    cores := s.cores.map (fun (c : Nat × Core) => (c.1, { c.2 with
      xacqs := c.2.xacqs.filter (fun q => !gone q)
      queues := c.2.queues.map (fun (q : Nat × Queue) => (q.1, { q.2 with
        advs := q.2.advs.filter (fun a => !gone a.gid)
        entries := q.2.entries.map (fun (e : Entry) => if gone e.gid then { e with gid := key e.gid } else e) })) }))
    dies := s.dies.map (fun (d : Nat × Die) => (d.1, { d.2 with streams := d.2.streams.map (fun (x : Nat × Stream) =>
      (x.1, if x.2.subs.any (fun u => gone u.gid) then ({ x.2 with subs := x.2.subs.filter (fun u => !gone u.gid) }).settle else x.2)) })) }

/-- A calendar gives up the slots of a virtual device. -/
def freeSlotsOf (v : Nat) (t : Tab Byte) : Tab Byte := t.filter (fun p => p.2.toNat != v)

/-- The cores of a die lose what a virtual device holds there: queues, calendars, tiles and tables of its contexts, Lattice bits of the cores it held. -/
def Core.resetVdev (k : Core) (v : Nat) (ctxs : List (BitVec 16)) (held : Bool) : Core :=
  let mine (o : BitVec 17) : Bool := o.getLsbD 16 && ctxs.contains (o.truncate 16)
  let luts := (List.range 4).filter (fun n => mine (Tab.get 0 k.lutown n))
  { k with
    calCopy := freeSlotsOf v k.calCopy, calGather := freeSlotsOf v k.calGather
    tiles := k.tiles.map (fun (p : Nat × Tile) => (p.1, if mine p.2.own then { p.2 with own := 0, elems := [], kind := .none } else p.2))
    lutown := luts.foldl (fun t n => Tab.set 0 t n 0) k.lutown
    luts := luts.foldl (fun t n => Tab.put t n []) k.luts
    lattice := if held then BitVec.allOnes 128 else k.lattice }

/-- Every queue of the die that is configured for the virtual device halts (15 R298). -/
def State.haltVdevQueues (s : State) (d v : Nat) : State :=
  (List.range 64).foldl (fun s c => (List.range 8).foldl (fun s q => if qVdev (s.queue (d * 64 + c) q) == v then s.haltQueue (d * 64 + c) q 0 0 else s) s) s

/-- The parts of a die that a virtual device holds; its Locket windows are released with their pins (11 R220). -/
def Die.resetVdev (x : Die) (v : Nat) : Die :=
  let ws := (List.range 16).filter (fun w => let k := (Tab.get 0 x.lkctl w).toNat; bitAt k 0 && bitsOf k 15 8 == v)
  let pins : BitVec 16 := ws.foldl (fun m w => m ||| (1#16 <<< w)) 0
  { x with
    mscpin := (x.mscpin.map (fun (p : Nat × BitVec 16) => (p.1, p.2 &&& ~~~pins))).filter (fun p => p.2 != 0)
    lkhit := ws.foldl (fun t w => Tab.set false t w false) x.lkhit
    calReduce := freeSlotsOf v x.calReduce, calConvert := freeSlotsOf v x.calConvert
    lkctl := ws.foldl (fun t w => Tab.set 0 t w (Tab.get 0 t w &&& ~~~1#64)) x.lkctl
    streams := x.streams.map (fun (p : Nat × Stream) => (p.1, if p.2.opened && p.2.vdev.toNat == v then p.2.close else p.2))
    deficit := Tab.set 0 x.deficit v 0, turn := if x.turn = some v then none else x.turn, vdrstat := BitVec.ofNat 64 (v % 256) }

/-- VDRESET of virtual device v on a die, to its end. -/
def State.vdresetAll (s : State) (d v : Nat) : State :=
  let vd : BitVec 8 := BitVec.ofNat 8 v
  let ctxs := (s.contexts.filter (fun p => p.1 == v && p.2.2.getLsbD d)).map (fun p => BitVec.ofNat 16 p.2.1) ++
    (s.launches.filter (fun l => l.vdev == vd)).map (fun l => l.ctxid)
  let mine (q : Nat) : Bool := dieOf q == d && (s.group q).resident && (s.group q).vdev == vd
  let offs := s.saved.filter (fun x => x.gang.die == d && x.gang.vdev == vd)
  let gone (q : Nat) : Bool := if q < 2 ^ 20 then mine q else offs.any (fun x => x.gang.id + 1 == q / 2 ^ 20)
  let held (c : Nat) : Bool := s.groups.any (fun p => coreOf p.1 == c && mine p.1)
  let s1 := s.orphan gone (fun q => savedKey s.seq (q % 2 ^ 20))
  let gs := s.gangs.filter (fun g => g.die == d && g.vdev == vd)
  let s2 := gs.foldl (fun s g => (s.takeOff g).onLaunch g.launch (fun l => { l with recs := l.recs.filter (fun r => r != g.record) })) { s1 with seq := s.seq + 1 }
  let s3 := offs.foldl (fun s x => s.onLaunch x.gang.launch (fun l => { l with recs := l.recs.filter (fun r => r != x.gang.record) })) s2
  let s4 : State := { s3 with
    saved := s3.saved.filter (fun x => !(x.gang.die == d && x.gang.vdev == vd))
    launches := s3.launches.filter (fun l => !(l.vdev == vd && l.home == d))
    steals := s3.steals.filter (fun x => !s.launches.any (fun l => l.seq == x.seq && l.vdev == vd && l.home == d)) }
  let s5 := s4.haltVdevQueues d v
  let s6 : State := (List.range 64).foldl (fun s c => s.setCore (d * 64 + c) ((s.core (d * 64 + c)).resetVdev v ctxs (held (d * 64 + c)))) s5
  { s6.setDie d ((s6.die d).resetVdev v) with
    contexts := (s6.contexts.map (fun (p : Nat × Nat × BitVec 32) => if p.1 = v then (p.1, p.2.1, p.2.2 &&& ~~~(1#32 <<< d)) else p)).filter (fun p => p.2.2 != 0) }

/-- The reset of a virtual device is under way on the die. -/
def State.vdresetDue (s : State) (d v : Nat) : Bool := (s.die d).vdrstat.getLsbD 63 && bitsOf (s.die d).vdrstat.toNat 7 0 == v

/-- VDRESET, R355: what the write of VDRESET began is done, and BUSY clears. -/
def execVdreset (die v : Nat) (s : State) : Host.Outcome State Fault Refusal := .next (if s.vdresetDue die v then s.vdresetAll die v else s)

end Sys2Proof.Machine
end

