-- ==== Sys2Proof/Machine/Signet.lean ====
section
/-!
DEFINITION. The calls that Signet answers (23 R379): worlds and their key slots (R380), sealed regions (R384), ways (R386), evidence (R391),
IDE keys, entering a world (R381); its exchange of tiles for a world (R382). The head of the west I/O die's list of calls is the call in progress.
-/

namespace Sys2Proof.Machine

/-- A physical range of memory that every world shares: neither private nor sealed, byte by byte of its 2 MiB regions (R378, R384). -/
def State.sharedRange (s : State) (pa n : Nat) : Bool :=
  (pieces 2048 pa n).all (fun p =>
    (regionOf (s.pool 32) p.1).memory && !s.refuses 2 0 (localOf (s.pool 32) p.1))

/-- The call in progress: the calling core, its block, the block's words; none while the list is empty or writes to memory are not settled. -/
def State.call (s : State) : Option (Nat × Nat × List Nat) :=
  match (s.io 32).calls with
  | [] => none
  | (cid, a) :: _ =>
    if !s.settled 32 then none
    else
      let bs := (s.agentRead 32 (s.pool 32) a.toNat 64).1
      some (cid, a.toNat, (List.range 8).map (wordAt bs))

/-- The fields of word 0. -/
def callOp (w0 : Nat) : Nat := bitsOf w0 7 0
def callWorld (w0 : Nat) : Nat := bitsOf w0 19 8

/-- The block can be read and answered: 64-aligned in a shared region (R379). -/
def State.blockOk (s : State) (a : Nat) : Bool := a % 64 == 0 && s.sharedRange a 64

/-- The call ends: STATUS is written last, as a release at system scope, beside the other half of word 0. -/
def State.answer (s : State) (a low status : Nat) : State :=
  let io := s.io 32
  (s.setIo 32 { io with calls := io.calls.drop 1 }).agentWrite 32 (s.pool 32) a (bytesLE 8 (low % 2 ^ 32 + status * 2 ^ 32))

/-- A call of one operation: taken when it is the one in progress. `go` gives the status, what word 0 holds below it, and the state. -/
def State.signetCall (s : State) (op : Nat) (go : State → Nat → Nat → (Nat → Nat) → Nat × Nat × State) : Host.Outcome State Fault Refusal :=
  match s.call with
  | none => .next s
  | some (cid, a, ws) =>
    let w := fun i => ws.getD i 0
    if !s.blockOk a then .next (s.setIo 32 { s.io 32 with calls := (s.io 32).calls.drop 1 })
    else if callOp (w 0) ≠ op then .next s
    else
      let s1 := (s.agentRead 32 (s.pool 32) a 64).2
      if bitsOf (w 0) 31 20 ≠ 0 then .next (s1.answer a (w 0) 2)
      else
        let (st, low, s2) := go s1 cid (callWorld (w 0)) w
        .next (s2.answer a low st)

/-! Worlds. -/

/-- The key slots in use. -/
def State.slotsUsed (s : State) : Nat := (s.worlds.filter (fun p => p.2.keyed)).length

/-- Three 256-bit keys from the device's random source: twelve words that nothing constrains. -/
def State.randomKeys (s : State) : List DWord × State := ((List.range 12).map (fun i => Config.freeValue (s.free + i)), { s with free := s.free + 12 })

/-- The groups of a context, and its tiles and streams, are in the world that their virtual device is bound to from now on (R381, R382). -/
def State.rebound (s : State) : State :=
  let group (p : Nat × Group) : Nat × Group := (p.1, if isSystem p.1 || !p.2.resident then p.2 else { p.2 with world := s.worldOfVdev p.2.vdev })
  let saved := s.saved.map (fun v => { v with groups := v.groups.map group })
  let all := s.groups.map group ++ saved.flatMap Saved.groups
  let tile (cid : Nat) (y : Tile) : Tile :=
    match all.find? (fun p => coreOf p.1 == cid && p.2.resident && y.own == 1#1 ++ p.2.ctxid) with
    | some p => { y with world := p.2.world }
    | none => y
  { s with
    groups := s.groups.map group, saved := saved
    cores := s.cores.map (fun k => (k.1, { k.2 with tiles := k.2.tiles.map (fun t => (t.1, tile k.1 t.2)) }))
    dies := s.dies.map (fun d => (d.1, { d.2 with streams := d.2.streams.map (fun x => (x.1, { x.2 with world := s.worldOfVdev x.2.vdev })) })) }

/-- CREATE, R380. Which free identifier it takes is the device's choice. -/
def State.createWorld (s : State) (w : Nat → Nat) : Nat × Nat × State :=
  let vd : BitVec 256 := BitVec.ofNat 256 (w 1 + w 2 * 2 ^ 64 + w 3 * 2 ^ 128 + w 4 * 2 ^ 192)
  if 2048 ≤ s.slotsUsed then (1, w 0, s)
  else if s.worlds.any (fun p => p.2.keyed && p.2.vdevs &&& vd != 0) then (2, w 0, s)
  else
    let ids := (List.range 4096).filter (fun i => i != 0 && !(s.world i).keyed)
    let id := ids.getD ((Config.freeValue s.free).toNat % ids.length) 1
    let (ks, s1) := s.draw.randomKeys
    (0, putBits (w 0) 19 8 id, (s1.setWorld id { keyed := true, keys := ks, vdevs := vd, mrw := List.replicate 64 0, halted := false }).rebound)
def execCreate (s : State) : Host.Outcome State Fault Refusal := s.signetCall 1 (fun s _ _ w => s.createWorld w)

/-! Sealed regions. -/

/-- The die and number of the 2 MiB region at a local address. -/
def regionNo (a : Nat) : Nat × Nat := (a / 2 ^ 36, a % 2 ^ 36 / 2 ^ 21)
def State.ownerOf (s : State) (a : Nat) : BitVec 16 := Tab.get 0 (s.die (regionNo a).1).owner (regionNo a).2
def State.setOwner (s : State) (a : Nat) (o : BitVec 16) : State :=
  let d := (regionNo a).1
  s.setDie d { s.die d with owner := Tab.set 0 (s.die d).owner (regionNo a).2 o }

/-- A region that can be sealed: 2 MiB-aligned, die-local HBM4E above the private region. -/
def regionOk (a : Nat) : Bool := a % 2 ^ 21 == 0 && decide (a < 0x020000000000) && decide (0x80000000 ≤ a % 2 ^ 36)

/-- The 2 MiB at a local address become the given bytes, or zeros. -/
def State.fillRegion (s : State) (a : Nat) (bs : Option (List Byte)) : State :=
  match bs with
  | none => { s with mem := Tab.keep (outside a (2 ^ 21)) s.mem }
  | some l => s.storeBytes a l

/-- Every sector of a region is sealed: its tag stands in the private region (R378, R385, R387). -/
def State.sealRegion (s : State) (a : Nat) : State := (List.range 8192).foldl (fun (s : State) i => s.sealSector (a + 256 * i)) s

/-- The digest of data joins a measurement (R377). -/
def World.extend (x : World) (data : List Byte) : World := { x with mrw := shake256 (x.mrw ++ shake256 data) }

/-- ADMIT, R384: copies go, the owner is set, the region is written and sealed, the measurement grows. -/
def State.admitRegion (s : State) (id : Nat) (w : Nat → Nat) : Nat × Nat × State :=
  let x := s.world id
  if !x.keyed || x.halted then (3, w 0, s)
  else if !regionOk (w 1) || (s.ownerOf (w 1)).getLsbD 15 || (w 2 != 0 && !s.sharedRange (w 2) (2 ^ 21)) then (2, w 0, s)
  else
    let (data, s0) := if w 2 = 0 then (none, s) else let r := s.agentRead 32 (s.pool 32) (w 2) (2 ^ 21); (some r.1, r.2)
    let s1 := (((s0.dropCached (w 1) (2 ^ 21)).setOwner (w 1) (BitVec.ofNat 16 (2 ^ 15 + id))).fillRegion (w 1) data).sealRegion (w 1)
    (0, w 0, s1.setWorld id (x.extend (data.getD (List.replicate (2 ^ 21) 0))))
def execAdmit (s : State) : Host.Outcome State Fault Refusal := s.signetCall 2 (fun s _ id w => s.admitRegion id w)

/-- A region is cleared by R225 and shared again. -/
def State.releaseRegion (s : State) (a : Nat) : State := (s.startClear (regionNo a).1 a (2 ^ 21)).setOwner a 0
/-- RELEASE, R379. -/
def State.releaseCall (s : State) (id : Nat) (w : Nat → Nat) : Nat × Nat × State :=
  if !(s.world id).keyed then (3, w 0, s)
  else if !regionOk (w 1) || s.ownerOf (w 1) != BitVec.ofNat 16 (2 ^ 15 + id) then (2, w 0, s)
  else (0, w 0, s.releaseRegion (w 1))
def execRelease (s : State) : Host.Outcome State Fault Refusal := s.signetCall 3 (fun s _ id w => s.releaseCall id w)

/-! Ways. -/

/-- The ways of a die that other worlds reserve. -/
def Die.waysOfOthers (x : Die) (id : Nat) : BitVec 12 := x.wres.foldl (fun m p => if p.1 = id then m else m ||| p.2) 0
def ones12 (m : BitVec 12) : Nat := ((List.range 12).filter (fun i => m.getLsbD i)).length

/-- A world's ways on a die. When ways go, the lines that stand in the world's ways are evicted first, each sector sealed (R386, R387, assumption 33). -/
def State.setWays (s : State) (d id : Nat) (m : BitVec 12) : State :=
  let w : BitVec 12 := BitVec.ofNat 12 id
  let s1 := if Tab.get 0 (s.die d).wres id &&& ~~~m == 0 then s
    else ((s.die d).l2Sectors.filter (fun k => s.wayWorld d k == w)).foldl (fun (s : State) k => s.evictSector d k) s
  s1.setDie d { s1.die d with wres := Tab.set 0 (s1.die d).wres id m }

/-- WAYS, R386: a way belongs to one world, at most 8 of a die's 12 are reserved. -/
def State.waysCall (s : State) (id : Nat) (w : Nat → Nat) : Nat × Nat × State :=
  let m : BitVec 12 := BitVec.ofNat 12 (w 2)
  if !(s.world id).keyed then (3, w 0, s)
  else if 32 ≤ w 1 ∨ 2 ^ 12 ≤ w 2 then (2, w 0, s)
  else
    let o := (s.die (w 1)).waysOfOthers id
    if o &&& m != 0 || decide (8 < ones12 (o ||| m)) then (2, w 0, s) else (0, w 0, s.setWays (w 1) id m)
def execWays (s : State) : Host.Outcome State Fault Refusal := s.signetCall 4 (fun s _ id w => s.waysCall id w)

/-! Evidence. -/

/-- Bytes cut or filled with zeros to a length. -/
def fitTo (n : Nat) (bs : List Byte) : List Byte := (bs ++ List.replicate n 0).take n

/-- The evidence of the switches on a world's routes: at most what the 16-bit count can say. -/
def switchesOf (id : Nat) : List (List Byte) := (Config.switches id).take 65535

/-- The evidence of R391 but for its signature and key. -/
def State.evidence (s : State) (id n : Nat) (nonce : List Byte) : List Byte :=
  bytesLE 4 0x56454455 ++ bytesLE 2 1 ++ bytesLE 2 n ++ bytesLE 8 (3425 + 128 * n) ++ fitTo 64 nonce ++ fitTo 64 (shake256 Config.publicKey) ++
  fitTo 64 s.mr0 ++ fitTo 64 s.mr1 ++ fitTo 64 (s.world id).mrw ++ bytesLE 16 (id + s.version % 65536 * 65536) ++
  (List.range n).flatMap (fun i => fitTo 128 ((switchesOf id).getD i []))

/-- ATTEST. -/
def State.attestCall (s : State) (id : Nat) (w : Nat → Nat) : Nat × Nat × State :=
  let n := (switchesOf id).length
  let total := 3425 + 128 * n
  if !(s.world id).keyed then (3, w 0, s)
  else if w 3 < total then (4, w 0, s)
  else if !s.sharedRange (w 1) 64 || !s.sharedRange (w 2) total then (2, w 0, s)
  else
    let nonce := (s.agentRead 32 (s.pool 32) (w 1) 64).1
    let ev := s.evidence id n nonce
    let whole := ev ++ fitTo 1280 (Config.sign (shake256 ev)) ++ fitTo 1793 Config.publicKey
    (0, w 0, s.agentWrite 32 (s.pool 32) (w 2) whole)
def execAttest (s : State) : Host.Outcome State Fault Refusal := s.signetCall 5 (fun s _ id w => s.attestCall id w)

/-! The end of a world. -/

/-- The regions that a world owns, by their local addresses. -/
def State.regionsOfWorld (s : State) (id : Nat) : List Nat :=
  s.dies.flatMap (fun d => (d.2.owner.filter (fun p => p.2 == BitVec.ofNat 16 (2 ^ 15 + id))).map (fun p => d.1 * 2 ^ 36 + p.1 * 2 ^ 21))

/-- DESTROY, R379, R380: not while a bound virtual device holds a group. -/
def State.destroyCall (s : State) (id : Nat) (w : Nat → Nat) : Nat × Nat × State :=
  let x := s.world id
  if !x.keyed || s.groups.any (fun p => !isSystem p.1 && p.2.resident && x.vdevs.getLsbD p.2.vdev.toNat) then (3, w 0, s)
  else
    let s1 := (s.regionsOfWorld id).foldl (fun s a => s.releaseRegion a) s
    let s2 := (List.range 32).foldl (fun s d => s.setWays d id 0) s1
    (0, w 0, (s2.setWorld id World.none).rebound)
def execDestroy (s : State) : Host.Outcome State Fault Refusal := s.signetCall 6 (fun s _ id w => s.destroyCall id w)

/-! IDE keys and entering. -/

/-- IDEKEY: fresh keys of a stream of a port, for the world the call names; stream 0 is the link stream (R379, 16 R318). -/
def State.idekeyCall (s : State) (id : Nat) (w : Nat → Nat) : Nat × Nat × State :=
  if id ≠ 0 ∧ !(s.world id).keyed then (3, w 0, s)
  else if 32 ≤ w 1 ∨ 8 < w 2 then (2, w 0, s)
  else
    let io := ioOfPort (w 1)
    (0, w 0, s.setIo io { s.io io with ide := Tab.put (s.io io).ide (w 1 * 16 + w 2) (some (BitVec.ofNat 12 id)) })
def execIdekey (s : State) : Host.Outcome State Fault Refusal := s.signetCall 7 (fun s _ id w => s.idekeyCall id w)

/-- The group of a system core as it starts in a world: registers zero under new generations, level 1, at the entry. -/
def Group.entered (g : Group) (id : Nat) (entry : DWord) : Group :=
  { (g.scrubbed.desched).setPriv 1 with
    world := BitVec.ofNat 12 id, wait := .none, resume := none, empt := []
    lanes := g.lanes.map (fun (p : Nat × Lane) => (p.1, { p.2 with pc := entry, p := 0, lc := [], la := [], laOk := 0, fflag := 0, loops := [],
                                                                    gen := if p.2.gen == 0xFFFF#16 then 1 else p.2.gen + 1 })) }

/-- ENTER, R381: Signet holds the host's registers; the calling core goes on in the world at level 1. -/
def State.enterCall (s : State) (cid id : Nat) (w : Nat → Nat) : Nat × Nat × State :=
  let g := s.group (cid * 32)
  if !(s.world id).keyed || (s.world id).halted || g.world != 0 then (3, w 0, s)
  else if w 1 % 4 ≠ 0 ∨ 2 ^ 56 ≤ w 1 then (2, w 0, s)
  else
    let s1 : State := { s with hosts := ⟨cid, g⟩ :: s.hosts.filter (fun h => h.core != cid || h.g.world != 0) }
    (0, w 0, s1.setGroup (cid * 32) (g.entered id (BitVec.ofNat 64 (w 1))))
def execEnter (s : State) : Host.Outcome State Fault Refusal := s.signetCall 8 (fun s cid id w => s.enterCall cid id w)

/-! The exchange of R353 for a group of a world (R382, assumption 108). -/

/-- Signet at work for a group: level 3 in the group's space and world. -/
def State.signetAgent (s : State) (gid : Nat) : Agent :=
  let g := s.group gid
  { cid := coreOf gid, q := 0, asid := g.asid.toNat, gen := (s.space g.asid.toNat).gen, level := 3, vdev := g.vdev, ctxid := g.ctxid, world := g.world, own := true }

/-- An image goes out under a world to addresses of the group's space, as write `num` of the die. -/
def State.imageOut (s : State) (a : Agent) (world : BitVec 12) (num : BitVec 24) : List (Nat × Nat) → List Byte → Except (EngErr × State) State
  | [], _ => .ok s
  | (va, n) :: r, bs =>
    match s.engPiece a va .store with
    | .error e => .error e
    | .ok (pa, s0) =>
      match s0.engWritePa { a with world := world } num va pa (pieces 256 pa n) (bs.take n) with
      | .error e => .error e
      | .ok s1 => s1.imageOut a world num r (bs.drop n)

/-- ASPILL of tile t to its record, when it has an owner. -/
def State.spillTile (s : State) (gid t : Nat) : Except (EngErr × State) State :=
  let y := s.tile (coreOf gid) t
  let va := y.recAddr.toNat
  if y.own.getLsbD 16 = false then .ok s
  else if y.bad.any (fun p => p.2) then .error ((cMachineCheck, 0x20000 + t), s.mclog (coreOf gid) 5 (0x20000 + t))
  else if va % 16 ≠ 0 then .error ((cMisalign, va), s)
  else
    let (n, s1) := s.nextNum (dieOf gid)
    s1.imageOut (s.signetAgent gid) y.world n (pieces 4096 va 4112) y.image

/-- AFILL of tile t from the group's own slot when that holds its image, else AOWN with z = 1. -/
def State.fillTile (s : State) (gid t : Nat) : Except (EngErr × State) State :=
  let g := s.group gid
  let cid := coreOf gid
  let a := s.signetAgent gid
  let va := (g.slotFor t).toNat
  let fresh (s : State) : State := s.setTile cid t (g.own t (s.tile cid t).zeroed)
  if va = 0 then .ok (fresh s)
  else match s.engRead a 0 (va + 4096) 4 with
    | .error e => .error e
    | .ok (bs, s1) =>
      if BitVec.ofNat 17 (ofBytesLE bs) ≠ 1#1 ++ g.ctxid then .ok (fresh s1)
      else match s1.engRead a 0 va 4112 with
        | .error e => .error e
        | .ok (im, s2) => .ok (s2.setTile cid t (Tile.ofImage im (fun _ => g.slotFor t) g.world))

/-- What the group's trap asks for: a tile, or from 0x40 on a table slot (09 R185). -/
def State.exchange (s : State) (gid : Nat) : Except (EngErr × State) State :=
  let g := s.group gid
  let t := (g.tr 3).addr.toNat
  if 0x40 ≤ t then
    match s.engRead (s.signetAgent gid) 0 (Tab.get 0 g.lutsrc (t % 4)).toNat 2064 with
    | .error e => .error e
    | .ok (bs, s1) => .ok (s1.setCore (coreOf gid) ((s1.core (coreOf gid)).loadLut (t % 4) bs g.ctxid))
  else match s.spillTile gid t with
    | .error e => .error e
    | .ok s1 => s1.fillTile gid t

/-- Signet's exchange, once the group's accesses and the passes on the tile are done; then the group returns to its instruction. A fault of it stops the
group as any trap at level 3 does (18 R324). None when it must wait. -/
def State.signetExchange (s : State) (gid : Nat) : Option State :=
  let g := s.group gid
  let d := dieOf gid
  if !s.exchanging gid || g.status != .running || !s.settled d || s.farAheadBy d 1 || s.rowsBusy (coreOf gid) (g.tr 3).addr.toNat (BitVec.allOnes 32) then none
  else match s.exchange gid with
    | .ok t => some (t.setGroup gid { (t.group gid).rett 3 (g.tr 3).pc with readySince := s.clock + 16 })
    | .error ((0, _), _) => none
    | .error ((_, va), t) => some (((t.stopGroup gid).mclog (coreOf gid) 9 va).setIpend (namedSysCore d) 62)

/-- A call that names no operation is answered with STATUS 2. -/
def State.unknownCall (s : State) : Option State :=
  match s.call with
  | some (_, a, ws) => if s.blockOk a && (callOp (ws.getD 0 0) == 0 || decide (8 < callOp (ws.getD 0 0))) then some (s.answer a (ws.getD 0 0) 2) else none
  | none => none

end Sys2Proof.Machine
end

