-- ==== Sys2Proof/Machine/Dispatch.lean ====
section
/-!
DEFINITION. One arm for each row of the opcode table: a call of its meaning.
-/

namespace Sys2Proof.Machine

open Sys2Proof

/-- What an instruction, or a step that is no instruction, does. -/
def exec (i : Instr) (s : State) : Host.Outcome State Fault Refusal :=
  match i with
  | .nop => Sys2Proof.Machine.execNop s
  | .nopX x => Sys2Proof.Machine.execNopX x s
  | .yield x => Sys2Proof.Machine.execYield x s
  | .mov d a => Sys2Proof.Machine.execMov d a s
  | .movX x => Sys2Proof.Machine.execMovX x s
  | .sel x => Sys2Proof.Machine.execSel x s
  | .mov64 x => Sys2Proof.Machine.execMov64 x s
  | .movx x => Sys2Proof.Machine.execMovx x s
  | .movxw x => Sys2Proof.Machine.execMovxw x s
  | .iadd d a b => Sys2Proof.Machine.execIadd d a b s
  | .iaddX x => Sys2Proof.Machine.execIaddX x s
  | .iadd64 x => Sys2Proof.Machine.execIadd64 x s
  | .lea x => Sys2Proof.Machine.execLea x s
  | .iaddc x => Sys2Proof.Machine.execIaddc x s
  | .isubb x => Sys2Proof.Machine.execIsubb x s
  | .isub d a b => Sys2Proof.Machine.execIsub d a b s
  | .isubX x => Sys2Proof.Machine.execIsubX x s
  | .isub64 x => Sys2Proof.Machine.execIsub64 x s
  | .ineg x => Sys2Proof.Machine.execIneg x s
  | .iabs x => Sys2Proof.Machine.execIabs x s
  | .imul d a b => Sys2Proof.Machine.execImul d a b s
  | .imulX x => Sys2Proof.Machine.execImulX x s
  | .imulh x => Sys2Proof.Machine.execImulh x s
  | .imulw x => Sys2Proof.Machine.execImulw x s
  | .imad x => Sys2Proof.Machine.execImad x s
  | .imadw x => Sys2Proof.Machine.execImadw x s
  | .imad64 x => Sys2Proof.Machine.execImad64 x s
  | .imin d a b => Sys2Proof.Machine.execImin d a b s
  | .iminX x => Sys2Proof.Machine.execIminX x s
  | .imax x => Sys2Proof.Machine.execImax x s
  | .and d a b => Sys2Proof.Machine.execAnd d a b s
  | .andX x => Sys2Proof.Machine.execAndX x s
  | .andn x => Sys2Proof.Machine.execAndn x s
  | .bfun x => Sys2Proof.Machine.execBfun x s
  | .or d a b => Sys2Proof.Machine.execOr d a b s
  | .orX x => Sys2Proof.Machine.execOrX x s
  | .xor d a b => Sys2Proof.Machine.execXor d a b s
  | .xorX x => Sys2Proof.Machine.execXorX x s
  | .not x => Sys2Proof.Machine.execNot x s
  | .shl d a b => Sys2Proof.Machine.execShl d a b s
  | .shlX x => Sys2Proof.Machine.execShlX x s
  | .shl64 x => Sys2Proof.Machine.execShl64 x s
  | .shr d a b => Sys2Proof.Machine.execShr d a b s
  | .shrX x => Sys2Proof.Machine.execShrX x s
  | .sar x => Sys2Proof.Machine.execSar x s
  | .shr64 x => Sys2Proof.Machine.execShr64 x s
  | .sar64 x => Sys2Proof.Machine.execSar64 x s
  | .rotl x => Sys2Proof.Machine.execRotl x s
  | .fshl x => Sys2Proof.Machine.execFshl x s
  | .fshr x => Sys2Proof.Machine.execFshr x s
  | .bfx d a b => Sys2Proof.Machine.execBfx d a b s
  | .bfxX x => Sys2Proof.Machine.execBfxX x s
  | .bfi x => Sys2Proof.Machine.execBfi x s
  | .bmsk x => Sys2Proof.Machine.execBmsk x s
  | .popc d a => Sys2Proof.Machine.execPopc d a s
  | .popcX x => Sys2Proof.Machine.execPopcX x s
  | .clz x => Sys2Proof.Machine.execClz x s
  | .ctz x => Sys2Proof.Machine.execCtz x s
  | .brev x => Sys2Proof.Machine.execBrev x s
  | .bytep x => Sys2Proof.Machine.execBytep x s
  | .icmp d a b => Sys2Proof.Machine.execIcmp d a b s
  | .icmpX x => Sys2Proof.Machine.execIcmpX x s
  | .icmp64 x => Sys2Proof.Machine.execIcmp64 x s
  | .plop x => Sys2Proof.Machine.execPlop x s
  | .cvti x => Sys2Proof.Machine.execCvti x s
  | .fadd d a b => Sys2Proof.Machine.execFadd d a b s
  | .faddX x => Sys2Proof.Machine.execFaddX x s
  | .fsub x => Sys2Proof.Machine.execFsub x s
  | .fmul d a b => Sys2Proof.Machine.execFmul d a b s
  | .fmulX x => Sys2Proof.Machine.execFmulX x s
  | .ffma d a b => Sys2Proof.Machine.execFfma d a b s
  | .ffmaX x => Sys2Proof.Machine.execFfmaX x s
  | .fmin d a b => Sys2Proof.Machine.execFmin d a b s
  | .fminX x => Sys2Proof.Machine.execFminX x s
  | .fmax x => Sys2Proof.Machine.execFmax x s
  | .fminn x => Sys2Proof.Machine.execFminn x s
  | .fmaxn x => Sys2Proof.Machine.execFmaxn x s
  | .fcmp d a b => Sys2Proof.Machine.execFcmp d a b s
  | .fcmpX x => Sys2Proof.Machine.execFcmpX x s
  | .fclass x => Sys2Proof.Machine.execFclass x s
  | .fcvt x => Sys2Proof.Machine.execFcvt x s
  | .fcvti x => Sys2Proof.Machine.execFcvti x s
  | .icvtf x => Sys2Proof.Machine.execIcvtf x s
  | .frnd x => Sys2Proof.Machine.execFrnd x s
  | .fscale x => Sys2Proof.Machine.execFscale x s
  | .frcp d a => Sys2Proof.Machine.execFrcp d a s
  | .frcpX x => Sys2Proof.Machine.execFrcpX x s
  | .frsq x => Sys2Proof.Machine.execFrsq x s
  | .fsqrt x => Sys2Proof.Machine.execFsqrt x s
  | .fex2 x => Sys2Proof.Machine.execFex2 x s
  | .flg2 x => Sys2Proof.Machine.execFlg2 x s
  | .fsin x => Sys2Proof.Machine.execFsin x s
  | .fcos x => Sys2Proof.Machine.execFcos x s
  | .ftanh x => Sys2Proof.Machine.execFtanh x s
  | .fdot2 x => Sys2Proof.Machine.execFdot2 x s
  | .fma2 x => Sys2Proof.Machine.execFma2 x s
  | .fadd2 x => Sys2Proof.Machine.execFadd2 x s
  | .fmul2 x => Sys2Proof.Machine.execFmul2 x s
  | .dot4 x => Sys2Proof.Machine.execDot4 x s
  | .bra off => Sys2Proof.Machine.execBra off s
  | .braX x => Sys2Proof.Machine.execBraX x s
  | .brc d off => Sys2Proof.Machine.execBrc d off s
  | .brcX x => Sys2Proof.Machine.execBrcX x s
  | .bru d off => Sys2Proof.Machine.execBru d off s
  | .bruX x => Sys2Proof.Machine.execBruX x s
  | .call d off => Sys2Proof.Machine.execCall d off s
  | .callX x => Sys2Proof.Machine.execCallX x s
  | .calli x => Sys2Proof.Machine.execCalli x s
  | .ret x => Sys2Proof.Machine.execRet x s
  | .jmpi x => Sys2Proof.Machine.execJmpi x s
  | .loop x => Sys2Proof.Machine.execLoop x s
  | .brkl x => Sys2Proof.Machine.execBrkl x s
  | .exit => Sys2Proof.Machine.execExit s
  | .exitX x => Sys2Proof.Machine.execExitX x s
  | .rfl x => Sys2Proof.Machine.execRfl x s
  | .sleep a => Sys2Proof.Machine.execSleep a s
  | .sleepX x => Sys2Proof.Machine.execSleepX x s
  | .sleepd x => Sys2Proof.Machine.execSleepd x s
  | .sleepWake gid => Sys2Proof.Machine.execSleepWake gid s
  | .trap => Sys2Proof.Machine.execTrap s
  | .trapX x => Sys2Proof.Machine.execTrapX x s
  | .tfence x => Sys2Proof.Machine.execTfence x s
  | .bkpt x => Sys2Proof.Machine.execBkpt x s
  | .rett x => Sys2Proof.Machine.execRett x s
  | .mfs d => Sys2Proof.Machine.execMfs d s
  | .mfsX x => Sys2Proof.Machine.execMfsX x s
  | .mts x => Sys2Proof.Machine.execMts x s
  | .ipf a => Sys2Proof.Machine.execIpf a s
  | .ipfX x => Sys2Proof.Machine.execIpfX x s
  | .fencei x => Sys2Proof.Machine.execFencei x s
  | .wfi a => Sys2Proof.Machine.execWfi a s
  | .wfiX x => Sys2Proof.Machine.execWfiX x s
  | .wfiDeadline gid => Sys2Proof.Machine.execWfiDeadline gid s
  | .tlbi a b => Sys2Proof.Machine.execTlbi a b s
  | .tlbiX x => Sys2Proof.Machine.execTlbiX x s
  | .genb x => Sys2Proof.Machine.execGenb x s
  | .xacq d a => Sys2Proof.Machine.execXacq d a s
  | .xacqX x => Sys2Proof.Machine.execXacqX x s
  | .xacqGrant gid => Sys2Proof.Machine.execXacqGrant gid s
  | .xrel x => Sys2Proof.Machine.execXrel x s
  | .xshr x => Sys2Proof.Machine.execXshr x s
  | .ocld x => Sys2Proof.Machine.execOcld x s
  | .ocinv x => Sys2Proof.Machine.execOcinv x s
  | .feset x => Sys2Proof.Machine.execFeset x s
  | .feclr x => Sys2Proof.Machine.execFeclr x s
  | .fewait x => Sys2Proof.Machine.execFewait x s
  | .qxch d a => Sys2Proof.Machine.execQxch d a s
  | .qxchX x => Sys2Proof.Machine.execQxchX x s
  | .qbc x => Sys2Proof.Machine.execQbc x s
  | .gshf d a b => Sys2Proof.Machine.execGshf d a b s
  | .gshfX x => Sys2Proof.Machine.execGshfX x s
  | .gshfx x => Sys2Proof.Machine.execGshfx x s
  | .gshfup x => Sys2Proof.Machine.execGshfup x s
  | .gshfdn x => Sys2Proof.Machine.execGshfdn x s
  | .gvote d a => Sys2Proof.Machine.execGvote d a s
  | .gvoteX x => Sys2Proof.Machine.execGvoteX x s
  | .gmatch x => Sys2Proof.Machine.execGmatch x s
  | .gbcast x => Sys2Proof.Machine.execGbcast x s
  | .gred d a => Sys2Proof.Machine.execGred d a s
  | .gredX x => Sys2Proof.Machine.execGredX x s
  | .gscan x => Sys2Proof.Machine.execGscan x s
  | .gbar => Sys2Proof.Machine.execGbar s
  | .gbarX x => Sys2Proof.Machine.execGbarX x s
  | .gbara x => Sys2Proof.Machine.execGbara x s
  | .gbarw x => Sys2Proof.Machine.execGbarw x s
  | .phaseComplete die w => Sys2Proof.Machine.execPhaseComplete die w s
  | .binit a b => Sys2Proof.Machine.execBinit a b s
  | .binitX x => Sys2Proof.Machine.execBinitX x s
  | .barv x => Sys2Proof.Machine.execBarv x s
  | .bwait x => Sys2Proof.Machine.execBwait x s
  | .barw x => Sys2Proof.Machine.execBarw x s
  | .btest x => Sys2Proof.Machine.execBtest x s
  | .ld d a => Sys2Proof.Machine.execLd d a s
  | .ldX x => Sys2Proof.Machine.execLdX x s
  | .lds x => Sys2Proof.Machine.execLds x s
  | .ldw x => Sys2Proof.Machine.execLdw x s
  | .st a b => Sys2Proof.Machine.execSt a b s
  | .stX x => Sys2Proof.Machine.execStX x s
  | .sts x => Sys2Proof.Machine.execSts x s
  | .stw x => Sys2Proof.Machine.execStw x s
  | .loadReturn id dev => Sys2Proof.Machine.execLoadReturn id dev s
  | .storeAck id => Sys2Proof.Machine.execStoreAck id s
  | .aadd d a b => Sys2Proof.Machine.execAadd d a b s
  | .aaddX x => Sys2Proof.Machine.execAaddX x s
  | .amin x => Sys2Proof.Machine.execAmin x s
  | .amax x => Sys2Proof.Machine.execAmax x s
  | .aand x => Sys2Proof.Machine.execAand x s
  | .aor x => Sys2Proof.Machine.execAor x s
  | .axor x => Sys2Proof.Machine.execAxor x s
  | .axch x => Sys2Proof.Machine.execAxch x s
  | .acas x => Sys2Proof.Machine.execAcas x s
  | .ainc x => Sys2Proof.Machine.execAinc x s
  | .adec x => Sys2Proof.Machine.execAdec x s
  | .afadd x => Sys2Proof.Machine.execAfadd x s
  | .afmin x => Sys2Proof.Machine.execAfmin x s
  | .afmax x => Sys2Proof.Machine.execAfmax x s
  | .atomicReturn id => Sys2Proof.Machine.execAtomicReturn id s
  | .qntApply id => Sys2Proof.Machine.execQntApply id s
  | .fence => Sys2Proof.Machine.execFence s
  | .fenceX x => Sys2Proof.Machine.execFenceX x s
  | .pref x => Sys2Proof.Machine.execPref x s
  | .cinv x => Sys2Proof.Machine.execCinv x s
  | .cwb x => Sys2Proof.Machine.execCwb x s
  | .cpin x => Sys2Proof.Machine.execCpin x s
  | .cunpin x => Sys2Proof.Machine.execCunpin x s
  | .locketFade die w => Sys2Proof.Machine.execLocketFade die w s
  | .mma x => Sys2Proof.Machine.execMma x s
  | .mmaq x => Sys2Proof.Machine.execMmaq x s
  | .mmai x => Sys2Proof.Machine.execMmai x s
  | .passStart id => Sys2Proof.Machine.execPassStart id s
  | .acz x => Sys2Proof.Machine.execAcz x s
  | .acld x => Sys2Proof.Machine.execAcld x s
  | .acmov x => Sys2Proof.Machine.execAcmov x s
  | .acst x => Sys2Proof.Machine.execAcst x s
  | .alut x => Sys2Proof.Machine.execAlut x s
  | .osopen d a b => Sys2Proof.Machine.execOsopen d a b s
  | .osopenX x => Sys2Proof.Machine.execOsopenX x s
  | .ossub x => Sys2Proof.Machine.execOssub x s
  | .osclose x => Sys2Proof.Machine.execOsclose x s
  | .streamTileRead die slot t => Sys2Proof.Machine.execStreamTileRead die slot t s
  | .aspill x => Sys2Proof.Machine.execAspill x s
  | .afill x => Sys2Proof.Machine.execAfill x s
  | .aown x => Sys2Proof.Machine.execAown x s
  | .cqadv d a b => Sys2Proof.Machine.execCqadv d a b s
  | .cqadvX x => Sys2Proof.Machine.execCqadvX x s
  | .batchDecision cid q => Sys2Proof.Machine.execBatchDecision cid q s
  | .cqwait x => Sys2Proof.Machine.execCqwait x s
  | .cqseq x => Sys2Proof.Machine.execCqseq x s
  | .dcwait x => Sys2Proof.Machine.execDcwait x s
  | .tready x => Sys2Proof.Machine.execTready x s
  | .cqput x => Sys2Proof.Machine.execCqput x s
  | .entryBegin cid q => Sys2Proof.Machine.execEntryBegin cid q s
  | .entryComplete cid q => Sys2Proof.Machine.execEntryComplete cid q s
  | .engineWindowWrite cid q => Sys2Proof.Machine.execEngineWindowWrite cid q s
  | .queueHalt cid q cause addr => Sys2Proof.Machine.execQueueHalt cid q cause addr s
  | .promiseMiss cid q => Sys2Proof.Machine.execPromiseMiss cid q s
  | .qstatClrc cid q => Sys2Proof.Machine.execQstatClrc cid q s
  | .qstatHaltClear cid q => Sys2Proof.Machine.execQstatHaltClear cid q s
  | .deferredReport gid => Sys2Proof.Machine.execDeferredReport gid s
  | .step gid => Sys2Proof.Machine.execStep gid s
  | .promiseMissed gid => Sys2Proof.Machine.execPromiseMissed gid s
  | .watchdog gid => Sys2Proof.Machine.execWatchdog gid s
  | .preempt gid => Sys2Proof.Machine.execPreempt gid s
  | .breakpoint gid => Sys2Proof.Machine.execBreakpoint gid s
  | .integrity gid pa => Sys2Proof.Machine.execIntegrity gid pa s
  | .walkResult die idx => Sys2Proof.Machine.execWalkResult die idx s
  | .homePerform id => Sys2Proof.Machine.execHomePerform id s
  | .stampAnnouncement src dst => Sys2Proof.Machine.execStampAnnouncement src dst s
  | .refresh die ch act => Sys2Proof.Machine.execRefresh die ch act s
  | .hotRowWindowEnd die => Sys2Proof.Machine.execHotRowWindowEnd die s
  | .clearSweep die line => Sys2Proof.Machine.execClearSweep die line s
  | .scrub die pa res => Sys2Proof.Machine.execScrub die pa res s
  | .flitRetry die port => Sys2Proof.Machine.execFlitRetry die port s
  | .linkFailover die port => Sys2Proof.Machine.execLinkFailover die port s
  | .writeAck src home num => Sys2Proof.Machine.execWriteAck src home num s
  | .inboundPostedWrite q data => Sys2Proof.Machine.execInboundPostedWrite q data s
  | .inboundRead q len => Sys2Proof.Machine.execInboundRead q len s
  | .atsTranslationRequest q => Sys2Proof.Machine.execAtsTranslationRequest q s
  | .atsInvalidationCompletion port rid => Sys2Proof.Machine.execAtsInvalidationCompletion port rid s
  | .atsInvalidationTimeout port rid => Sys2Proof.Machine.execAtsInvalidationTimeout port rid s
  | .pageRequest q rd wr last prg => Sys2Proof.Machine.execPageRequest q rd wr last prg s
  | .prgrsp io v => Sys2Proof.Machine.execPrgrsp io v s
  | .completionTimeout id => Sys2Proof.Machine.execCompletionTimeout id s
  | .intxMessage port => Sys2Proof.Machine.execIntxMessage port s
  | .ptmRequest port => Sys2Proof.Machine.execPtmRequest port s
  | .ideCheckFailure q => Sys2Proof.Machine.execIdeCheckFailure q s
  | .surpriseRemoval port => Sys2Proof.Machine.execSurpriseRemoval port s
  | .bezelStore id => Sys2Proof.Machine.execBezelStore id s
  | .claspBarrierArrival io => Sys2Proof.Machine.execClaspBarrierArrival io s
  | .claspCounterAdd io => Sys2Proof.Machine.execClaspCounterAdd io s
  | .claspInterrupt io => Sys2Proof.Machine.execClaspInterrupt io s
  | .wake cid => Sys2Proof.Machine.execWake cid s
  | .remoteWrite r data => Sys2Proof.Machine.execRemoteWrite r data s
  | .remoteWriteAck id ok => Sys2Proof.Machine.execRemoteWriteAck id ok s
  | .rwrev io w => Sys2Proof.Machine.execRwrev io w s
  | .reductionContribution r data => Sys2Proof.Machine.execReductionContribution r data s
  | .reductionTimeout idx => Sys2Proof.Machine.execReductionTimeout idx s
  | .launch cid tail => Sys2Proof.Machine.execLaunch cid tail s
  | .launchCopy vdev => Sys2Proof.Machine.execLaunchCopy vdev s
  | .dependencePoll seq => Sys2Proof.Machine.execDependencePoll seq s
  | .placeGang die seq => Sys2Proof.Machine.execPlaceGang die seq s
  | .chunkArrival wg => Sys2Proof.Machine.execChunkArrival wg s
  | .stealMessage seq asker => Sys2Proof.Machine.execStealMessage seq asker s
  | .stealAnswer seq asker => Sys2Proof.Machine.execStealAnswer seq asker s
  | .groupRelease gid => Sys2Proof.Machine.execGroupRelease gid s
  | .launchComplete seq => Sys2Proof.Machine.execLaunchComplete seq s
  | .turnEnd die => Sys2Proof.Machine.execTurnEnd die s
  | .gangSave gang => Sys2Proof.Machine.execGangSave gang s
  | .gangRestore gang => Sys2Proof.Machine.execGangRestore gang s
  | .vdreset die v => Sys2Proof.Machine.execVdreset die v s
  | .clrsize die size => Sys2Proof.Machine.execClrsize die size s
  | .cecntRead die off width => Sys2Proof.Machine.execCecntRead die off width s
  | .registerWrite addr width val level => Sys2Proof.Machine.execRegisterWrite addr width val level s
  | .create => Sys2Proof.Machine.execCreate s
  | .admitCall => Sys2Proof.Machine.execAdmit s
  | .release => Sys2Proof.Machine.execRelease s
  | .ways => Sys2Proof.Machine.execWays s
  | .attest => Sys2Proof.Machine.execAttest s
  | .destroy => Sys2Proof.Machine.execDestroy s
  | .idekey => Sys2Proof.Machine.execIdekey s
  | .enter => Sys2Proof.Machine.execEnter s
  | .coldReset r => Sys2Proof.Machine.execColdReset r s
  | .warmReset r => Sys2Proof.Machine.execWarmReset r s
  | .throttleCheck die power junction stack => Sys2Proof.Machine.execThrottleCheck die power junction stack s
  | .thermalTrip die => Sys2Proof.Machine.execThermalTrip die s
  | .ptmCorrection ahead => Sys2Proof.Machine.execPtmCorrection ahead s
  | .standbySupplyApplied die => Sys2Proof.Machine.execStandbySupplyApplied die s
  | .genbCompletion gid => Sys2Proof.Machine.execGenbCompletion gid s
  | .distributorReply id => Sys2Proof.Machine.execDistributorReply id s

end Sys2Proof.Machine
end

