-- ==== Sys2Proof/Machine/Clocks.lean ====
section
/-!
DEFINITION. The passing of cycles and what it brings: the package counter and its corrections (24 R394), stall counts (R399), what virtual devices
are charged (19 R348), extensions of promises (15 R286), watchdogs (18 R337), pre-emption limits (19 R352), fading windows (11 R221), refreshes and hot rows
(11 R218, R219), announcements of counters and the bound of .qnt (12 R238, R242).
-/

namespace Sys2Proof.Machine

/-- The next step's cycles: the head of `pace`, or `dflt` (assumption 11). -/
def State.takePace (s : State) (dflt : Nat) : Nat × State :=
  match s.pace with
  | n :: r => (n, { s with pace := r })
  | [] => (dflt, s)

/-! The counter, R394. -/

/-- The counter and its drift after n cycles: one cycle in 1,024 is held while the counter is ahead by more than 2, one counts double while it is behind. -/
def State.advance (s : State) (n : Nat) : State :=
  let k := (s.cycles + n) / 1024 - s.cycles / 1024
  let m : Nat := min k (s.drift.natAbs - 2)
  if 0 ≤ s.drift then { s with clock := s.clock + n - m, cycles := s.cycles + n, drift := s.drift - m }
  else { s with clock := s.clock + n + m, cycles := s.cycles + n, drift := s.drift + m }

/-! Charges, R348. -/

/-- The virtual devices of the groups on a die, each with the cores it holds there. -/
def State.charges (s : State) (d : Nat) : List (Nat × Nat) :=
  let cs := ((s.groups.filter (fun p => dieOf p.1 == d && p.2.resident)).map (fun p => (p.2.vdev.toNat, coreOf p.1))).eraseDups
  ((cs.map Prod.fst).eraseDups).map (fun v => (v, (cs.filter (fun p => p.1 == v)).length))
/-- n cycles are charged on a die; the deficit of a virtual device without a group and without a placeable gang does not stay above 0. -/
def State.chargeDie (s : State) (n d : Nat) : State :=
  let s1 := (s.charges d).foldl (fun (s : State) (p : Nat × Nat) => s.setDeficit d p.1 (s.deficit d p.1 - (n * p.2 : Nat))) s
  ((s1.die d).deficit.filter (fun p => decide (0 < p.2) && !s1.holdsDie d p.1 && !s1.placeableN d p.1)).foldl (fun (s : State) (p : Nat × Int) => s.setDeficit d p.1 0) s1
/-- The compute dies on which something is charged or owed. -/
def State.chargedDies (s : State) : List Nat :=
  (List.range 32).filter (fun d => !(s.die d).deficit.isEmpty || s.groups.any (fun p => dieOf p.1 == d && p.2.resident))
def State.charge (s : State) (n : Nat) : State := s.chargedDies.foldl (fun (s : State) (d : Nat) => s.chargeDie n d) s

/-! Extensions, R286. -/

/-- From which place on the entries of each queue of a core are extended: all of them while the head waits for an input, -/
def Core.waitFrom (k : Core) : List Nat :=
  (List.range 8).map (fun q => match (Tab.get Queue.reset k.queues q).entries with
    | e :: _ => if !e.begun && !e.inputs.all (fun t => k.lattice.getLsbD t) then 0 else 1000
    | [] => 1000)
/-- and those behind a fence on an extended entry. -/
def Core.waitMore (k : Core) (from_ : List Nat) : List Nat :=
  (List.range 8).map (fun q =>
    let es := (Tab.get Queue.reset k.queues q).entries
    let held (e : Entry) : Bool := entQf (e.w 0) && (List.range 8).any (fun i => i != q && bitAt (entQmask (e.w 0)) i &&
      ((Tab.get Queue.reset k.queues i).entries.drop (from_.getD i 1000)).any (fun d => decide (d.handed < e.handed)))
    min (from_.getD q 1000) ((es.findIdx? held).getD 1000))
/-- The entries of a queue from place f on are extended by the cycles p, and with the last of them what later entries start from. -/
def Queue.extendFrom (q : Queue) (f : Nat) (p : Nat × Nat) : Queue :=
  { q with
    entries := q.entries.take f ++ (q.entries.drop f).map (fun (e : Entry) => { e with extend := addSpan e.extend p })
    lastX := if f < q.entries.length then addSpan q.lastX p else q.lastX }
/-- Cycles of waiting reach the entries of a core. -/
def Core.extend (k : Core) (p : Nat × Nat) : Core :=
  if k.queues.all (fun q => q.2.entries.isEmpty) then k
  else
    let f := (List.range 8).foldl (fun f _ => k.waitMore f) k.waitFrom
    { k with queues := k.queues.map (fun (q : Nat × Queue) => (q.1, q.2.extendFrom (f.getD q.1 1000) p)) }
def State.extendAll (s : State) (n : Nat) : State := { s with cores := s.cores.map (fun (c : Nat × Core) => (c.1, c.2.extend (s.cycles, s.cycles + n))) }

/-! Periods of 2^16 cycles. -/

/-- The group is in a sleep that has not come to its wake cycle. -/
def Group.sleepsAt (g : Group) (c : Nat) : Bool := match g.wait with | .sleep w => decide (c < w.toNat) | _ => false
/-- A watchdog is due at the period's end `b` (R337). -/
def State.watchdogAt (s : State) (b gid : Nat) (g : Group) : Bool :=
  let lim := (s.core (coreOf gid)).wdog.toNat
  lim != 0 && g.status == .running && g.live != 0 && !g.sleepsAt (b * 65536) && decide ((g.lastIssue + 65535) / 65536 + lim ≤ b)
def State.watchdogs (s : State) (b : Nat) : State :=
  { s with groups := s.groups.map (fun (p : Nat × Group) => (p.1, if s.watchdogAt b p.1 p.2 then { p.2 with pend := { p.2.pend with watchdog := true } } else p.2)) }

/-- How many limits of P periods have passed since a request, at the period's end b (R352). -/
def limitsPast (since p b : Nat) : Nat := (b - (since + 65535) / 65536) / p
/-- The groups that have not stopped take PREEMPT once more limits have passed. -/
def State.limits (s : State) (b0 b1 : Nat) : State :=
  s.dies.foldl (fun (s : State) (d : Nat × Die) =>
    let p := d.2.plimit.toNat % 65536
    if p = 0 then s
    else d.2.preqs.foldl (fun (s : State) (q : PreReq) =>
      if limitsPast q.since p b1 ≤ limitsPast q.since p b0 then s
      else match s.gang? q.gang with
        | some g => g.groups.foldl (fun (s : State) (k : Nat) =>
            let x := s.group k
            if x.status == .running && !x.held && !x.inTrap then s.setGroup k { x with pend := { x.pend with preempt := true } } else s) s
        | none => s) s) s

/-- The valid windows of every die fade by one period (R221). -/
def State.fade (s : State) : State :=
  s.dies.foldl (fun (s : State) (d : Nat × Die) => (List.range 16).foldl (fun (s : State) (w : Nat) => match execLocketFade d.1 w s with | .next t => t | _ => s) s) s

/-! Refreshes, hot rows, announcements, bounds. -/

/-- Refreshes that fell due since cycle c0, one each 2,340 cycles; sixteen bring every count to where it stays (R218). -/
def State.refreshed (s : State) (c0 : Nat) : State :=
  (List.range (min 17 (s.cycles / 2340 - c0 / 2340))).foldl (fun (s : State) (_ : Nat) => s.refreshes) s
/-- Refreshes of 252 cycles each that channels without requests issued since cycle c0 for those they owed (R218). -/
def State.caughtUp (s : State) (c0 : Nat) : State :=
  s.dies.foldl (fun (s : State) (d : Nat × Die) => if d.2.refrec.isEmpty then s else s.catchUp d.1 (s.cycles / 252 - c0 / 252)) s
/-- The refresh window of 32 ms ends: rows are counted anew (R219). -/
def State.cooled (s : State) (c0 : Nat) : State :=
  if c0 / 19200000 < s.cycles / 19200000 then
    s.dies.foldl (fun (s : State) (d : Nat × Die) => match execHotRowWindowEnd d.1 s with | .next t => t | _ => s) s
  else s
/-- A die tells every home how far its counter has come (12 R238). -/
def State.announce (s : State) (d : Nat) : State :=
  let t := (List.range 32).foldl (fun (s : State) h => if h = d then s else match execStampAnnouncement d h s with | .next t => t | _ => s) s
  let c := Tab.get 0 (t.kvec d) d
  if d < 32 then t.setDie d { t.die d with said := c } else t.setIo d { t.io d with said := c }
/-- The counter of a die has advanced since its last announcement. -/
def State.unsaid (s : State) (d : Nat) : Bool := Tab.get 0 (s.kvec d) d != (if d < 32 then (s.die d).said else (s.io d).said)
/-- The announcements of each 256 cycles (12 R238). -/
def State.announced (s : State) (c0 : Nat) : State :=
  if c0 / 256 < s.cycles / 256 then (List.range 34).foldl (fun (s : State) d => if s.unsaid d then s.announce d else s) s else s
/-- A .qnt atomic is applied no later than QUANTUM cycles after its issue (12 R242). -/
def State.quantumEnds (s : State) : State :=
  (s.reqs.filter (fun r => r.use == .qnt && !r.performed &&
    decide (r.since + (s.core (coreOf (r.gid % 2 ^ 20))).quantum.toNat ≤ s.cycles))).foldl (fun (s : State) (r : Req) =>
      let t := match execQntApply r.id s with | .next t => t | _ => s
      match execHomePerform r.id t with | .next u => u | _ => t) s
/-- What the cycles since c0 bring beside the counter. -/
def State.matured (s : State) (c0 : Nat) : State := ((((s.refreshed c0).caughtUp c0).cooled c0).announced c0).swept

/-- The ends of periods that lie between two values of the counter. -/
def State.periods (s : State) (c0 : Nat) : State :=
  let s := if c0 / 65536 < s.clock / 65536 then (s.watchdogs (s.clock / 65536)).limits (c0 / 65536) (s.clock / 65536) else s
  (List.range (s.clock / 2 ^ 20 - c0 / 2 ^ 20)).foldl (fun (s : State) (_ : Nat) => s.fade) s

/-- n cycles pass, in which `issuer` issued. -/
def State.tick (s : State) (n : Nat) (issuer : Option Nat) : State :=
  if n = 0 then s else (((((s.countStalls n issuer).charge n).extendAll n).advance n).periods s.clock).matured s.cycles

/-- The cycles that a step takes; then no .qnt atomic is overdue. -/
def State.pass (s : State) (dflt : Nat) (issuer : Option Nat) : State := ((s.takePace dflt).2.tick (s.takePace dflt).1 issuer).quantumEnds

/-- An issue of a compute core is counted, but for one that cleared the count in the same cycle (R399). -/
def State.countIssue (s : State) (gid : Nat) : State :=
  let k := s.core (coreOf gid)
  if isSystem gid then s else s.setCore (coreOf gid) { k with pciss := satAdd k.pciss (cyclesFrom s.cycles 1 (Tab.get 0 k.pcFrom 0x201)) }

/-- The cycles that an issue holds its pipe and the latency of its result (05 R79, 08 R148); read rounds add none (assumption 9). -/
def issueTiming (i : Instr) : Nat × Nat :=
  match i with
  | .imulh _ | .imulw _ | .imadw _ | .imad64 _ | .movx _ | .movxw _ => (2, 6)
  | .fclass _ => (1, 4)
  | _ =>
    match i.parts with
    | none => (1, 4)
    | some p =>
      let t := p.x.dty
      if 0x10 ≤ p.maj ∧ p.maj ≤ 0x15 ∧ (t = .f64 ∨ p.x.sty = .f64) then (4, 10)
      else if p.maj = 0x16 then (4, 12)
      else if p.maj = 0x31 ∨ p.maj = 0x32 then (2, 8)
      else if p.maj = 0x33 then (if t.isFloat then (4, 24) else (2, 12))
      else (1, 4)
/-- The latch that an issue filled can be read from a cycle on. -/
def Lane.settleLatch (x : Lane) (at_ : Nat) : Lane := { x with laAt := match x.laAt with | 0 :: r => at_ :: r | l => l }
/-- The time of an issue: its result's, and that of the group's next issue, 4 cycles after its last cycle (07 R141). One that traps holds its pipe for a
cycle (07 R142). -/
def Group.timed (g : Group) (clock : Nat) (t : Nat × Nat) : Group :=
  if g.faulted then g
  else { g with lanes := g.lanes.map (fun (p : Nat × Lane) => (p.1, p.2.settleLatch (clock + t.1 - 1 + t.2))), readySince := max g.readySince (clock + t.1 + 3) }

/-- After the instruction of a group: the issue is counted when it took place, its reads of the register file correct
what errors they meet (24 R398), and its cycles pass. -/
def State.afterIssue (s : State) (i : Instr) (gid before : Nat) : State :=
  if (s.group gid).issueNo = before then s.pass 4 none
  else
    let t := (s.countIssue gid).reads (dieOf gid) true gid
    (t.setGroup gid ((t.group gid).timed s.clock (issueTiming i))).pass 4 (some gid)

/-! An idle machine. -/

/-- The earlier of two cycles after now. -/
def sooner (now : Nat) (a : Option Nat) (b : Nat) : Option Nat :=
  if b ≤ now then a else match a with | some x => some (min x b) | none => some b

/-- The next cycle at which something happens by itself: a sleep or a WFI ends, a period ends, a turn's deficit is used up, a timeout comes,
an issue interval ends, a pass closes, a hot row may be activated, a promise is missed, counters are announced, a line is swept. -/
def State.nextDeadline (s : State) : Nat :=
  let now := s.clock
  let a := s.groups.foldl (fun (a : Option Nat) (p : Nat × Group) => match p.2.wait with
    | .sleep w => sooner now a w.toNat
    | .wfi w => if w = 0 then a else sooner now a w.toNat
    | _ => a) none
  let a := s.groups.foldl (fun (a : Option Nat) (p : Nat × Group) => if p.2.status == .running then sooner now a p.2.readySince else a) a
  let a := if s.groups.any (fun p => p.2.status == .running && (s.core (coreOf p.1)).wdog != 0) || s.dies.any (fun d => !d.2.preqs.isEmpty && d.2.plimit != 0)
    then sooner now a ((now / 65536 + 1) * 65536) else a
  let a := if s.dies.any (fun d => d.2.lkctl.any (fun k => k.2.getLsbD 0)) then sooner now a ((now / 2 ^ 20 + 1) * 2 ^ 20) else a
  let a := s.dies.foldl (fun (a : Option Nat) (d : Nat × Die) => match d.2.turn with
    | some v =>
      match ((s.charges d.1).find? (fun p => p.1 == v)).map Prod.snd with
      | some n => if n = 0 then a else sooner now a (now + ((s.deficit d.1 v).toNat + n - 1) / n)
      | none => a
    | none => a) a
  let a := s.reqs.foldl (fun (a : Option Nat) (r : Req) => match r.tgt with
    | .pcie _ => if r.isLoad then sooner now a (now + (r.since + 2 ^ 23 - s.cycles)) else a
    | _ => a) a
  let a := s.ios.foldl (fun (a : Option Nat) (x : Nat × IoDie) => x.2.inval.foldl (fun a p => sooner now a (now + (p.2.2 + 2 ^ 22 - s.cycles))) a) a
  let a := s.reductions.foldl (fun (a : Option Nat) (x : Reduction) => sooner now a (now + (x.since + 2 ^ 16 - s.cycles))) a
  let a := s.passes.foldl (fun (a : Option Nat) (p : Pass) => sooner now a (now + (p.q.since + 5 - s.cycles))) a
  let a := s.reqs.foldl (fun (a : Option Nat) (r : Req) => match r.tgt with
    | .mem h => if s.hotHeld h r.lpa r.writes then sooner now a (now + (Tab.get 0 (s.die h).hotLast (Config.rowOf r.lpa) + 240 - s.cycles)) else a
    | _ => a) a
  let a := s.cores.foldl (fun (a : Option Nat) (k : Nat × Core) => k.2.queues.foldl (fun a q => q.2.entries.foldl (fun a e =>
    if e.missed then a else sooner now a e.dueBy) a) a) a
  let a := if (List.range 34).any s.unsaid then sooner now a (now + (256 - s.cycles % 256)) else a
  let a := if s.dies.any (fun d => !d.2.clearing.isEmpty) then sooner now a (now + 4) else a
  a.getD (now + 1)

/-- Nothing can happen now: the cycles up to the next deadline pass. -/
def State.idle (s : State) : State := s.pass (s.nextDeadline - s.clock) none

end Sys2Proof.Machine
end

