-- ==== Sys2Proof/Machine/Schedule.lean ====
section
/-!
DEFINITION. What the machine does by itself, as soon as it can: each step of the table that waits for nothing from outside is due when its condition
holds (95, assumption 11). `State.due` gives the state after the first that is due; `State.plan` chooses between it, the agenda and the next issue.
-/

namespace Sys2Proof.Machine

/-- The state after a meaning, which always goes on. -/
def after (o : Host.Outcome State Fault Refusal) (s : State) : State := match o with | .next t => t | _ => s
/-- A meaning's state, when it changes something: a step that must wait for another changes nothing. -/
def moved (o : Host.Outcome State Fault Refusal) (s : State) : Option State := if after o s = s then none else some (after o s)
/-- A meaning's state, when its condition holds. -/
def when (b : Bool) (o : Host.Outcome State Fault Refusal) (s : State) : Option State := if b then some (after o s) else none

/-! Stops for pre-emption, R349. -/

/-- The group stops: it belongs to a requested gang and stands at a stop point outside every trap. -/
def State.holdable (s : State) (gid : Nat) : Bool :=
  let g := s.group gid
  g.status == .running && !g.held && g.wait.stopPoint && !g.inTrap
def Group.hold (g : Group) : Group :=
  { g with held := true, stopAt := match g.wait with | .tree | .rows _ => g.issueAddr | _ => none }
def State.holdDue (s : State) : Option State :=
  s.dies.findSome? (fun d => d.2.preqs.findSome? (fun q => (s.gang? q.gang).bind (fun g =>
    (g.groups.find? s.holdable).map (fun k => s.setGroup k (s.group k).hold))))

/-! Requests. -/

/-- What happens to one request. -/
def State.reqDue (s : State) (r : Req) : Option State :=
  if s.performable r then some (s.perform r)
  else if r.use == .qnt && r.num.isNone && !r.performed then some (after (execQntApply r.id s) s)
  else if !r.performed then none
  else if r.pa = 2 ^ 64 + 1 then some (after (execDistributorReply r.id s) s)
  else match r.tgt with
  | .pcie p =>
    if !r.isLoad then some (s.acked r)
    else if !s.answers p r.pa then some (after (execLoadReturn r.id none s) s)
    else if r.since + 2 ^ 23 ≤ s.cycles then some (after (execCompletionTimeout r.id s) s)
    else none
  | .remote _ => if r.isLoad then some (after (execLoadReturn r.id none s) s) else none
  | _ =>
    if r.isLoad then some (after (execLoadReturn r.id none s) s)
    else if r.returns then some (after (execAtomicReturn r.id s) s)
    else some (s.acked r)

/-- What homes still wait to hear about: home, source of the waiting request, its stamp. -/
def State.waitingStamps (s : State) : List (Nat × Nat × Tab (BitVec 24)) :=
  s.reqs.filterMap (fun r => match r.tgt with | .mem h => if r.performed then none else some (h, r.src, r.stamp) | _ => none) ++
  s.ios.flatMap (fun io => io.2.entries.flatMap (fun e => e.parts.map (fun p => (p.2.home, io.1, p.2.stamp))))
/-- An announcement that a home waits for and that brings something new (R238). -/
def State.announceDue (s : State) : Option State :=
  s.waitingStamps.findSome? (fun w => w.2.2.findSome? (fun p =>
    if p.1 == w.1 || p.1 == w.2.1 || serialGe (Tab.get 0 (s.die w.1).front p.1) p.2 then none
    else
      let t := after (execStampAnnouncement p.1 w.1 s) s
      if Tab.get 0 (t.die w.1).front p.1 = Tab.get 0 (s.die w.1).front p.1 then none else some t))

/-! Ordering points. -/

/-- The oldest write of an ordering point that still has parts. -/
def State.opAckDue (s : State) (io : Nat) : Option State :=
  match (s.io io).entries.find? (fun e => !e.parts.isEmpty) with
  | none => none
  | some e => e.parts.findSome? (fun p =>
      if (e.due p.2.home p.1).all (fun q => s.covers q.2.home io q.2.stamp && !s.coreBefore io q.2.home q.1) then some (after (execWriteAck io p.2.home p.1 s) s)
      else none)
def State.claspDue (s : State) (io : Nat) : Option State :=
  match s.claspHead io with
  | none => none
  | some m =>
    if m.kind = 1 then when (s.settled io) (execClaspCounterAdd io s) s
    else some (after (if m.kind = 2 then execClaspInterrupt io s else execClaspBarrierArrival io s) s)
def State.invalDue (s : State) (io : Nat) : Option State :=
  ((s.io io).inval.find? (fun p => decide (p.2.2 + 2 ^ 22 ≤ s.cycles))).map (fun p =>
    after (execAtsInvalidationTimeout (p.1 / 65536) (BitVec.ofNat 16 p.1) s) s)
def State.ioDue (s : State) : Option State :=
  [32, 33].findSome? (fun io =>
    if s.readsDue io then some (s.finishReads io)
    else match s.opAckDue io with
    | some t => some t
    | none =>
      if dropRevokes (s.io io).entries != (s.io io).entries then some (s.retire io)
      else if s.pageDue io then some (s.applyPage io)
      else match s.claspDue io with
      | some t => some t
      | none => s.invalDue io)

/-! Cores and dies. -/

def State.queueDue (s : State) (cid q : Nat) (x : Queue) : Option State :=
  (if x.advs.isEmpty then none else moved (execBatchDecision cid q s) s) <|>
  (if s.beginDue cid q then some (after (execEntryBegin cid q s) s)
   else (if s.engineDue cid q then moved (execEntryComplete cid q s) s else none) <|> when (s.missOf cid q).isSome (execPromiseMiss cid q s) s)
/-- After a trip every engine has stopped (24 R397). -/
def State.queuesDue (s : State) : Option State :=
  if s.tripped then none else s.cores.findSome? (fun c => c.2.queues.findSome? (fun q => s.queueDue c.1 q.1 q.2))

/-- A group's wait that ends by itself, Signet's exchange, or its release. -/
def State.groupDue (s : State) (gid : Nat) : Option State :=
  if s.exchanging gid then s.signetExchange gid
  else if s.sleepDue gid then some (after (execSleepWake gid s) s)
  else if s.wfiDue gid then some (after (execWfiDeadline gid s) s)
  else if s.xacqDue gid then some (after (execXacqGrant gid s) s)
  else if s.genbDue gid then some (after (execGenbCompletion gid s) s)
  else when (s.releaseDue gid) (execGroupRelease gid s) s

/-- The placements and restores of a turn. -/
def State.placeDue (s : State) (d : Nat) : Option State :=
  match (s.die d).turn with
  | none => none
  | some v =>
    if !s.settled d then none
    else match s.cand d (BitVec.ofNat 8 v) with
    | some (.place q _) => moved (execPlaceGang d q s) s
    | some (.restore g _) => some (after (execGangRestore g s) s)
    | _ => none
/-- Walks, resets of virtual devices, phases, stream tiles, turns and placements of a die. -/
def State.dieDue (s : State) (d : Nat) : Option State :=
  let x := s.die d
  ((List.range x.walks.length).findSome? (fun i => moved (execWalkResult d i s) s)) <|>
  (if x.vdrstat.getLsbD 63 then some (after (execVdreset d (bitsOf x.vdrstat.toNat 7 0) s) s) else none) <|>
  (if x.wires.isEmpty then none else (List.range 8).findSome? (fun w => when (s.phaseDue d w).isSome (execPhaseComplete d w s) s)) <|>
  (if x.streams.isEmpty then none else (s.wantedTile d).bind (fun k => moved (execStreamTileRead d k.1 k.2 s) s)) <|>
  (if s.turnDue d then some (after (execTurnEnd d s) s) else s.placeDue d)
/-- The dies on which something may be due; a compute die in reset or without power does nothing (24 R392, R397). -/
def State.busyDies (s : State) : List Nat :=
  (List.range 34).filter (fun d => (Tab.find s.dies d).isSome && !(s.off && decide (d < 32)))

/-! Launches. -/

def State.stealDue (s : State) (seq d : Nat) : Option State :=
  match s.steal? seq d with
  | some x => some (after (if x.answer.isNone then execStealMessage seq d s else execStealAnswer seq d s) s)
  | none => when (s.wantsSteal seq d) (execStealMessage seq d s) s
def State.launchDue (s : State) (l : Launch) : Option State :=
  if s.pollDue l then some (after (execDependencePoll l.seq s) s)
  else if s.launchDone l && (s.gather l).settled l.home then moved (execLaunchComplete l.seq s) s
  else if !l.eligible then none
  else (List.range 32).findSome? (fun d => if l.dieMask.getLsbD d || s.gangs.any (fun g => g.launch == l.seq && g.die == d) then s.stealDue l.seq d else none)
def State.launchesDue (s : State) : Option State :=
  s.rings.findSome? (fun r => if (s.copyDue r.1).isSome then moved (execLaunchCopy r.1 s) s else none) <|>
  s.wgs.findSome? (fun w => when (s.chunkDue w.1) (execChunkArrival w.1 s) s) <|>
  s.launches.findSome? s.launchDue <|>
  s.gangs.findSome? (fun g => if s.saveDue g then moved (execGangSave g.id s) s else none)

/-! Signet, switches. -/

def State.callDue (s : State) : Option State :=
  match s.call with
  | none => none
  | some (_, a, ws) =>
    match s.unknownCall with
    | some t => some t
    | none =>
      let op := if s.blockOk a then callOp (ws.getD 0 0) else 1
      some (after (if op = 1 then execCreate s else if op = 2 then execAdmit s else if op = 3 then execRelease s else if op = 4 then execWays s
        else if op = 5 then execAttest s else if op = 6 then execDestroy s else if op = 7 then execIdekey s else execEnter s) s)
def State.reductionDue (s : State) : Option State :=
  (s.reductions.findIdx? (fun x => decide (x.since + 2 ^ 16 ≤ s.cycles) && s.forwards x)).map (fun i => after (execReductionTimeout i s) s)
/-- A held reduction that has all its contributions waits for the ordering point alone. -/
def State.fullReduction (s : State) : Option State :=
  (s.reductions.find? (fun x => (match s.reduces x.r with | some (_, _, cnt) => decide (cnt ≤ x.pkgs.length) | none => false) && s.forwards x)).map s.forward

/-! The choice. -/

/-- The first of the steps that are due; Signet's start of the system firmware comes before all (23 R376). -/
def State.due (s : State) : Option State :=
  (if s.boot.isSome then some s.startFirmware else none) <|>
  s.holdDue <|>
  s.reqs.findSome? s.reqDue <|>
  s.announceDue <|>
  s.ioDue <|>
  s.queuesDue <|>
  s.passes.findSome? (fun p => when (s.passReady p) (execPassStart p.q.id s) s) <|>
  s.groups.findSome? (fun p => s.groupDue p.1) <|>
  s.busyDies.findSome? s.dieDue <|>
  s.launchesDue <|>
  s.callDue <|>
  s.fullReduction <|>
  s.reductionDue

/-- What a step does: an instruction to execute, with the state it starts from and the group that issues it with its count of issues; or a state, when it
is no instruction. -/
inductive Plan where
  | run (i : Instr) (s : State) (who : Option (Nat × Nat))
  | done (s : State)
  deriving DecidableEq, Repr

/-- A group's trap between issues, by the step of the table that it is. -/
def State.between (s : State) (gid : Nat) (b : Between) : State :=
  after (match b with
    | .report => execDeferredReport gid s
    | .integrity pa => execIntegrity gid pa s
    | .step => execStep gid s
    | .promise => execPromiseMissed gid s
    | .watchdog => execWatchdog gid s
    | .preempt => execPreempt gid s
    | .breakpoint => execBreakpoint gid s) s

/-- The turn of a group. -/
def State.planIssue (s : State) (gid : Nat) : Plan :=
  match s.turnOf gid with
  | .exec i t => .run i t (some (gid, (t.group gid).issueNo))
  | .trap b t => .done ((t.between gid b).pass 0 none)
  | .done t => .done (t.pass 4 none)

/-- The head of the agenda; without one, what is due; else the next issue; else cycles pass. -/
def State.plan (s : State) : Plan :=
  match s.agenda with
  | .event i :: r => .run i { s with agenda := r } none
  | .issue gid :: r => { s with agenda := r }.planIssue gid
  | [] =>
    match s.due with
    | some t => .done (t.pass 0 none)
    | none =>
      match s.nextGroup with
      | some gid => s.planIssue gid
      | none => .done s.idle

/-- What follows an instruction: the cycles of its issue, or of an event. -/
def State.afterRun (s : State) (i : Instr) (who : Option (Nat × Nat)) : State :=
  match who with
  | some (gid, n) => s.afterIssue i gid n
  | none => s.pass 0 none

/-! Placing an instruction where the next step fetches it. -/

/-- The group that runs next can issue: running, with a live lane, waiting for nothing. -/
def Group.runnable (g : Group) : Group :=
  let g := if g.live = 0 then { g with trap := [] }.setLane 0 { g.lane 0 with occupied := true } else g
  let g := { g with lanes := g.lanes.map (fun (p : Nat × Lane) => (p.1, { p.2 with laAt := [] })) }
  { g with status := .running, wait := .none, held := false, pend := Pend.none, walkFaults := [], resume := none, readySince := 0 }

/-- A page of the code space stands at a page of memory: the leaf in the core's own TLB (R, L, V; U for a group at level 0). -/
def codeLeaf (asid : BitVec 12) (va pa : Nat) (user : Bool) : TlbEntry :=
  { asid := asid, vbase := va / 4096 * 4096, sz := 12, leaf := BitVec.ofNat 64 (pa / 4096 * 4096 + 7 + (if user then 16 else 0)), world := 0 }

/-- Where the bytes go: local memory of die 0 above the private region. -/
def codeBase : Nat := 0x100000000

/-- The bytes stand at the issue address of the group that is current, and its next step issues. -/
def State.withFetchBytes (s : State) (bs : List Byte) : State :=
  let gid := s.cur
  let g := { (s.group gid).runnable with cgen := (s.space ((s.group gid).k.casid.toNat)).gen }
  let pc := (g.issueAddr.getD 0).toNat
  let at_ := codeBase + pc % 4096
  let e1 := codeLeaf g.k.casid pc codeBase (g.priv == 0)
  let e2 := codeLeaf g.k.casid (pc + 4096) (codeBase + 4096) (g.priv == 0)
  let k := s.core (coreOf gid)
  let x := s.die 0
  let s1 := (s.setGroup gid g).setCore (coreOf gid) { k with l1i := [], tlb := e1 :: e2 :: k.tlb, ibrk := [] }
  let s2 := s1.setDie 0 { x with clearing := x.clearing.filter (fun p => p.1 / 8 != codeBase / 8192), bad := x.bad.filter (fun p => p.1 / 32 != codeBase / 8192),
                                 owner := x.owner.filter (fun p => p.1 != codeBase / 2 ^ 21) }
  { s2.storeBytes at_ bs with off := false, tripped := false, reqs := s2.reqs.filter (fun r => !(r.gid == gid && (match r.dst with | .lc _ => true | _ => false))),
                              agenda := .issue gid :: s.agenda }

end Sys2Proof.Machine
end

