-- ==== Sys2Proof/Machine/Step.lean ====
section
/-!
DEFINITION. One step of the machine, and placing an instruction where the next step fetches it.
-/

namespace Sys2Proof.Machine

/-- A step: what the plan says. -/
def step (s : State) : Host.Outcome State Fault Refusal :=
  match s.plan with
  | .run i t who =>
    match exec i t with
    | .next u => .next (u.afterRun i who)
    | .fault f => .fault f
    | .refused r => .refused r
  | .done t => .next t

/-- The instruction of word w stands where the next step fetches, in 20 bytes, the longest instruction's. -/
def State.withFetchWord (s : State) (nbits w : Nat) : State := s.withFetchBytes (bytesLE 20 (w % 2 ^ nbits))

end Sys2Proof.Machine
end

