-- ==== Sys2Proof/Safety.lean ====
section
/-!
DEFINITION. The terms in which statements are made: what may change in one group and what may not, what an issue that computes leaves behind,
and the invariant of a well-kept machine.
-/

namespace Sys2Proof.Machine

/-- Nothing outside one group differs: no byte of memory, no other group, no core, die, cache, queue or request. -/
def State.OnlyGroup (s t : State) (gid : Nat) : Prop := t = s.setGroup gid (t.group gid)

/-- A group without its lanes, registers with their errors, dead bits, slots and the bookkeeping of its issues. -/
def Group.frame (g : Group) : Group :=
  { g with lanes := [], v := [], tag := [], dead := [], oc := [], badReg := [], looksAgain := false, blocked := false, lastIssue := 0, readySince := 0, issueNo := 0, faulted := false, walkFaults := [], resume := none,
           pend := Pend.none }

/-- GSW, extended block, full/empty bits, trap registers, counters, identifiers, wait and status are as before. -/
def Group.Keeps (g h : Group) : Prop := h.frame = g.frame

/-- The lane holds the same item in the same generation. -/
def Lane.Same (x y : Lane) : Prop := y.occupied = x.occupied ∧ y.gen = x.gen ∧ y.item = x.item ∧ y.itemy = x.itemy ∧ y.itemz = x.itemz

/-- The operand names register r among its n registers. -/
def Opnd.names (d : Opnd) (n r : Nat) : Bool := match d with | .v k => decide (k.val ≤ r) && decide (r < k.val + n) | _ => false

/-- A source with its dead bit set names the register. -/
def killedBy (srcs : List Src) (r : Nat) : Bool := srcs.any (fun s => s.dead && Opnd.names s.o s.n r)

/-- A destination holds a value in a lane, 02 R21, R31: a register, a pair (low register first), a loop counter of a lane outside every loop. -/
def Group.Holds (h : Group) (old : Lane) (l : Nat) (dk : Dst) (d : Opnd) (val : Nat) : Prop :=
  match dk, d with
  | .w32, .v k => h.reg l k.val = BitVec.ofNat 32 val
  | .w64, .v k => h.reg l k.val = BitVec.ofNat 32 val ∧ h.reg l (k.val + 1) = BitVec.ofNat 32 (val / 2 ^ 32)
  | .w32, .lc k => old.loops = [] → Tab.get 0 (h.lane l).lc k.val = BitVec.ofNat 32 val
  | _, _ => True

/-- The latches of a lane have shifted and la0 holds a valid result, or they are as before (02 R24). -/
def Lane.Latched (x y : Lane) (v : Option DWord) : Prop :=
  match v with
  | some v => Tab.get 0 y.la 0 = v ∧ (∀ n, n < 3 → Tab.get 0 y.la (n + 1) = Tab.get 0 x.la n) ∧ y.laOk = (x.laOk <<< 1) ||| 1#4
  | none => y.la = x.la ∧ y.laOk = x.laOk

/-- A result as a latch takes it: zero-extended to 64 bits (02 R24). -/
def Dst.whole (dk : Dst) (val : Nat) : DWord := match dk with | .w64 => BitVec.ofNat 64 val | _ => (BitVec.ofNat 32 val).zeroExtend 64

/-- Every slot keeps its register and its valid bit; a valid one that mirrors a register of D holds that register's new value in the lanes of p, and every
slot is otherwise as before (02 R25). -/
def Group.Mirrors (g h : Group) (p : Mask) (dk : Dst) (d : Opnd) : Prop :=
  ∀ n, (h.slot n).valid = (g.slot n).valid ∧ (h.slot n).reg = (g.slot n).reg ∧
    ∀ l, Tab.get 0 (h.slot n).vals l =
      if ((g.slot n).valid && p.has l && Opnd.names d dk.n (g.slot n).reg) = true then h.reg l (g.slot n).reg else Tab.get 0 (g.slot n).vals l

/-- The issue `c` of a form that computes lane by lane in the lanes of p has taken `s` to `t`: each of them holds its value in D and its predicates and
flags, and every other register, predicate and flag is as before, a register that a dead source names apart: it reads as zero. The latches of those lanes
shift when the form's result is a vector result (`latch`), no others; a slot changes with its register alone; a lane outside every loop keeps every loop
counter but D. Nothing outside the group changes. -/
structure Computed (s t : State) (c : Ctx) (p : Mask) (srcs : List Src) (dk : Dst) (d : Opnd) (eff : Nat → Eff) (latch : Bool := dk != .none) : Prop where
  only : s.OnlyGroup t c.gid
  keeps : c.g.Keeps (t.group c.gid)
  value : ∀ l, p.has l = true → (t.group c.gid).Holds (c.g.lane l) l dk d (eff l).val
  others : ∀ l r, l < 32 → (p.has l && Opnd.names d dk.n r) = false →
    (t.group c.gid).reg l r = if c.en ≠ 0 ∧ killedBy srcs r = true then 0 else c.g.reg l r
  preds : ∀ l n, ((t.group c.gid).lane l).pred n =
    (if p.has l = true then ((eff l).preds.foldl (fun x q => Lane.setPred x q.1 q.2) (c.g.lane l)).pred n else (c.g.lane l).pred n)
  flags : ∀ l, ((t.group c.gid).lane l).fflag = if p.has l = true then (c.g.lane l).fflag ||| (eff l).fl else (c.g.lane l).fflag
  items : ∀ l, (c.g.lane l).Same ((t.group c.gid).lane l)
  pcs : ∀ l, (c.g.lane l).loops = [] → ((t.group c.gid).lane l).pc = if c.at_.has l = true then c.next else (c.g.lane l).pc
  latches : ∀ l, (c.g.lane l).Latched ((t.group c.gid).lane l) (if (p.has l && latch) = true then some (dk.whole (eff l).val) else none)
  slots : c.g.Mirrors (t.group c.gid) p dk d
  counters : ∀ l, (c.g.lane l).loops = [] → ((t.group c.gid).lane l).loops = [] ∧
    ∀ n, (p.has l = true → dk = .w32 → ∀ k, d = .lc k → k.val ≠ n) → Tab.get 0 ((t.group c.gid).lane l).lc n = Tab.get 0 (c.g.lane l).lc n
  issues : (t.group c.gid).issueNo = c.g.issueNo + 1

/-- The instruction's issue passes the checks of its sources and destination (02 R31): bounds, full bits, latches and slots. -/
def State.Passes (s : State) (i : Instr) (x : Ext) (srcs : List Src) (d : Opnd) (n : Nat) : Prop := (s.ctx i x).chk srcs d n = .ok

/-- The instruction completes from every state in which its checks pass: each enabled lane's D takes the value that `eff` gives from the sources. -/
def Completes (s : State) (i : Instr) (x : Ext) (srcs : List Src) (dk : Dst) (d : Opnd) (eff : Ctx → Nat → Eff) (latch : Bool := dk != .none) : Prop :=
  s.Passes i x srcs d dk.n → ∃ t, exec i s = .next t ∧ Computed s t (s.ctx i x) (s.ctx i x).en srcs dk d (eff (s.ctx i x)) latch


/-- A cross-lane form completes when its mask passes and its sources pass in the participants: each participant's D takes its value (08 R147). -/
def CompletesOn (s : State) (i : Instr) (x : Ext) (srcs : List Src) (dk : Dst) (eff : Ctx → Mask → Nat → Eff) : Prop :=
  let c := s.ctx i x
  let p := c.parts x.c
  let cm := if x.c = .none then [] else [x.srcC 1]
  c.chk cm .none 0 = .ok → ({ c with en := p }).chk srcs x.d dk.n = .ok → c.maskChk x.c = none →
    ∃ t, exec i s = .next t ∧ Computed s t c p (srcs ++ cm) dk x.d (eff c p)

/-- The issue has moved the lanes of `moved` to their targets and written a link to them; the rest of the lanes at the instruction go on behind it. No latch
shifts (02 R24), a slot changes with its register alone (R25), and a lane that moved or is outside every loop keeps its loop counters. -/
structure Transferred (s t : State) (c : Ctx) (moved : Mask) (tgt : Nat → DWord) (srcs : List Src) (dk : Dst) (d : Opnd) (link : Nat) : Prop where
  only : s.OnlyGroup t c.gid
  keeps : c.g.Keeps (t.group c.gid)
  there : ∀ l, moved.has l = true → ((t.group c.gid).lane l).pc = tgt l ∧ ((t.group c.gid).lane l).loops = (c.g.lane l).loops
  here : ∀ l, moved.has l = false → (c.g.lane l).loops = [] → ((t.group c.gid).lane l).pc = if c.at_.has l = true then c.next else (c.g.lane l).pc
  linked : ∀ l, moved.has l = true → (t.group c.gid).Holds (c.g.lane l) l dk d link
  others : ∀ l r, l < 32 → (moved.has l && Opnd.names d dk.n r) = false →
    (t.group c.gid).reg l r = if c.en ≠ 0 ∧ killedBy srcs r = true then 0 else c.g.reg l r
  preds : ∀ l n, ((t.group c.gid).lane l).pred n = (c.g.lane l).pred n
  flags : ∀ l, ((t.group c.gid).lane l).fflag = (c.g.lane l).fflag
  items : ∀ l, (c.g.lane l).Same ((t.group c.gid).lane l)
  latches : ∀ l, (c.g.lane l).Latched ((t.group c.gid).lane l) none
  slots : c.g.Mirrors (t.group c.gid) moved dk d
  counters : ∀ l, (moved.has l = true ∨ (c.g.lane l).loops = []) → ((t.group c.gid).lane l).lc = (c.g.lane l).lc ∧
    ((t.group c.gid).lane l).loops = (c.g.lane l).loops
  issues : (t.group c.gid).issueNo = c.g.issueNo + 1

/-- The requests that a step has added. -/
def State.added (s t : State) : List Req := t.reqs.drop s.reqs.length

/-- The issue advanced: it counts as one, and the lanes at the instruction go on behind it. -/
def Advanced (t : State) (c : Ctx) : Prop :=
  (t.group c.gid).issueNo = c.g.issueNo + 1 ∧ ∀ l, (c.g.lane l).loops = [] → ((t.group c.gid).lane l).pc = if c.at_.has l = true then c.next else (c.g.lane l).pc

/-- The registers of a destination of w bytes are empty, every other as before (02 R28). -/
def MarkedEmpty (t : State) (c : Ctx) (d : Opnd) (w : Nat) : Prop :=
  ∀ r, (t.group c.gid).isEmpty r = (Opnd.names d (regsOfBytes w) r || c.g.isEmpty r)

/-- Registers as before, but for the dead sources, which read as zero. -/
def RegsKept (t : State) (c : Ctx) (srcs : List Src) : Prop :=
  ∀ l r, l < 32 → (t.group c.gid).reg l r = if killedBy srcs r = true then 0 else c.g.reg l r

/-- A request has brought `res`: it is gone, each member lane of the same generation holds its value in the destination, whose registers are full when
no other request is on its way to them; memory is as before (02 R28, 07 R133). -/
def Delivered (s t : State) (r : Req) (res : List (Nat × BitVec 128)) : Prop :=
  t.mem = s.mem ∧ t.req? r.id = none ∧ ∀ k, r.dst = .v k →
    ((∀ m ∈ r.members, m.lane < 32) → (r.members.map Member.lane).Nodup → ∀ m ∈ r.members, ((s.group r.gid).lane m.lane).gen = m.gen →
      ∀ v, Tab.find res m.lane = some v → ∀ i < regsOfBytes r.width, (t.group r.gid).reg m.lane (k.val + i) = (v >>> (32 * i)).truncate 32) ∧
    ∀ i < regsOfBytes r.width, (∀ q ∈ s.reqs, q.id ≠ r.id → q.gid = r.gid → q.covers (k.val + i) = false) → (t.group r.gid).isEmpty (k.val + i) = false

/-- A trap has been taken: the first level from the routed one upward whose trap is not in progress holds the cause, address, lanes and PC, and the deferred
report if it is one; no register of any lane, no byte of memory and no other group has changed (18 R323, R324, R328). -/
def State.TookTrap (s t : State) (gid cause : Nat) (addr : DWord) (lanes : Mask) (pc : DWord) (defr : Option (DWord × Mask)) (pr : Bool := false) : Prop :=
  let g := s.group gid
  let h := t.group gid
  let m := s.trapLevel gid cause pr
  ∀ n, m ≤ n → n < 4 → g.act n = false → (∀ k, m ≤ k → k < n → g.act k = true) → (isSystem gid = false ∨ g.world = 0 ∨ n ≠ 2) →
    (h.tr n).cause.toNat = cause % 256 ∧ (h.tr n).addr = addr ∧ (h.tr n).lanes = lanes ∧ (h.tr n).pc = pc ∧ h.act n = true ∧ h.priv = n ∧
    (h.tr n).tstat.getLsbD 3 = defr.isSome ∧ (∀ d, defr = some d → (h.tr n).dpc = d.1 ∧ (h.tr n).dlanes = d.2) ∧
    (∀ l r, l < 32 → h.reg l r = g.reg l r) ∧ t.mem = s.mem ∧ ∀ k, k ≠ gid → t.group k = s.group k

/-- A trap of kind A: at the issue address, with the lanes there (18 R326). -/
def State.TookKindA (s t : State) (gid : Nat) (pc : DWord) (cause : Nat) (addr : DWord) (defr : Option (DWord × Mask)) (pr : Bool := false) : Prop :=
  s.TookTrap t gid cause addr ((s.group gid).atPc pc) pc defr pr

/-- A byte of a slice of HBM4E that holds the tags of sealed sectors, 23 R385. -/
def tagByte (b : Nat) : Bool := decide (b < 0x020000000000) && decide (0x04000000 ≤ b % 2 ^ 36) && decide (b % 2 ^ 36 < 0x80000000)

/-- Memory reads as before outside n bytes at an address. Where the memory of a world is sealed, a sector that leaves the caches on the way writes its tag
(11 R214, 23 R385): of the bytes that hold tags nothing is said then. -/
def State.SameBytesBut (s t : State) (a n : Nat) : Prop :=
  ∀ b, b < a ∨ a + n ≤ b → (tagByte b = false ∨ ∀ x, s.sealedAt x = none) → t.byteAt b = s.byteAt b

/-- Memory reads as before, the tags of sealed sectors apart. -/
def State.SameButTags (s t : State) : Prop := s.SameBytesBut t 0 0

/-- The requests into which an access of n bytes goes: the two halves of a 16-byte access to memory, 12 R229. -/
def accParts (n : Nat) (dev : Bool) : List (Nat × Nat) := if n = 16 ∧ dev = false then [(0, 8), (8, 8)] else [(0, n)]

/-- The data of a part of an n-byte access: the access's own, or the half at the part's offset. -/
def partData (n : Nat) (p : Nat × Nat) (d : BitVec 128) : BitVec 128 := if p.2 = n then d else (d >>> (8 * p.1)) &&& 0xFFFFFFFFFFFFFFFF#128

end Sys2Proof.Machine
end

