-- ==== Sys2Proof/Certificates/Slice0/Obligations.lean ====
section
/-!
DEFINITION. The statements for the provers. Each one's docstring names the rules of spec/ it formalises.
Every instruction's completion is a conclusion `exec … = .next t` under hypotheses on the state and the operands alone.
-/

open Sys2Proof Sys2Proof.Machine

/-! Integers, logic and predicates. -/

/-- 05 R80: MOV and MOV64 copy bits, SEL copies A where the named predicate, turned over by IMM[3], is 1, and B elsewhere. In the enabled lanes the latches
shift and take the result (02 R24), and a slot that mirrors a register of D takes its new value (R25); nothing else changes but dead sources and the PCs. -/
def Obligations.MovesCopyTheirSource : Prop := ∀ s : State,
  (∀ d a, let x := Ext.ofBase 0x02 d a .none; Completes s (.mov d a) x [x.srcA 1] .w32 d (fun c l => .v (c.rd32 l a).toNat)) ∧
  (∀ x, Completes s (.movX x) x [x.srcA 1] .w32 x.d (fun c l => .v (c.rd32 l x.a).toNat)) ∧
  (∀ x, Completes s (.mov64 x) x [x.srcA 2] .w64 x.d (fun c l => .v (c.rd64 l x.a).toNat)) ∧
  (∀ x, Completes s (.sel x) x [x.srcA 1, x.srcB 1] .w32 x.d (fun c l =>
    .v (if (c.g.lane l).pred (x.imm % 8) = !bitAt x.imm 3 then c.rd32 l x.a else c.rd32 l x.b).toNat))

/-- 05 R81, R82, 02 R24, R25: MOVX reads, and MOVXW writes, the lane's copy of the register numbered by the base field plus the lane's index. While every enabled lane's
number lies below the bound and the registers named are full and sound, they complete; a number at or above the bound traps REG_BOUND in the failing lanes. -/
def Obligations.IndexedMovesUseTheLanesIndex : Prop := ∀ (s : State) (x : Ext),
  (let c := s.ctx (.movx x) x
   let k := fun l => x.a.code + (c.rd32 l x.b).toNat
   c.chkBounds [x.b, x.d] = .ok → c.chk [x.srcB 1] .none 0 = .ok →
   ((∀ l, c.en.has l = true → k l < c.g.bound ∧ c.g.isEmpty (k l) = false ∧ c.g.chkCopy l (k l) = .ok) → c.chk [x.srcB 1] x.d 1 = .ok →
     ∃ t, exec (.movx x) s = .next t ∧ Computed s t c c.en [x.srcB 1] .w32 x.d (fun l => .v (c.g.reg l (k l)).toNat)) ∧
   (∀ l, (c.overBound k).first = some l → exec (.movx x) s = .next (s.trapAt c cRegBound (c.overBound k) (BitVec.ofNat 64 (k l))))) ∧
  (let c := s.ctx (.movxw x) x
   let k := fun l => x.d.code + (c.rd32 l x.a).toNat
   c.chkBounds [x.a, x.b] = .ok → c.chk [x.srcA 1] .none 0 = .ok →
   ((∀ l, c.en.has l = true → k l < c.g.bound ∧ c.g.isEmpty (k l) = false) → c.chk [x.srcB 1] .none 0 = .ok →
     ∃ t, exec (.movxw x) s = .next t ∧ s.OnlyGroup t c.gid ∧ c.g.Keeps (t.group c.gid) ∧
       (∀ l r, l < 32 → (t.group c.gid).reg l r = if c.en.has l = true ∧ r = k l then c.rd32 l x.b
         else if c.en ≠ 0 ∧ killedBy [x.srcA 1, x.srcB 1] r = true then 0 else c.g.reg l r) ∧
       (∀ l, (c.g.lane l).Latched ((t.group c.gid).lane l) (if c.en.has l = true then some ((c.rd32 l x.b).zeroExtend 64) else none)) ∧
       (∀ n, ((t.group c.gid).slot n).valid = (c.g.slot n).valid ∧ ((t.group c.gid).slot n).reg = (c.g.slot n).reg ∧ ∀ l, Tab.get 0 ((t.group c.gid).slot n).vals l =
         if (c.g.slot n).valid = true ∧ c.en.has l = true ∧ (c.g.slot n).reg = k l then c.rd32 l x.b else Tab.get 0 (c.g.slot n).vals l) ∧
       (∀ l, ((t.group c.gid).lane l).p = (c.g.lane l).p ∧ ((t.group c.gid).lane l).fflag = (c.g.lane l).fflag ∧
         ((c.g.lane l).loops = [] → ((t.group c.gid).lane l).lc = (c.g.lane l).lc)) ∧ Advanced t c) ∧
   (∀ l, (c.overBound k).first = some l → exec (.movxw x) s = .next (s.trapAt c cRegBound (c.overBound k) (BitVec.ofNat 64 (k l)))))

/-- 05 R83, R84: the exact integer of the operands, each read as an integer of the form's type, wrapped or clamped once and extended to 32 bits. 04 R55, R56:
what is written is extended to the destination's width, reads back in the type's range, equals the exact result when that fits, and is congruent to it modulo
2^w when it wraps or the nearest bound when SAT clamps it. -/
def Obligations.IntegerFormsComputeExactly : Prop :=
  (∀ s : State,
    (∀ d a b, let x := Ext.ofBase 0x03 d a b; Completes s (.iadd d a b) x [x.srcA 1, x.srcB 1] .w32 d (fun c l => .v (c.rd32 l a + c.rd32 l b).toNat)) ∧
    (∀ d a b, let x := Ext.ofBase 0x04 d a b; Completes s (.isub d a b) x [x.srcA 1, x.srcB 1] .w32 d (fun c l => .v (c.rd32 l a - c.rd32 l b).toNat)) ∧
    (∀ d a b, let x := Ext.ofBase 0x05 d a b; Completes s (.imul d a b) x [x.srcA 1, x.srcB 1] .w32 d (fun c l => .v (c.rd32 l a * c.rd32 l b).toNat)) ∧
    (∀ d a b, let x := Ext.ofBase 0x06 d a b; Completes s (.imin d a b) x [x.srcA 1, x.srcB 1] .w32 d
      (fun c l => .v (if (c.rd32 l a).sle (c.rd32 l b) then c.rd32 l a else c.rd32 l b).toNat)) ∧
    ∀ x : Ext,
      let two := fun (i : Instr) (f : Int → Int → Int) => Completes s i x [x.srcA 1, x.srcB 1] .w32 x.d (fun c l =>
        .v (x.dty.intResult x.sat (f (x.dty.readInt (c.rd32 l x.a).toNat) (x.dty.readInt (c.rd32 l x.b).toNat))))
      let one := fun (i : Instr) (f : Int → Int) => Completes s i x [x.srcA 1] .w32 x.d (fun c l =>
        .v (x.dty.intResult x.sat (f (x.dty.readInt (c.rd32 l x.a).toNat))))
      two (.iaddX x) (fun a b => a + b) ∧ two (.isubX x) (fun a b => a - b) ∧ two (.imulX x) (fun a b => a * b) ∧
      two (.imulh x) (fun a b => a * b / 2 ^ 32) ∧ two (.iminX x) min ∧ two (.imax x) max ∧
      one (.ineg x) (fun a => 0 - a) ∧ one (.iabs x) (fun a => if a < 0 then -a else a) ∧
      Completes s (.imad x) x [x.srcA 1, x.srcB 1, x.srcC 1] .w32 x.d (fun c l =>
        .v (x.dty.intResult x.sat (x.dty.readInt (c.rd32 l x.a).toNat * x.dty.readInt (c.rd32 l x.b).toNat + x.dty.readInt (c.rd32 l x.c).toNat)))) ∧
  (∀ (t : Ty) (sat : Bool) (r : Int),
    let w := t.intWidth
    let v := t.readInt (t.intResult sat r)
    t.intResult sat r < 2 ^ (if w = 64 then 64 else 32) ∧ t.minInt ≤ v ∧ v ≤ t.maxInt ∧
    (t.minInt ≤ r → r ≤ t.maxInt → v = r) ∧ (sat = false → v % 2 ^ w = r % 2 ^ w) ∧
    (sat = true → (r < t.minInt → v = t.minInt) ∧ (t.maxInt < r → v = t.maxInt)) ∧
    (if t.signed then toSigned (if w = 64 then 64 else 32) (t.intResult sat r) = v else ((t.intResult sat r : Nat) : Int) = v))

/-- 05 R84, R86: the 64-bit forms wrap modulo 2^64; LEA adds an index extended by its type and shifted. 05 R85: IADDC and ISUBB read the carry-in before they
write the carry-out, which comes from the exact result. -/
def Obligations.WideAndCarryForms : Prop :=
  (∀ (s : State) (x : Ext),
    let wide := fun (i : Instr) (f : DWord → DWord → DWord) => Completes s i x [x.srcA 2, x.srcB 2] .w64 x.d (fun c l => .v (f (c.rd64 l x.a) (c.rd64 l x.b)).toNat)
    wide (.iadd64 x) (fun a b => a + b) ∧ wide (.isub64 x) (fun a b => a - b) ∧
    Completes s (.imad64 x) x [x.srcA 2, x.srcB 2, x.srcC 2] .w64 x.d (fun c l => .v (c.rd64 l x.a * c.rd64 l x.b + c.rd64 l x.c).toNat) ∧
    Completes s (.lea x) x [x.srcA 2, x.srcB 1] .w64 x.d (fun c l =>
      .v (c.rd64 l x.a + ((if x.dty = .u32 then (c.rd32 l x.b).zeroExtend 64 else if x.dty = .s32 ∨ x.dty = .dflt then (c.rd32 l x.b).signExtend 64
        else BitVec.ofInt 64 (x.dty.readInt (c.rd32 l x.b).toNat)) <<< (x.imm % 8))).toNat) ∧
    Completes s (.imulw x) x [x.srcA 1, x.srcB 1] .w64 x.d (fun c l =>
      .v (BitVec.ofInt 64 (x.dty.readInt (c.rd32 l x.a).toNat * x.dty.readInt (c.rd32 l x.b).toNat)).toNat) ∧
    Completes s (.imadw x) x [x.srcA 1, x.srcB 1, x.srcC 2] .w64 x.d (fun c l =>
      .v (BitVec.ofInt 64 (x.dty.readInt (c.rd32 l x.a).toNat * x.dty.readInt (c.rd32 l x.b).toNat) + c.rd64 l x.c).toNat)) ∧
  (∀ (s : State) (x : Ext),
    let ci := fun (c : Ctx) l => if bitAt x.imm 3 then 0 else ((c.g.lane l).pred (x.imm % 8)).toNat
    Completes s (.iaddc x) x [x.srcA 1, x.srcB 1] .w32 x.d (fun c l =>
      let r := (c.rd32 l x.a).toNat + (c.rd32 l x.b).toNat + ci c l
      ⟨if x.sat = true ∧ 2 ^ 32 ≤ r then 2 ^ 32 - 1 else r % 2 ^ 32, [(x.imm / 16 % 8, decide (2 ^ 32 ≤ r))], 0⟩) ∧
    Completes s (.isubb x) x [x.srcA 1, x.srcB 1] .w32 x.d (fun c l =>
      let a := (c.rd32 l x.a).toNat
      let b := (c.rd32 l x.b).toNat + ci c l
      ⟨if a < b then (if x.sat then 0 else 2 ^ 32 + a - b) else a - b, [(x.imm / 16 % 8, decide (a < b))], 0⟩))

/-- 05 R87: the logic forms, bit by bit. -/
def Obligations.LogicFormsWorkBitByBit : Prop := ∀ s : State,
  let bits := fun (f : Bool → Bool → Bool) (a b : Word) => (maskOf (fun i => f (a.getLsbD i) (b.getLsbD i))).toNat
  (∀ d a b, let x := Ext.ofBase 0x07 d a b; Completes s (.and d a b) x [x.srcA 1, x.srcB 1] .w32 d (fun c l => .v (bits (fun p q => p && q) (c.rd32 l a) (c.rd32 l b)))) ∧
  (∀ d a b, let x := Ext.ofBase 0x08 d a b; Completes s (.or d a b) x [x.srcA 1, x.srcB 1] .w32 d (fun c l => .v (bits (fun p q => p || q) (c.rd32 l a) (c.rd32 l b)))) ∧
  (∀ d a b, let x := Ext.ofBase 0x09 d a b; Completes s (.xor d a b) x [x.srcA 1, x.srcB 1] .w32 d (fun c l => .v (bits (fun p q => p != q) (c.rd32 l a) (c.rd32 l b)))) ∧
  ∀ x : Ext,
    let two := fun (i : Instr) (f : Bool → Bool → Bool) => Completes s i x [x.srcA 1, x.srcB 1] .w32 x.d (fun c l => .v (bits f (c.rd32 l x.a) (c.rd32 l x.b)))
    two (.andX x) (fun p q => p && q) ∧ two (.andn x) (fun p q => p && !q) ∧ two (.orX x) (fun p q => p || q) ∧ two (.xorX x) (fun p q => p != q) ∧
    Completes s (.not x) x [x.srcA 1] .w32 x.d (fun c l => .v (2 ^ 32 - 1 - (c.rd32 l x.a).toNat)) ∧
    Completes s (.bfun x) x [x.srcA 1, x.srcB 1, x.srcC 1] .w32 x.d (fun c l =>
      .v (maskOf (fun i => bitAt x.imm (((c.rd32 l x.a).getLsbD i).toNat + 2 * ((c.rd32 l x.b).getLsbD i).toNat + 4 * ((c.rd32 l x.c).getLsbD i).toNat))).toNat)

/-- 05 R87: shifts multiply or divide by a power of two, with counts at or above the width giving 0 or copies of the sign; ROTL and the funnel shifts take
their counts modulo 32. -/
def Obligations.ShiftsScaleByPowersOfTwo : Prop := ∀ s : State,
  (∀ d a b, let x := Ext.ofBase 0x0A d a b; Completes s (.shl d a b) x [x.srcA 1, x.srcB 1] .w32 d
    (fun c l => .v ((c.rd32 l a).toNat * 2 ^ (c.rd32 l b).toNat % 2 ^ 32))) ∧
  (∀ d a b, let x := Ext.ofBase 0x0B d a b; Completes s (.shr d a b) x [x.srcA 1, x.srcB 1] .w32 d (fun c l => .v ((c.rd32 l a).toNat / 2 ^ (c.rd32 l b).toNat))) ∧
  ∀ x : Ext,
    let two := fun (i : Instr) (f : Word → Nat → Nat) => Completes s i x [x.srcA 1, x.srcB 1] .w32 x.d (fun c l => .v (f (c.rd32 l x.a) (c.rd32 l x.b).toNat))
    let wide := fun (i : Instr) (f : DWord → Nat → Nat) => Completes s i x [x.srcA 2, x.srcB 1] .w64 x.d (fun c l => .v (f (c.rd64 l x.a) (c.rd32 l x.b).toNat))
    let fun3 := fun (i : Instr) (f : Nat → Nat → Nat) => Completes s i x [x.srcA 1, x.srcB 1, x.srcC 1] .w32 x.d (fun c l =>
      .v (f ((c.rd32 l x.a).toNat * 2 ^ 32 + (c.rd32 l x.b).toNat) ((c.rd32 l x.c).toNat % 32)))
    two (.shlX x) (fun a n => a.toNat * 2 ^ n % 2 ^ 32) ∧ two (.shrX x) (fun a n => a.toNat / 2 ^ n) ∧
    two (.sar x) (fun a n => (BitVec.ofInt 32 (a.toInt / 2 ^ n)).toNat) ∧
    wide (.shl64 x) (fun a n => a.toNat * 2 ^ n % 2 ^ 64) ∧ wide (.shr64 x) (fun a n => a.toNat / 2 ^ n) ∧
    wide (.sar64 x) (fun a n => (BitVec.ofInt 64 (a.toInt / 2 ^ n)).toNat) ∧
    two (.rotl x) (fun a n => (maskOf (fun i => a.getLsbD ((i + 32 - n % 32) % 32))).toNat) ∧
    fun3 (.fshl x) (fun ab n => ab * 2 ^ n / 2 ^ 32 % 2 ^ 32) ∧ fun3 (.fshr x) (fun ab n => ab / 2 ^ n % 2 ^ 32)

/-- 05 R88: with position p and effective length e, BFX reads bits p to p + e - 1 (sign-extended unless .u32), BFI replaces them, BMSK marks them. 05 R87,
R89: the counts, the reversal, and the bytes that BYTEP chooses. -/
def Obligations.BitFieldsCountsAndPermutes : Prop :=
  (∀ s : State,
    let pos := fun (ctl : Word) => ctl.toNat % 32
    let e := fun (ctl : Word) => min (min (ctl.toNat / 2 ^ 8 % 64) 32) (32 - pos ctl)
    let inside := fun (ctl : Word) (i : Nat) => decide (pos ctl ≤ i) && decide (i < pos ctl + e ctl)
    let field := fun (signed : Bool) (a ctl : Word) => (maskOf (fun i =>
      if i < e ctl then a.getLsbD (pos ctl + i) else signed && decide (0 < e ctl) && a.getLsbD (pos ctl + e ctl - 1))).toNat
    (∀ d a b, let x := Ext.ofBase 0x0C d a b; Completes s (.bfx d a b) x [x.srcA 1, x.srcB 1] .w32 d (fun c l => .v (field true (c.rd32 l a) (c.rd32 l b)))) ∧
    ∀ x : Ext,
      Completes s (.bfxX x) x [x.srcA 1, x.srcB 1] .w32 x.d (fun c l => .v (field (x.dty != .u32) (c.rd32 l x.a) (c.rd32 l x.b))) ∧
      Completes s (.bfi x) x [x.srcA 1, x.srcB 1, x.srcC 1] .w32 x.d (fun c l =>
        let ctl := c.rd32 l x.b
        .v (maskOf (fun i => if inside ctl i then (c.rd32 l x.a).getLsbD (i - pos ctl) else (c.rd32 l x.c).getLsbD i)).toNat) ∧
      Completes s (.bmsk x) x [x.srcA 1] .w32 x.d (fun c l => .v (maskOf (inside (c.rd32 l x.a))).toNat)) ∧
  (∀ s : State,
    (∀ d a, let x := Ext.ofBase 0x0D d a .none; Completes s (.popc d a) x [x.srcA 1] .w32 d (fun c l => .v (laneList.countP (fun i => (c.rd32 l a).getLsbD i)))) ∧
    ∀ x : Ext,
      let one := fun (i : Instr) (f : Word → Nat) => Completes s i x [x.srcA 1] .w32 x.d (fun c l => .v (f (c.rd32 l x.a)))
      one (.popcX x) (fun a => laneList.countP (fun i => a.getLsbD i)) ∧
      one (.clz x) (fun a => (laneList.reverse.takeWhile (fun i => !a.getLsbD i)).length) ∧
      one (.ctz x) (fun a => (laneList.takeWhile (fun i => !a.getLsbD i)).length) ∧
      one (.brev x) (fun a => (maskOf (fun i => a.getLsbD (31 - i))).toNat) ∧
      Completes s (.bytep x) x [x.srcA 1, x.srcB 1, x.srcC 1] .w32 x.d (fun c l =>
        let pool := fun n => if n < 4 then (c.rd32 l x.a).toNat / 2 ^ (8 * n) % 256 else (c.rd32 l x.b).toNat / 2 ^ (8 * (n - 4)) % 256
        let byte := fun i =>
          let sel := (c.rd32 l x.c).toNat / 2 ^ (8 * i)
          let v := pool (sel % 8)
          if sel / 8 % 4 = 0 then v else if sel / 8 % 4 = 1 then 0 else if sel / 8 % 4 = 2 then (if 128 ≤ v then 255 else 0) else 255
        .v (byte 0 + byte 1 * 2 ^ 8 + byte 2 * 2 ^ 16 + byte 3 * 2 ^ 24)))

/-- 05 R90, R44: compares write the predicate that D names; PLOP reads entry 4A + 2B + C of its table. 05 R95, R96: a compare with a NaN holds for `ne` alone;
FCLASS tests the bit of B that the class of A numbers. -/
def Obligations.ComparesWritePredicates : Prop :=
  (∀ s : State,
    (∀ d a b, let x := Ext.ofBase 0x0E d a b; Completes s (.icmp d a b) x [x.srcA 1, x.srcB 1] .none .none
      (fun c l => .p d.code (decide (c.rd32 l a = c.rd32 l b)) 0)) ∧
    ∀ x : Ext,
      let rel := fun (a b : Int) => match x.imm with
        | 0 => decide (a = b) | 1 => decide (a ≠ b) | 2 => decide (a < b) | 3 => decide (a ≤ b) | 4 => decide (b < a) | _ => decide (b ≤ a)
      Completes s (.icmpX x) x [x.srcA 1, x.srcB 1] .none .none (fun c l =>
        .p x.d.code (rel (x.dty.readInt (c.rd32 l x.a).toNat) (x.dty.readInt (c.rd32 l x.b).toNat)) 0) ∧
      Completes s (.icmp64 x) x [x.srcA 2, x.srcB 2] .none .none (fun c l =>
        .p x.d.code (if x.dty = .u64 then rel (c.rd64 l x.a).toNat (c.rd64 l x.b).toNat else rel (c.rd64 l x.a).toInt (c.rd64 l x.b).toInt) 0) ∧
      Completes s (.plop x) x [] .none .none (fun c l =>
        .p x.d.code (bitAt x.imm (4 * ((c.g.lane l).pred x.a.code).toNat + 2 * ((c.g.lane l).pred x.b.code).toNat + ((c.g.lane l).pred x.c.code).toNat)) 0)) ∧
  (∀ s : State,
    let cmp := fun (i : Instr) (x : Ext) => Completes s i x [x.srcA (regsOf x.dty), x.srcB (regsOf x.dty)] .none .none (fun c l =>
      let a := x.dty.fmt.decode (c.rd l x.dty.wide x.a)
      let b := x.dty.fmt.decode (c.rd l x.dty.wide x.b)
      let nan := a.isNan || b.isNan
      .p x.d.code (if nan then x.imm == 1 else condHolds x.imm (a.lt b) (a.eqNum b))
        (if (if x.imm ≤ 1 then a.isSnan || b.isSnan else nan) then Fl.nv else 0))
    (∀ d a b, cmp (.fcmp d a b) (Ext.ofBase 0x14 d a b)) ∧ ∀ x : Ext, cmp (.fcmpX x) x ∧
      Completes s (.fclass x) x [x.srcA (regsOf x.dty), x.srcB 1] .none .none (fun c l =>
        .p x.d.code ((c.rd32 l x.b).getLsbD (x.dty.fmt.classOf (c.rd l x.dty.wide x.a))) 0))

/-! Conversions and floating point. -/

/-- 04 R60, R63: what rounding a magnitude m / 2^sh to an integer gives, mode by mode: one of the two neighbours, the exact one when there is one. 04 R57,
R61: in each format, a value that is representable is written exactly and raises nothing, whatever the mode. -/
def Obligations.RoundingPicksANeighbour : Prop :=
  (∀ (mode : Rnd) (rb : Nat) (neg : Bool) (m sh : Nat),
    let k := (roundMag mode rb neg m sh).1
    let lo := m / 2 ^ sh
    let r := m % 2 ^ sh
    ((roundMag mode rb neg m sh).2 = true ↔ r ≠ 0) ∧ (r = 0 → k = lo) ∧ (r ≠ 0 →
      (k = lo ∨ k = lo + 1) ∧
      (mode = .rtz → k = lo) ∧ (mode = .rup → (k = lo ↔ neg = true)) ∧ (mode = .rdn → (k = lo ↔ neg = false)) ∧ (mode = .rodd → k % 2 = 1) ∧
      (mode = .rne ∨ mode = .rna → (2 * r < 2 ^ sh → k = lo) ∧ (2 ^ sh < 2 * r → k = lo + 1)) ∧
      (2 * r = 2 ^ sh → (mode = .rne → k % 2 = 0) ∧ (mode = .rna → k = lo + 1)) ∧
      (mode = .rsr → (k = lo + 1 ↔ 2 ^ 32 ≤ r * 2 ^ 32 / 2 ^ sh + rb)))) ∧
  (∀ f ∈ [Fmt.f64, Fmt.f32, Fmt.f16, Fmt.bf16, Fmt.e4m3, Fmt.e5m2],
    ∀ (mode : Rnd) (sat : Bool) (rb bits : Nat) (neg : Bool) (m : Nat) (e : Int), bits < 2 ^ f.w → f.decode bits = .fin neg m e → f.round mode sat rb neg m e = (bits, 0))

/-- 05 R91, R97: conversions read the exact value of the source under its type and write it once into the destination's. 04 R61: over all values and modes, a
magnitude up to a format's largest finite one raises no OF; one at or above the next representable one, and one between the two that rounds up, overflows, with
OF and NX, to an infinity or the largest finite value as the mode and the sign say, in .e4m3 to 0x7F for an infinity. 04 R66: under SAT it is the largest finite
value, an infinity too, without a flag; a NaN is the canonical one. 04 R67: an integer destination takes the rounded value in its range, else the nearest bound,
and 0 for a NaN; NV for those without SAT, else NX; an inexact value in range raises NX. -/
def Obligations.ConversionsRoundOnce : Prop :=
  (∀ f ∈ [(Fmt.f64, 0x7FEFFFFFFFFFFFFF, 0x7FF0000000000000, 0x7FF8000000000000, 2 ^ 53 - 1, 971), (Fmt.f32, 0x7F7FFFFF, 0x7F800000, 0x7FC00000, 2 ^ 24 - 1, 104),
      (Fmt.f16, 0x7BFF, 0x7C00, 0x7E00, 2047, 5), (Fmt.bf16, 0x7F7F, 0x7F80, 0x7FC0, 255, 120), (Fmt.e4m3, 0x7E, 0x7F, 0x7F, 14, 5), (Fmt.e5m2, 0x7B, 0x7C, 0x7E, 7, 13)],
    let (fmt, big, inf, nan, top, q) : Fmt × Nat × Nat × Nat × Nat × Int := f
    let signed := fun (neg : Bool) (b : Nat) => if neg then 2 ^ (fmt.w - 1) + b else b
    let infinity := fun (neg : Bool) => if fmt = Fmt.e4m3 then 0x7F else signed neg inf
    (∀ (mode : Rnd) (sat neg : Bool) (rb m : Nat) (e : Int), 0 < m →
      let a := m * 2 ^ (e - q).toNat
      let b := 2 ^ (q - e).toNat
      let r := fmt.round mode sat rb neg m e
      let beyond := r = (if sat = true ∨ mode = .rtz ∨ mode = .rodd ∨ (mode = .rup ∧ neg = true) ∨ (mode = .rdn ∧ neg = false) then signed neg big else infinity neg, Fl.ov ||| Fl.nx)
      (a ≤ top * b → r.2 &&& Fl.ov = 0) ∧ ((top + 1) * b ≤ a → beyond) ∧
      (top * b < a → a < (top + 1) * b →
        let k := (roundMag mode rb neg m (q - e).toNat).1
        (k = top → r = (signed neg big, Fl.nx)) ∧ (k = top + 1 → beyond) ∧ (k = top ∨ k = top + 1))) ∧
    ∀ (mode : Rnd) (rb : Nat) (neg snan : Bool),
      fmt.write mode true rb (.inf neg) = (signed neg big, 0) ∧ (∀ sat, fmt.write mode sat rb (.nan snan) = (nan, if snan then Fl.nv else 0)) ∧
      fmt.write mode false rb (.inf neg) = (infinity neg, if fmt = Fmt.e4m3 then Fl.nv else 0)) ∧
  (∀ t ∈ [Ty.s8, Ty.u8, Ty.s16, Ty.u16, Ty.s32, Ty.u32, Ty.s64, Ty.u64], ∀ (mode : Rnd) (sat : Bool) (rb : Nat),
    let bad := if sat then Fl.nx else Fl.nv
    (∀ n, toIntTy t mode sat rb (.nan n) = (0, bad)) ∧
    (∀ neg, t.readInt (toIntTy t mode sat rb (.inf neg)).1 = (if neg then t.minInt else t.maxInt) ∧ (toIntTy t mode sat rb (.inf neg)).2 = bad) ∧
    (∀ (neg : Bool) (m e : Nat), toIntTy t mode sat rb (.fin neg m e) = toIntTy t mode sat rb (.fin neg (m * 2 ^ e) 0)) ∧
    ∀ (neg : Bool) (m sh : Nat),
      let r := toIntTy t mode sat rb (.fin neg m (-(sh : Int)))
      let k : Int := (roundMag mode rb neg m sh).1
      let v := if neg then -k else k
      (t.minInt ≤ v → v ≤ t.maxInt → t.readInt r.1 = v ∧ r.2 = if m % 2 ^ sh = 0 then 0 else Fl.nx) ∧
      (v < t.minInt → t.readInt r.1 = t.minInt ∧ r.2 = bad) ∧ (t.maxInt < v → t.readInt r.1 = t.maxInt ∧ r.2 = bad)) ∧
  ∀ (s : State) (x : Ext),
  let num := fun (c : Ctx) l => x.sty.readInt (c.rd l x.sty.wide x.a)
  let val := fun (c : Ctx) l => x.sty.fmt.decode (c.rd l x.sty.wide x.a)
  Completes s (.cvti x) x [x.srcA (regsOf x.sty)] (dstOf x.dty) x.d (fun c l => .v (x.dty.intResult x.sat (num c l))) ∧
  Completes s (.fcvt x) x ([x.srcA (regsOf x.sty)] ++ (s.ctx (.fcvt x) x).rsrSrc) (dstOf x.dty) x.d (fun c l => .f (x.dty.fmt.write c.mode x.sat (c.rb l) (val c l))) ∧
  Completes s (.fcvti x) x ([x.srcA (regsOf x.sty)] ++ (s.ctx (.fcvti x) x).rsrSrc) (dstOf x.dty) x.d (fun c l => .f (toIntTy x.dty c.mode x.sat (c.rb l) (val c l))) ∧
  Completes s (.icvtf x) x ([x.srcA (regsOf x.sty)] ++ (s.ctx (.icvtf x) x).rsrSrc) (dstOf x.dty) x.d
    (fun c l => .f (x.dty.fmt.round c.mode x.sat (c.rb l) (decide (num c l < 0)) (num c l).natAbs 0)) ∧
  Completes s (.frnd x) x ([x.srcA (regsOf x.dty)] ++ (s.ctx (.frnd x) x).rsrSrc) (dstOf x.dty) x.d
    (fun c l => .f (x.dty.fmt.rnd c.mode x.sat (c.rb l) (c.rd l x.dty.wide x.a))) ∧
  Completes s (.fscale x) x ([x.srcA (regsOf x.dty), x.srcB 1] ++ (s.ctx (.fscale x) x).rsrSrc) (dstOf x.dty) x.d
    (fun c l => .f (x.dty.fmt.scale c.mode x.sat (c.rb l) (c.rd l x.dty.wide x.a) (c.rd32 l x.b).toInt))

/-- 05 R93, R94: sums and products are exact and rounded once; FFMA adds the old D when C names nothing; minima and maxima are those of R94: over all patterns
of a format, a NaN gives the canonical NaN, or in FMINN and FMAXN the other operand when that is none; a signalling one raises NV and nothing else is raised;
else the result is one of the operands as it stands, the lesser or the greater; of two zeros, -0 is the lesser. 04 R65: a sum of zeros is -0 when all are, or
under rdn when any is, and an exact zero sum of other terms is +0, or -0 under rdn. -/
def Obligations.FloatArithmeticRoundsOnce : Prop :=
  (∀ f ∈ [(Fmt.f64, 0x7FF8000000000000), (Fmt.f32, 0x7FC00000), (Fmt.f16, 0x7E00), (Fmt.bf16, 0x7FC0), (Fmt.e4m3, 0x7F), (Fmt.e5m2, 0x7E)],
    let (fmt, nan) : Fmt × Nat := f
    let nz := 2 ^ (fmt.w - 1)
    (∀ a b, a < 2 ^ fmt.w → b < 2 ^ fmt.w →
      let A := fmt.decode a
      let B := fmt.decode b
      (∀ isMax numb, (fmt.minMax isMax numb a b).2 = if (A.isSnan || B.isSnan) = true then Fl.nv else 0) ∧
      (∀ isMax, (A.isNan = true ∨ B.isNan = true → (fmt.minMax isMax false a b).1 = nan) ∧ (A.isNan = true → B.isNan = true → (fmt.minMax isMax true a b).1 = nan) ∧
        (A.isNan = true → B.isNan = false → (fmt.minMax isMax true a b).1 = b) ∧ (A.isNan = false → B.isNan = true → (fmt.minMax isMax true a b).1 = a)) ∧
      (A.isNan = false → B.isNan = false → ∀ numb,
        let lo := (fmt.minMax false numb a b).1
        let hi := (fmt.minMax true numb a b).1
        (lo = a ∧ hi = b ∨ lo = b ∧ hi = a) ∧ (A.lt B = true → lo = a) ∧ (B.lt A = true → lo = b) ∧
        (A.isZero = true → B.isZero = true → lo = (if a = nz ∨ b = nz then nz else 0) ∧ hi = if a = nz ∧ b = nz then nz else 0))) ∧
    (∀ (mode : Rnd) (sat : Bool) (rb : Nat) (n : Bool) (p : Bool) (m : Nat) (e : Int),
      fmt.sum mode sat rb [.of (.fin n 0 e), .of (.fin p 0 e)] = (if (n && p) = true ∨ (mode = .rdn ∧ (n || p) = true) then nz else 0, 0) ∧
      (0 < m → fmt.sum mode sat rb [.of (.fin n m e), .of (.fin (!n) m e)] = (if mode = .rdn then nz else 0, 0)))) ∧
  ∀ s : State,
  let v := fun (c : Ctx) l (t : Ty) (o : Opnd) => t.fmt.decode (c.rd l t.wide o)
  let sum := fun (i : Instr) (x : Ext) (f : FV → FV → List Term) =>
    Completes s i x ([x.srcA (regsOf x.dty), x.srcB (regsOf x.dty)] ++ (s.ctx i x).rsrSrc) (dstOf x.dty) x.d
      (fun c l => .f (x.dty.fmt.sum c.mode x.sat (c.rb l) (f (v c l x.dty x.a) (v c l x.dty x.b))))
  let pick := fun (i : Instr) (x : Ext) (isMax numb : Bool) =>
    Completes s i x ([x.srcA (regsOf x.dty), x.srcB (regsOf x.dty)] ++ (s.ctx i x).rsrSrc) (dstOf x.dty) x.d
      (fun c l => .f (x.dty.fmt.minMax isMax numb (c.rd l x.dty.wide x.a) (c.rd l x.dty.wide x.b)))
  let fma := fun (i : Instr) (x : Ext) =>
    let n := regsOf x.dty
    Completes s i x ([x.srcA n, x.srcB n, if x.c = .none then Src.plain x.d n else x.srcC n] ++ (s.ctx i x).rsrSrc) (dstOf x.dty) x.d
      (fun c l => .f (x.dty.fmt.sum c.mode x.sat (c.rb l) [.mul (v c l x.dty x.a) (v c l x.dty x.b), .of (v c l x.dty (if x.c = .none then x.d else x.c))]))
  (∀ d a b, sum (.fadd d a b) (Ext.ofBase 0x10 d a b) (fun p q => [.of p, .of q])) ∧ (∀ d a b, sum (.fmul d a b) (Ext.ofBase 0x11 d a b) (fun p q => [.mul p q])) ∧
  (∀ d a b, fma (.ffma d a b) (Ext.ofBase 0x12 d a b)) ∧ (∀ d a b, pick (.fmin d a b) (Ext.ofBase 0x13 d a b) false false) ∧
  ∀ x : Ext, sum (.faddX x) x (fun p q => [.of p, .of q]) ∧ sum (.fsub x) x (fun p q => [.of p, .of q.flip]) ∧ sum (.fmulX x) x (fun p q => [.mul p q]) ∧
    fma (.ffmaX x) x ∧ pick (.fminX x) x false false ∧ pick (.fmax x) x true false ∧ pick (.fminn x) x false true ∧ pick (.fmaxn x) x true true

/-- 05 R98: the special functions complete under rne and trap ILLEGAL under every other rounding. 05 R98: the table of special inputs, with its flags. -/
def Obligations.SpecialFunctionsRoundAndSpecialCases : Prop :=
  (∀ s : State,
    let fn := fun (i : Instr) (x : Ext) (n : Nat) =>
      ((s.ctx i x).mode = .rne → Completes s i x [x.srcA 1] .w32 x.d (fun c l => .f (specialFn n (c.rd32 l x.a).toNat))) ∧
      ((s.ctx i x).mode ≠ .rne → exec i s = .next (s.trapAt (s.ctx i x) cIllegal (s.ctx i x).at_ (s.ctx i x).words))
    (∀ d a, fn (.frcp d a) (Ext.ofBase 0x16 d a .none) 0) ∧
    ∀ x : Ext, fn (.frcpX x) x 0 ∧ fn (.frsq x) x 1 ∧ fn (.fsqrt x) x 2 ∧ fn (.fex2 x) x 3 ∧ fn (.flg2 x) x 4 ∧ fn (.fsin x) x 5 ∧ fn (.fcos x) x 6 ∧ fn (.ftanh x) x 7) ∧
  (let pinf := 0x7F800000
    let ninf := 0xFF800000
    let nz := 0x80000000
    let nan := 0x7FC00000
    let one := 0x3F800000
    let mone := 0xBF800000
    specialFn 0 0 = (pinf, Fl.dz) ∧ specialFn 0 nz = (ninf, Fl.dz) ∧ specialFn 0 pinf = (0, 0) ∧ specialFn 0 ninf = (nz, 0) ∧
    specialFn 1 0 = (pinf, Fl.dz) ∧ specialFn 1 nz = (ninf, Fl.dz) ∧ specialFn 1 mone = (nan, Fl.nv) ∧ specialFn 1 ninf = (nan, Fl.nv) ∧ specialFn 1 pinf = (0, 0) ∧
    specialFn 2 0 = (0, 0) ∧ specialFn 2 nz = (nz, 0) ∧ specialFn 2 mone = (nan, Fl.nv) ∧ specialFn 2 pinf = (pinf, 0) ∧
    specialFn 3 ninf = (0, 0) ∧ specialFn 3 pinf = (pinf, 0) ∧ specialFn 3 0 = (one, 0) ∧ specialFn 3 nz = (one, 0) ∧
    specialFn 4 0 = (ninf, Fl.dz) ∧ specialFn 4 nz = (ninf, Fl.dz) ∧ specialFn 4 mone = (nan, Fl.nv) ∧ specialFn 4 pinf = (pinf, 0) ∧ specialFn 4 one = (0, 0) ∧
    specialFn 5 pinf = (nan, Fl.nv) ∧ specialFn 5 ninf = (nan, Fl.nv) ∧ specialFn 5 0 = (0, 0) ∧ specialFn 5 nz = (nz, 0) ∧
    specialFn 6 pinf = (nan, Fl.nv) ∧ specialFn 6 ninf = (nan, Fl.nv) ∧ specialFn 6 0 = (one, 0) ∧ specialFn 6 nz = (one, 0) ∧
    specialFn 7 pinf = (one, 0) ∧ specialFn 7 ninf = (mone, 0) ∧ specialFn 7 0 = (0, 0) ∧ specialFn 7 nz = (nz, 0) ∧
    ∀ n < 8, specialFn n 0x7FC00001 = (nan, 0) ∧ specialFn n 0x7F800001 = (nan, Fl.nv))

/-- 05 R99, 04 R69, R72: the packed forms round each element on its own; FDOT2 sums two products and its addend once; DOT4 is exact. -/
def Obligations.PackedFormsRoundEachElement : Prop := ∀ (s : State) (x : Ext),
  let F := if x.dty = .f16 then Fmt.f16 else Fmt.bf16
  let el := fun (f : Fmt) (c : Ctx) l (o : Opnd) (e : Nat) => f.decode ((c.rd32 l o).toNat / 2 ^ (16 * e) % 2 ^ 16)
  let each := fun (i : Instr) (srcs : List Src) (ts : Ctx → Nat → Nat → List Term) => Completes s i x (srcs ++ (s.ctx i x).rsrSrc) .w32 x.d (fun c l =>
    let r := fun e => F.sum c.mode false (rotRb (c.rb l) e) (ts c l e)
    .f ((r 0).1 + 2 ^ 16 * (r 1).1, (r 0).2 ||| (r 1).2))
  each (.fma2 x) [x.srcA 1, x.srcB 1, x.srcC 1] (fun c l e => [.mul (el F c l x.a e) (el F c l x.b e), .of (el F c l x.c e)]) ∧
  each (.fadd2 x) [x.srcA 1, x.srcB 1] (fun c l e => [.of (el F c l x.a e), .of (el F c l x.b e)]) ∧
  each (.fmul2 x) [x.srcA 1, x.srcB 1] (fun c l e => [.mul (el F c l x.a e) (el F c l x.b e)]) ∧
  Completes s (.fdot2 x) x ([x.srcA 1, x.srcB 1, x.srcC 1] ++ (s.ctx (.fdot2 x) x).rsrSrc) .w32 x.d (fun c l =>
    let p := fun e => Term.mul (el x.sty.fmt c l x.a e) (el x.sty.fmt c l x.b e)
    .f (Fmt.f32.dotSum c.mode (c.rb l) [p 0, p 1, .of (Fmt.f32.decode (c.rd32 l x.c).toNat)])) ∧
  Completes s (.dot4 x) x [x.srcA 1, x.srcB 1, x.srcC 1] .w32 x.d (fun c l =>
    let byte := fun (w : Word) (signed : Bool) k => (if signed then Ty.s8 else Ty.u8).readInt (w.toNat / 2 ^ (8 * k))
    let p := fun k => byte (c.rd32 l x.a) (bitAt x.imm 0) k * byte (c.rd32 l x.b) (bitAt x.imm 1) k
    .v (Ty.s32.intResult x.sat (p 0 + p 1 + p 2 + p 3 + (c.rd32 l x.c).toInt)))

/-! Cross-lane forms. -/

/-- 08 R149, R150: each participant takes A as it stands in the lane that the form chooses; every read comes before every write. -/
def Obligations.LaneMovesReadTheChosenLane : Prop := ∀ s : State,
  let move := fun (i : Instr) (x : Ext) (useB : Bool) (k : Nat → Nat → Nat) =>
    let c := s.ctx i x
    let read := (c.parts x.c).lanes.map (fun l => k (c.rd32 l x.b).toNat l)
    CompletesOn s i x ((x.srcA (regsOf x.dty)).over read :: (if useB then [x.srcB 1] else [])) (dstOf x.dty) (fun c _ l =>
      .v (c.rd (k (c.rd32 l x.b).toNat l) x.dty.wide x.a))
  let quad := fun (x : Ext) => fun (_ l : Nat) => 4 * (l / 4) + x.imm / 4 ^ (l % 4) % 4
  (∀ d a, move (.qxch d a) (Ext.ofBase 0x30 d a .none) false (fun _ l => 4 * (l / 4))) ∧
  (∀ d a b, move (.gshf d a b) (Ext.ofBase 0x31 d a b) true (fun b _ => b % 32)) ∧
  ∀ x : Ext, move (.qxchX x) x false (quad x) ∧ move (.qbc x) x true (fun b l => 4 * (l / 4) + b % 4) ∧ move (.gshfX x) x true (fun b _ => b % 32) ∧
    move (.gshfx x) x true (fun b l => l ^^^ (b % 32)) ∧ move (.gshfup x) x true (fun b l => if b ≤ l then l - b else l) ∧
    move (.gshfdn x) x true (fun b l => if l + b ≤ 31 then l + b else l) ∧
    (allSame (((s.ctx (.gbcast x) x).parts x.c).lanes.map (fun l => (s.ctx (.gbcast x) x).rd32 l x.b)) = true → move (.gbcast x) x true (fun b _ => b % 32))

/-- 08 R151 to R153: votes and matches over the participants; GRED gives everyone the tree's value, GSCAN each the tree of the leaves up to its own. -/
def Obligations.VotesAndReductionsCoverTheParticipants : Prop := ∀ s : State,
  let vote := fun (i : Instr) (x : Ext) => CompletesOn s i x [x.srcA 1] .w32 (fun c p _ =>
    .v (if x.imm % 4 = 0 then (if ∀ l ∈ p.lanes, c.rd32 l x.a ≠ 0 then 1 else 0)
      else if x.imm % 4 = 1 then (if ∃ l ∈ p.lanes, c.rd32 l x.a ≠ 0 then 1 else 0)
      else if x.imm % 4 = 2 then (maskOf (fun l => p.has l && c.rd32 l x.a != 0)).toNat
      else (if ∀ l ∈ p.lanes, ∀ k ∈ p.lanes, c.rd32 l x.a = c.rd32 k x.a then 1 else 0)))
  let leaf := fun (c : Ctx) (p : Mask) (t : Ty) (o : Opnd) (m k : Nat) => if p.has k && decide (k ≤ m) then some (c.rd k t.wide o) else none
  let red := fun (i : Instr) (x : Ext) =>
    let t := redTy x.dty
    CompletesOn s i x [x.srcA (regsOf t)] (dstOf t) (fun c p _ =>
      let r := treeOf (x.imm % 8) t (leaf c p t x.a 31)
      ⟨finishVal t r.1, [], r.2⟩)
  (∀ d a, vote (.gvote d a) (Ext.ofBase 0x32 d a .none)) ∧ (∀ d a, red (.gred d a) (Ext.ofBase 0x33 d a .none)) ∧
  ∀ x : Ext, vote (.gvoteX x) x ∧ red (.gredX x) x ∧
    CompletesOn s (.gmatch x) x [x.srcA (regsOf x.dty)] .w32 (fun c p l =>
      .v (maskOf (fun k => p.has k && c.rd k x.dty.wide x.a == c.rd l x.dty.wide x.a)).toNat) ∧
    (let t := redTy x.dty
     CompletesOn s (.gscan x) x [x.srcA (regsOf t)] (dstOf t) (fun c p l =>
      let upTo := fun m => treeOf (x.imm % 8) t (leaf c p t x.a m)
      ⟨finishVal t (upTo l).1, [], p.lanes.foldl (fun f m => f ||| (upTo m).2) 0⟩))

/-- 08 R146: a mask that differs between enabled lanes traps UNIFORM_DIV in all of them; one that covers a lane holding an item and not enabled traps
MASK_MISMATCH in those lanes. The form writes nothing. -/
def Obligations.MasksMustBeUniformAndCovered : Prop := ∀ (s : State) (x : Ext),
  let moved := fun (i : Instr) (k : Nat → Nat → Nat) =>
    let c := s.ctx i x
    (i, [(x.srcA (regsOf x.dty)).over ((c.parts x.c).lanes.map (fun l => k (c.rd32 l x.b).toNat l)), x.srcB 1], dstOf x.dty)
  let forms := [moved (.gshfX x) (fun b _ => b % 32), moved (.gshfx x) (fun b l => l ^^^ (b % 32)), moved (.gshfup x) (fun b l => if b ≤ l then l - b else l),
    moved (.gshfdn x) (fun b l => if l + b ≤ 31 then l + b else l), moved (.gbcast x) (fun b _ => b % 32), (.gvoteX x, [x.srcA 1], Dst.w32), (.gmatch x, [x.srcA (regsOf x.dty)], .w32),
    (.gredX x, [x.srcA (regsOf (redTy x.dty))], dstOf (redTy x.dty)), (.gscan x, [x.srcA (regsOf (redTy x.dty))], dstOf (redTy x.dty))]
  ∀ f ∈ forms,
    let c := s.ctx f.1 x
    x.c ≠ .none → c.chk [x.srcC 1] .none 0 = .ok → ({ c with en := c.parts x.c }).chk f.2.1 x.d f.2.2.n = .ok →
    ((∃ l k, c.en.has l = true ∧ c.en.has k = true ∧ c.rd32 l x.c ≠ c.rd32 k x.c) → exec f.1 s = .next (s.trapAt c cUniform c.en 0)) ∧
    (∀ v : Word, c.en ≠ 0 → (∀ l, c.en.has l = true → c.rd32 l x.c = v) →
      let bad := maskOf (fun l => v.getLsbD l && (c.g.lane l).occupied && !c.en.has l)
      bad ≠ 0 → exec f.1 s = .next (s.trapAt c cMask bad (v.zeroExtend 64)))

/-! Control transfers. -/

/-- 06 R101, R45: the lanes whose guard and condition hold go to PC + offset, the other lanes at the address go on behind the branch, and nothing else
changes; a branch that must be uniform and is not traps UNIFORM_DIV. -/
def Obligations.BranchesMoveTheTakenLanes : Prop := ∀ s : State,
  let br := fun (i : Instr) (x : Ext) (must cond : Bool) (off : DWord) =>
    let c := s.ctx i x
    let taken := maskOf (fun l => c.en.has l && (!cond || c.rd32 l x.d != 0))
    c.chk (if cond then [.plain x.d 1] else []) .none 0 = .ok →
      (must = false ∧ x.uni = false ∨ taken = 0 ∨ taken = c.at_ →
        ∃ t, exec i s = .next t ∧ Transferred s t c taken (fun _ => c.pc + off) [] .none .none 0) ∧
      ((must || x.uni) = true → taken ≠ 0 → taken ≠ c.at_ → exec i s = .next (s.trapAt c cUniform c.at_ (c.pc + off)))
  let words := fun (off : BitVec 16) => BitVec.ofInt 64 (4 * off.toInt)
  let bytes := fun (x : Ext) => match x.lit with | some b => b | none => BitVec.ofInt 64 (4 * (BitVec.ofNat 32 x.wval).toInt)
  (∀ off, br (.bra off) (branchBase 0x20 .none off) false false (words off)) ∧
  (∀ d off, br (.brc d off) (branchBase 0x21 d off) false true (words off)) ∧
  (∀ d off, br (.bru d off) (branchBase 0x22 d off) true true (words off)) ∧
  ∀ x : Ext, br (.braX x) x false false (bytes x) ∧ br (.brcX x) x false true (bytes x) ∧ br (.bruX x) x true true (bytes x)

/-- 06 R102: each enabled lane's pair D takes the address behind the call and the lane goes to its target; a target that is no multiple of 4 traps MISALIGN in
its lanes with the lowest one's target as TADDR. With UNI the enabled lanes must be all that stand at the instruction and share one target, or all of them
trap UNIFORM_DIV; the address is then the model's choice (log entry 83). -/
def Obligations.CallsLinkAndJump : Prop := ∀ s : State,
  let call := fun (i : Instr) (x : Ext) (srcs : List Src) (tgt : Ctx → Nat → DWord) =>
    let c := s.ctx i x
    let bad := maskOf (fun l => c.en.has l && (tgt c l).toNat % 4 != 0)
    (c.chk srcs x.d 2 = .ok → (x.uni = false ∨ c.en = c.at_ ∧ allSame (c.en.lanes.map (tgt c)) = true) →
      (bad = 0 → ∃ t, exec i s = .next t ∧ Transferred s t c c.en (tgt c) srcs .w64 x.d (c.pc.toNat + c.len)) ∧
      (∀ l, bad.first = some l → exec i s = .next (s.trapAt c cMisalign bad (tgt c l)))) ∧
    (c.chk srcs x.d 2 = .ok → x.uni = true → (c.en ≠ c.at_ ∨ allSame (c.en.lanes.map (tgt c)) = false) →
      ∃ a, (∀ l, c.en.first = some l → a = tgt c l) ∧ (c.en = 0 → ∀ l, c.at_.first = some l → a = tgt c l) ∧ exec i s = .next (s.trapAt c cUniform c.at_ a))
  (∀ d off, call (.call d off) (branchBase 0x23 d off) [] (fun c _ => c.pc + BitVec.ofInt 64 (4 * off.toInt))) ∧
  ∀ x : Ext, call (.callX x) x [] (fun c _ => c.pc + (match x.lit with | some b => b | none => BitVec.ofInt 64 (4 * (BitVec.ofNat 32 x.wval).toInt))) ∧
    call (.calli x) x [x.srcA 2] (fun c l => c.rd64 l x.a) ∧ call (.ret x) x [x.srcA 2] (fun c l => c.rd64 l x.a) ∧
    call (.jmpi x) x [x.srcA 2] (fun c l => c.rd64 l x.a)

/-- 06 R104: LOOP pushes an entry with its counter and goes on in the body, or skips the body behind the word at its end; BRKL pops down to the entry of its
counter and goes to its target. A full stack, a counter in use, or no entry to break traps REG_BOUND. 06 R105: at an entry's end a counter above 1 falls by
one and the lane goes to the start; a counter of 1 or 0 pops the entry, and the next is tested. That TADDR of those traps is the counter's specifier code is
the model's choice (assumption 22). -/
def Obligations.LoopsPushBreakAndCountDown : Prop :=
  (∀ (s : State) (x : Ext) (n : Fin 4), x.d = .lc n →
    (let c := s.ctx (.loop x) x
     let bad := maskOf (fun l => c.en.has l && ((c.g.lane l).loops.length == 4 || (c.g.lane l).loops.any (fun e => e.ctr == n.val)))
     c.chk [x.srcA 1] .none 0 = .ok → c.en ≠ 0 →
     (bad ≠ 0 → exec (.loop x) s = .next (s.trapAt c cRegBound bad (BitVec.ofNat 64 (0xCC + n.val)))) ∧
     (bad = 0 → (∀ l, c.en.has l = true → c.rd32 l x.a ≠ 0) → ∃ t, exec (.loop x) s = .next t ∧ s.OnlyGroup t c.gid ∧
       ∀ l, c.en.has l = true → let y := (t.group c.gid).lane l
         y.pc = c.next ∧ y.loops = ⟨n.val, c.next, c.target⟩ :: (c.g.lane l).loops ∧ Tab.get 0 y.lc n.val = c.rd32 l x.a ∧ (c.g.lane l).Same y) ∧
     (bad = 0 → (∃ l, c.en.has l = true ∧ c.rd32 l x.a = 0) → ∀ w u, s.fetchWord c.gid c.target c.g.priv = .ok w u →
       ∃ t, exec (.loop x) s = .next t ∧ s.SameButTags t ∧ ∀ l, c.en.has l = true → let y := (t.group c.gid).lane l
         (c.rd32 l x.a = 0 → y.pc = c.target + BitVec.ofNat 64 (lenOf w) ∧ y.loops = (c.g.lane l).loops) ∧
         (c.rd32 l x.a ≠ 0 → y.pc = c.next ∧ y.loops = ⟨n.val, c.next, c.target⟩ :: (c.g.lane l).loops ∧ Tab.get 0 y.lc n.val = c.rd32 l x.a) ∧
         (c.g.lane l).Same y)) ∧
    (let c := s.ctx (.brkl x) x
     let bad := maskOf (fun l => c.en.has l && !(c.g.lane l).loops.any (fun e => e.ctr == n.val))
     (bad ≠ 0 → exec (.brkl x) s = .next (s.trapAt c cRegBound bad (BitVec.ofNat 64 (0xCC + n.val)))) ∧
     (bad = 0 → ∃ t, exec (.brkl x) s = .next t ∧ s.OnlyGroup t c.gid ∧ ∀ l, c.en.has l = true → let y := (t.group c.gid).lane l
       y.pc = c.target ∧ Tab.get 0 y.lc n.val = 0 ∧ (∃ top, (∀ e ∈ top, Tab.get 0 y.lc e.ctr = 0) ∧ (c.g.lane l).loops = top ++ y.loops ∧
         top.getLast?.map LoopEntry.ctr = some n.val) ∧ (c.g.lane l).Same y))) ∧
  (∀ (x : Lane) (pc nxt : DWord) (e : LoopEntry) (rest : List LoopEntry), x.loops = e :: rest →
    (e.stop ≠ pc → x.advance pc nxt = { x with pc := nxt }) ∧
    (e.stop = pc → 1 < (Tab.get 0 x.lc e.ctr).toNat →
      x.advance pc nxt = { x with lc := Tab.set 0 x.lc e.ctr (Tab.get 0 x.lc e.ctr - 1), pc := e.start }) ∧
    (e.stop = pc → (Tab.get 0 x.lc e.ctr).toNat ≤ 1 → x.advance pc nxt = { x with lc := Tab.set 0 x.lc e.ctr 0, loops := rest }.advance pc nxt))

/-- 06 R106: NOP moves the PC alone; YIELD also invalidates every latch and slot and puts the group behind those that are ready; a group of a system core
cannot EXIT or refill. EXIT empties the enabled lanes; when no lane holds an item any more, the group drains with refill off, and with refill on takes items
from the queue, waits for the chunk on its way, or drains. RFL without refill, without an enabled lane or without an empty lane moves the PC alone; else it
fills the empty lanes from the workgroup's queue, or waits in line for the next chunk. 07 R129 to R132: a
refill fills the empty lanes, the lowest first with the oldest item first; a filled lane starts at the kernel's entry in a new generation with its predicates,
loop counters, flags and loop stack clear. -/
def Obligations.NopYieldExitAndRefill : Prop :=
  (∀ s : State,
    let nop := fun (i : Instr) (x : Ext) => ∃ t, exec i s = .next t ∧ Computed s t (s.ctx i x) 0 [] .none .none (fun _ => .v 0)
    let exit := fun (i : Instr) (x : Ext) =>
      let c := s.ctx i x
      (isSystem c.gid = true → exec i s = .next (s.trapAt c cIllegal c.at_ c.words)) ∧
      (isSystem c.gid = false → (∃ l, (c.g.lane l).occupied = true ∧ c.en.has l = false ∧ l < 32) → ∃ t, exec i s = .next t ∧ s.OnlyGroup t c.gid ∧
        ∀ l, ((t.group c.gid).lane l).occupied = ((c.g.lane l).occupied && !c.en.has l)) ∧
      (isSystem c.gid = false → c.en ≠ 0 → (∀ l, l < 32 → (c.g.lane l).occupied = true → c.en.has l = true) → c.g.status = .running → c.g.k.refill = false →
        ∃ t, exec i s = .next t ∧ (t.group c.gid).status = .draining ∧ t.mem = s.mem ∧ ∀ l < 32, ((t.group c.gid).lane l).occupied = false) ∧
      (isSystem c.gid = false → c.en ≠ 0 → (∀ l, l < 32 → (c.g.lane l).occupied = true → c.en.has l = true) → c.g.status = .running → c.g.k.refill = true →
        ∀ L, s.launch? c.g.launch = some L → ∃ t, exec i s = .next t ∧ t.mem = s.mem ∧
          match (s.wg c.g.wg).items with
          | i :: _ => (t.group c.gid).status = .running ∧ ((t.group c.gid).lane 0).occupied = true ∧ ((t.group c.gid).lane 0).pc = c.g.k.entry ∧
              ((t.group c.gid).lane 0).item.toNat = i % L.nx % 2 ^ 32
          | [] => (∀ l < 32, ((t.group c.gid).lane l).occupied = false) ∧
              if (s.wg c.g.wg).fetching = true then (t.group c.gid).status = .running ∧ c.gid ∈ (t.wg c.g.wg).waiters else (t.group c.gid).status = .draining)
    nop .nop (.ofBase 0x01 .none .none .none) ∧ (∀ x, nop (.nopX x) x) ∧
    (∀ x, ∃ t, exec (.yield x) s = .next t ∧
      let c := s.ctx (.yield x) x
      let g := t.group c.gid
      s.OnlyGroup t c.gid ∧ g.readySince = s.clock + 4 ∧ (∀ l, (g.lane l).laOk = 0) ∧ (∀ n, (g.slot n).valid = false) ∧ (∀ l r, l < 32 → g.reg l r = c.g.reg l r)) ∧
    exit .exit (.ofBase 0x25 .none .none .none) ∧ (∀ x, exit (.exitX x) x) ∧
    (∀ x, let c := s.ctx (.rfl x) x
      (isSystem c.gid = true → exec (.rfl x) s = .next (s.trapAt c cIllegal c.at_ c.words)) ∧
      (isSystem c.gid = false → (c.en = 0 ∨ c.g.k.refill = false ∨ c.g.emptyLanes = []) →
        ∃ t, exec (.rfl x) s = .next t ∧ Computed s t c 0 [] .none .none (fun _ => .v 0)) ∧
      (isSystem c.gid = false → c.en ≠ 0 → c.g.k.refill = true → c.g.emptyLanes ≠ [] → s.refillWaits c.gid = false → ∀ L, s.launch? c.g.launch = some L →
        ∃ t, exec (.rfl x) s = .next t ∧ let r := ((s.commit c c.g).group c.gid).fillFrom L.nx L.ny c.g.emptyLanes (s.wg c.g.wg).items
          t.group c.gid = r.1 ∧ (t.wg c.g.wg).items = r.2 ∧ t.mem = s.mem ∧ ∀ k, k ≠ c.gid → t.group k = s.group k) ∧
      (isSystem c.gid = false → c.en ≠ 0 → c.g.k.refill = true → c.g.emptyLanes ≠ [] → s.refillWaits c.gid = true →
        ∃ t, exec (.rfl x) s = .next t ∧ (t.group c.gid).wait = .refill ∧ c.gid ∈ (t.wg c.g.wg).waiters ∧ t.mem = s.mem ∧
          (∀ l, (t.group c.gid).lane l = c.g.lane l) ∧ ∀ k, k ≠ c.gid → t.group k = s.group k))) ∧
  (∀ (g : Group) (nx ny l i : Nat) (ls is : List Nat), l ∉ ls →
    let h := (g.fillFrom nx ny (l :: ls) (i :: is)).1
    (h.lane l).occupied = true ∧ (h.lane l).pc = g.k.entry ∧ (h.lane l).p = 0 ∧ (h.lane l).lc = [] ∧ (h.lane l).fflag = 0 ∧ (h.lane l).loops = [] ∧
    (h.lane l).laOk = 0 ∧ (h.lane l).gen = (if (g.lane l).gen = 0xFFFF then 1 else (g.lane l).gen + 1) ∧
    (h.lane l).item.toNat = i % nx % 2 ^ 32 ∧ (h.lane l).itemy.toNat = i / nx % ny % 2 ^ 32 ∧ (h.lane l).itemz.toNat = i / (nx * ny) % 2 ^ 32 ∧
    (g.fillFrom nx ny (l :: ls) (i :: is)).2 = is.drop ls.length ∧ ∀ k, k ≠ l → k ∉ ls → h.lane k = g.lane k)

/-- 06 R107: SLEEP and SLEEPD stop the group until the largest wake cycle over the enabled lanes, never before the issue; from that cycle on SLEEP_WAKE lets
the lanes go on behind the instruction. Both are descheduling points. 18 R326: a sleep that RETT resumes keeps its wake cycle. -/
def Obligations.SleepsWaitForTheirWakeCycle : Prop := ∀ s : State,
  let sleep := fun (i : Instr) (x : Ext) (n : Nat) (w : Ctx → Nat → Nat) =>
    let c := s.ctx i x
    (∀ v, c.g.resume = some v → ∃ t, exec i s = .next t ∧ s.OnlyGroup t c.gid ∧ (t.group c.gid).wait = .sleep v) ∧
    (c.chk [x.srcA n] .none 0 = .ok → c.g.resume = none →
      (c.en ≠ 0 → ∃ t, exec i s = .next t ∧ s.OnlyGroup t c.gid ∧ ∃ k, (t.group c.gid).wait = .sleep (BitVec.ofNat 64 k) ∧ s.clock ≤ k ∧
        (∀ l, c.en.has l = true → w c l ≤ k) ∧ (k = s.clock ∨ ∃ l, c.en.has l = true ∧ w c l = k) ∧
        (∀ l, ((t.group c.gid).lane l).pc = (c.g.lane l).pc ∧ ((t.group c.gid).lane l).laOk = 0)) ∧
      (c.en = 0 → ∃ t, exec i s = .next t ∧ s.OnlyGroup t c.gid ∧ (t.group c.gid).wait = c.g.wait ∧ ∀ l, ((t.group c.gid).lane l).laOk = 0))
  (∀ a, sleep (.sleep a) (.ofBase 0x26 .none a .none) 1 (fun c l => s.clock + (c.rd32 l a).toNat)) ∧
  (∀ x, sleep (.sleepX x) x 1 (fun c l => s.clock + (c.rd32 l x.a).toNat)) ∧ (∀ x, sleep (.sleepd x) x 2 (fun c l => (c.rd64 l x.a).toNat)) ∧
  ∀ (gid : Nat) (w : DWord), (s.group gid).wait = .sleep w →
    (w.toNat ≤ s.clock → ∃ t, exec (.sleepWake gid) s = .next t ∧ s.OnlyGroup t gid ∧ (t.group gid).wait = .none ∧
      ∀ pc l, (s.group gid).issueAddr = some pc → ((s.group gid).lane l).loops = [] →
        ((t.group gid).lane l).pc = if ((s.group gid).atPc pc).has l = true then pc + BitVec.ofNat 64 (s.group gid).waitLen else ((s.group gid).lane l).pc) ∧
    (s.clock < w.toNat → exec (.sleepWake gid) s = .next s)

/-! Traps. -/

/-- 18 R323, R324: a trap is entered at the first level, from the routed one upward, whose trap is not in progress. That level's registers take the cause,
lanes, address, PC, old level and status; the lanes of the set go to the level's vector, the other live lanes are parked; no register, predicate or counter is
saved or changed, and no other level's registers. 23 R381: a trap that takes a world's group on a system core to level 2 puts the world's registers away
first and enters with zeroed registers in world 0. 18 R324: a trap that would be entered above level 3 stops the group with its registers and lanes as they
are, records the stop in MCLOG and sets bit 62 of the named system core's IPEND. -/
def Obligations.TrapEntrySavesAndVectors : Prop :=
  (∀ (s : State) (gid : Nat) (t : TrapInfo) (n : Nat),
    let g := s.group gid
    let m := s.trapLevel gid t.cause t.pr
    let u := s.trap gid t
    let h := u.group gid
    m ≤ n → n < 4 → g.act n = false → (∀ k, m ≤ k → k < n → g.act k = true) → (isSystem gid = false ∨ g.world = 0 ∨ n ≠ 2) →
      (h.tr n).cause.toNat = t.cause % 256 ∧ (h.tr n).addr = t.addr ∧ (h.tr n).lanes = t.lanes ∧ (h.tr n).pc = t.pc ∧ (h.tr n).priv.toNat = g.priv ∧
      h.act n = true ∧ (h.tr n).tstat.getLsbD 1 = decide (n ≠ m) ∧ (h.tr n).tstat.getLsbD 2 = g.step ∧ (h.tr n).tstat.getLsbD 3 = t.defr.isSome ∧
      (h.tr n).park = g.live &&& ~~~t.lanes ∧ (∀ k, k ≠ n → h.tr k = g.tr k) ∧ h.priv = n ∧ h.step = false ∧ h.drm = g.drm ∧ h.aen = g.aen ∧ h.wait = .none ∧
      (∀ l, (h.lane l).pc = if t.lanes.has l = true then Tab.get 0 (s.core (coreOf gid)).tvec n else (g.lane l).pc) ∧
      (∀ l, (h.lane l).laOk = 0) ∧ (∀ k, (h.slot k).valid = false) ∧
      (∀ l r, l < 32 → h.reg l r = g.reg l r) ∧ (∀ l, (h.lane l).p = (g.lane l).p ∧ (h.lane l).fflag = (g.lane l).fflag ∧ (h.lane l).lc = (g.lane l).lc) ∧
      h.empt = g.empt ∧ h.dc = g.dc ∧ u.mem = s.mem ∧ (∀ k, k ≠ gid → u.group k = s.group k)) ∧
  (∀ (s : State) (gid : Nat) (t : TrapInfo),
    let g := s.group gid
    let m := s.trapLevel gid t.cause t.pr
    let u := s.trap gid t
    let h := u.group gid
    isSystem gid = true → g.world ≠ 0 → m ≤ 2 → g.act 2 = false → (∀ k, m ≤ k → k < 2 → g.act k = true) →
      h.world = 0 ∧ (∀ l r, h.reg l r = 0) ∧ (∀ l, (h.lane l).p = 0) ∧ h.priv = 2 ∧ h.act 2 = true ∧
      (h.tr 2).cause.toNat = t.cause % 256 ∧ (h.tr 2).addr = t.addr ∧ (h.tr 2).lanes = t.lanes ∧ (h.tr 2).pc = t.pc ∧
      (∀ l, t.lanes.has l = true → (h.lane l).pc = Tab.get 0 (s.core (coreOf gid)).tvec 2) ∧ u.hosts = ⟨coreOf gid, g⟩ :: s.hosts ∧ u.mem = s.mem) ∧
  (∀ (s : State) (gid : Nat) (t : TrapInfo),
    (∀ k, s.trapLevel gid t.cause t.pr ≤ k → k < 4 → (s.group gid).act k = true) →
      let u := s.trap gid t
      u.group gid = { s.group gid with status := .stopped } ∧ u.mem = s.mem ∧ (∀ k, k ≠ gid → u.group k = s.group k) ∧
      ((s.core (coreOf gid)).mclog.getLsbD 63 = false → (u.core (coreOf gid)).mclog.toNat / 2 ^ 56 % 64 = 9 ∧ (u.core (coreOf gid)).mclog.getLsbD 63 = true) ∧
      (u.core (namedSysCore (coreDie (coreOf gid)))).ipend.getLsbD 62 = true)

/-- 06 R108: TRAP traps SOFTWARE and BKPT traps BREAKPOINT in the enabled lanes with TADDR = k; TFENCE traps ARITH in the enabled lanes with an enabled flag;
with no such lane the PC advances. -/
def Obligations.TrapInstructionsTrap : Prop := ∀ s : State,
  let trap := fun (i : Instr) (x : Ext) (cause k : Nat) =>
    let c := s.ctx i x
    (c.en ≠ 0 → exec i s = .next (s.trapAt c cause c.en (BitVec.ofNat 64 k))) ∧
    (c.en = 0 → ∃ t, exec i s = .next t ∧ Computed s t c 0 [] .none .none (fun _ => .v 0))
  trap .trap (.ofBase 0x27 .none .none .none) 0x13 0 ∧ (∀ x, trap (.trapX x) x 0x13 x.imm) ∧ (∀ x, trap (.bkpt x) x 0x11 x.imm) ∧
  ∀ x, let c := s.ctx (.tfence x) x
    let fl := fun l => (c.g.lane l).fflag &&& BitVec.ofNat 5 c.g.aen
    let hit := maskOf (fun l => c.en.has l && fl l != 0)
    (s.passes.all (fun p => p.q.gid != c.gid)) = true →
    (hit ≠ 0 → ∃ a : DWord, exec (.tfence x) s = .next (s.trapAt c 0x10 hit a) ∧ ∀ n, a.getLsbD n = hit.lanes.any (fun l => (fl l).getLsbD n)) ∧
    (hit = 0 → ∃ t, exec (.tfence x) s = .next t ∧ Computed s t c 0 [] .none .none (fun _ => .v 0))

/-- 06 R109, 18 R325: RETT sends the lanes of TLANES that hold an item to TRAPPC, or for SOFTWARE behind the word there, and leaves the others' PCs; it clears
PARK and ACT and restores PRIV and STEP. Without a trap in progress at the level it traps PRIV; with no lane enabled only the PC advances. A RETT at level 2 of a system core whose group a trap took out of a world brings the
world and its registers back (assumption 14). -/
def Obligations.RettReturnsFromTheTrap : Prop := ∀ (s : State) (x : Ext),
  let c := s.ctx (.rett x) x
  let m := c.g.priv
  let r := c.g.tr m
  let back := fun (t : State) (tgt : DWord) =>
    let h := t.group c.gid
    (∀ l, l < 32 → (h.lane l).pc = if r.lanes.has l && (c.g.lane l).occupied then tgt else (c.g.lane l).pc) ∧
    h.act m = false ∧ (h.tr m).park = 0 ∧ h.priv = r.priv.toNat ∧ h.step = r.tstat.getLsbD 2 ∧ (∀ k, k ≠ m → h.tr k = c.g.tr k) ∧
    (∀ l, (h.lane l).laOk = 0) ∧ (∀ l q, l < 32 → h.reg l q = c.g.reg l q) ∧ s.SameButTags t ∧ ∀ k, k ≠ c.gid → t.group k = s.group k
  (c.g.act m = false → exec (.rett x) s = .next (s.trapAt c cPriv c.at_ c.words)) ∧
  (c.g.act m = true → c.en = 0 → ∃ t, exec (.rett x) s = .next t ∧ s.OnlyGroup t c.gid ∧ (t.group c.gid).act m = true ∧
    ∀ l, (c.g.lane l).loops = [] → ((t.group c.gid).lane l).pc = if c.at_.has l = true then c.next else (c.g.lane l).pc) ∧
  (c.g.act m = true → c.en ≠ 0 → (isSystem c.gid = false ∨ m ≠ 2 ∨ ∀ h ∈ s.hosts, h.core = coreOf c.gid → h.g.world = 0) →
    (r.cause.toNat ≠ 0x13 → ∃ t, exec (.rett x) s = .next t ∧ back t r.pc) ∧
    (r.cause.toNat = 0x13 → ∀ w u, s.fetchWord c.gid r.pc r.priv.toNat = .ok w u → ∃ t, exec (.rett x) s = .next t ∧ back t (r.pc + BitVec.ofNat 64 (lenOf w)))) ∧
  (∀ h, c.g.act m = true → c.en ≠ 0 → isSystem c.gid = true → m = 2 → s.hosts.find? (fun h => h.core == coreOf c.gid && h.g.world != 0) = some h →
    r.cause.toNat ≠ 0x13 → ∃ t, exec (.rett x) s = .next t ∧
      let k := t.group c.gid
      k.world = h.g.world ∧ k.act 2 = false ∧ k.priv = r.priv.toNat ∧ t.mem = s.mem ∧
      (∀ l, (k.lane l).pc = if r.lanes.has l && (c.g.lane l).occupied then r.pc else (c.g.lane l).pc) ∧
      ∀ l, (c.g.lane l).occupied = true → (∀ q, k.reg l q = h.g.reg l q) ∧ (k.lane l).p = (h.g.lane l).p)

/-! System registers, caches of translations, waiting. -/

/-- 06 R110, 02 R33: MFS reads the register of the lane into a pair at a level that may read it, and traps PRIV below; IPEND exists on system cores alone. -/
def Obligations.MfsReadsAtItsLevel : Prop := ∀ s : State,
  let mfs := fun (i : Instr) (x : Ext) =>
    let c := s.ctx i x
    (x.wval = 0x180 → isSystem c.gid = false → exec i s = .next (s.trapAt c cIllegal c.at_ c.words)) ∧
    ((x.wval = 0x180 → isSystem c.gid = true) →
      (c.g.priv < sysReadLevel x.wval → exec i s = .next (s.trapAt c cPriv c.at_ c.words)) ∧
      (sysReadLevel x.wval ≤ c.g.priv → Completes s i x [] .w64 x.d (fun c l => .v (s.sysRead c.gid l x.wval).toNat) false))
  (∀ d, mfs (.mfs d) (.ofBase 0x28 d .none .none)) ∧ ∀ x, mfs (.mfsX x) x

/-- 06 R110: MTS at a level that may write puts the value of the lowest enabled lane (for %fflag, TSCR0 and TSCR1 each lane's own) into the register's
writable bits, so that MFS reads them back; below the level it traps PRIV. 18 R321: of TSTAT only SSTEP is written, and not at level 0. 18 R322: a field
of TROUTE below its cause's least level takes the least level (R326), and that of INTEGRITY is always 3. 18 R334: a 1 written to MCLOG's top bits clears
them. 18 R336: bit 1 of an instruction breakpoint reads 0. General registers, memory and other groups stay. -/
def Obligations.MtsWritesReadBack : Prop := ∀ (s : State) (x : Ext) (l0 : Nat),
  let c := s.ctx (.mts x) x
  let n := x.wval
  let v := c.rd64 l0 x.a
  (n = 0x180 → isSystem c.gid = true) →
  (c.g.priv < sysWriteLevel n → exec (.mts x) s = .next (s.trapAt c cPriv c.at_ c.words)) ∧
  (sysWriteLevel n ≤ c.g.priv → c.chk [x.srcA 2] .none 0 = .ok → c.en.first = some l0 → ∃ t, exec (.mts x) s = .next t ∧
    let rd := fun l => (t.sysRead c.gid l n).toNat
    (n = 0x10 → ∀ l, rd l = v.toNat % 2 ^ 8) ∧ (n = 0x11 ∨ n = 0x13 ∨ n = 0x19 ∨ (0x1C0 ≤ n ∧ n ≤ 0x1FF) → ∀ l, rd l = v.toNat) ∧
    (n = 0x12 ∨ n = 0x1A ∨ n = 0x160 → ∀ l, rd l = v.toNat % 2 ^ 32) ∧ (n = 0x14 → ∀ l, rd l = v.toNat % 4) ∧ (n = 0x38 → ∀ l, rd l = v.toNat % 2 ^ 16) ∧
    (n = 0x01 → ∀ l, c.en.has l = true → rd l = (c.rd64 l x.a).toNat % 2 ^ 5) ∧
    (n = 0x16 ∨ n = 0x17 → ∀ l, c.en.has l = true → rd l = (c.rd64 l x.a).toNat) ∧
    (n = 0x15 → ∀ l, rd l = let old := (c.g.tr c.g.priv).tstat
      if c.g.priv = 0 then old.toNat else ((old &&& 0xFB#8) ||| (v.truncate 8 &&& 4#8)).toNat) ∧
    (n = 0x18 → ∀ l, rd l < 2 ^ 48 ∧ ∀ k, 1 ≤ k → k ≤ 24 →
      bitsOf (rd l) (2 * k - 1) (2 * k - 2) = if k = cIntegrity then 3 else max (bitsOf v.toNat (2 * k - 1) (2 * k - 2)) (leastLevel k)) ∧
    (0x30 ≤ n → n ≤ 0x33 → ∀ l i, (rd l).testBit i = (decide (i ≠ 1) && v.getLsbD i)) ∧
    (n = 0x39 → ∀ l i, (rd l).testBit i = ((s.sysRead c.gid l n).getLsbD i && !(decide (62 ≤ i) && v.getLsbD i))) ∧
    (0x20 ≤ n → n ≤ 0x23 → ∀ l, rd l = v.toNat / 4 * 4) ∧
    ((0x100 ≤ n ∧ n ≤ 0x13F) ∨ (0x144 ≤ n ∧ n ≤ 0x147) → ∀ l, rd l = v.toNat % 2 ^ 17) ∧
    (n = 0x00 → (t.group c.gid).aen = v.toNat / 2 ^ 16 % 32 ∧ (t.group c.gid).priv = c.g.priv ∧
      (t.group c.gid).step = (if c.g.priv = 0 then c.g.step else v.getLsbD 28) ∧
      bitsOf (t.group c.gid).gsw.toNat 10 8 = if v.toNat / 2 ^ 8 % 8 = 7 then 0 else v.toNat / 2 ^ 8 % 8) ∧
    (n = 0x180 → ∀ l, rd l = (s.sysRead c.gid l n &&& ~~~v).toNat) ∧
    (0x200 ≤ n → n ≤ 0x20F → ∀ l, rd l = if n = 0x200 ∨ n = 0x201 ∨ 0x208 ≤ n then 0 else (s.sysRead c.gid l n).toNat) ∧
    (∀ l r, l < 32 → (t.group c.gid).reg l r = if killedBy [x.srcA 2] r = true then 0 else c.g.reg l r) ∧ t.mem = s.mem ∧
    ∀ k, k ≠ c.gid → t.group k = s.group k)

/-- 06 R112, R113: IPF whose addresses are translated moves the PC alone, of all a program can see; FENCEI with no store of the group outstanding discards the core's L1I; WFI on a system core at level 1 or above
waits unless a wake came before, and a wake or its deadline ends it. -/
def Obligations.FetchFenceAndWaits : Prop := ∀ s : State,
  (let ipf := fun (i : Instr) (x : Ext) =>
     let c := s.ctx i x
     c.chk [x.srcA 2] .none 0 = .ok → (∀ l, c.en.has l = true → s.translate c.gid c.g.k.casid (c.rd64 l x.a).toNat .fetch c.g.priv ≠ .miss) →
       (s.ipfSectors c.gid (x.imm % 4) ((s.ipfBlocks c (fun l => (c.rd64 l x.a).toNat)).flatMap (fun b => [0, 1, 2, 3].map (fun k => b * 1024 + 256 * k)))).isSome = true →
       ∃ t, exec i s = .next t ∧ s.SameButTags t ∧ Advanced t c ∧ (c.en ≠ 0 → RegsKept t c [x.srcA 2]) ∧ t.reqs = s.reqs ∧
         (∀ l, ((t.group c.gid).lane l).p = (c.g.lane l).p ∧ ((t.group c.gid).lane l).fflag = (c.g.lane l).fflag) ∧ ∀ k, k ≠ c.gid → t.group k = s.group k
   (∀ a, ipf (.ipf a) (.ofBase 0x29 .none a .none)) ∧ ∀ x, ipf (.ipfX x) x) ∧
  (∀ x, let c := s.ctx (.fencei x) x
    c.en ≠ 0 → s.acqOut c.gid = false → (∀ r ∈ s.reqs, r.gid = c.gid → r.op ≠ .store) → ∃ t, exec (.fencei x) s = .next t ∧ (t.core (coreOf c.gid)).l1i = [] ∧ t.mem = s.mem ∧
      (t.group c.gid).issueNo = c.g.issueNo + 1 ∧ ∀ l, (c.g.lane l).loops = [] → ((t.group c.gid).lane l).pc = if c.at_.has l = true then c.next else (c.g.lane l).pc) ∧
  (let wfi := fun (i : Instr) (x : Ext) =>
     let c := s.ctx i x
     (isSystem c.gid = false → exec i s = .next (s.trapAt c cIllegal c.at_ c.words)) ∧
     (isSystem c.gid = true → c.g.priv = 0 → exec i s = .next (s.trapAt c cPriv c.at_ c.words)) ∧
     (isSystem c.gid = true → 1 ≤ c.g.priv → c.chk [x.srcA 2] .none 0 = .ok → ∀ l, c.en.first = some l →
       ∃ t, exec i s = .next t ∧ (if (s.core (coreOf c.gid)).wakeHeld = true
         then (t.core (coreOf c.gid)).wakeHeld = false ∧ (t.group c.gid).wait = c.g.wait ∧
           ∀ l, (c.g.lane l).loops = [] → ((t.group c.gid).lane l).pc = if c.at_.has l = true then c.next else (c.g.lane l).pc
         else (t.group c.gid).wait = .wfi (c.rd64 l x.a) ∧ s.OnlyGroup t c.gid))
   (∀ a, wfi (.wfi a) (.ofBase 0x2A .none a .none)) ∧ ∀ x, wfi (.wfiX x) x) ∧
  (∀ cid d, (s.group (cid * 32)).wait = .wfi d → isSystem (cid * 32) = true → ∃ t, exec (.wake cid) s = .next t ∧ s.OnlyGroup t (cid * 32) ∧ (t.group (cid * 32)).wait = .none) ∧
  (∀ cid, (∀ d, (s.group (cid * 32)).wait ≠ .wfi d) → isSystem (cid * 32) = true → ∃ t, exec (.wake cid) s = .next t ∧ (t.core cid).wakeHeld = true ∧ t.groups = s.groups) ∧
  ∀ gid d, (s.group gid).wait = .wfi d → d ≠ 0 → d.toNat ≤ s.clock → ∃ t, exec (.wfiDeadline gid) s = .next t ∧ s.OnlyGroup t gid ∧ (t.group gid).wait = .none

/-- 06 R114: TLBI at its level leaves no entry that it names in any core, quadrant or inbound TLB, and no cached non-leaf entry of a space named whole;
below its level it traps PRIV, and a space that the level does not control, or none that there is, traps PERMISSION. Kind 2 names the translations of the
issuer's world (log entry 34). 06 R114, 11 R223: GENB advances each named space's generation once and waits; when no request of the old generation is left
the new one is in D and the group goes on. That a space from 4096 on is none, and that TADDR is the identifier, is the model's choice (assumption 15). -/
def Obligations.TlbiAndGenbRetireTranslations : Prop :=
  (∀ s : State,
    let tlbi := fun (i : Instr) (x : Ext) =>
      let c := s.ctx i x
      let k := x.imm % 4
      let sp := fun l => (c.rd32 l x.b).toNat
      let bad := maskOf (fun l => c.en.has l && (if k = 2 then decide (4096 ≤ sp l) else c.g.foreign (sp l)))
      let srcs := if k = 0 then [x.srcA 2, x.srcB 1] else [x.srcB 1]
      (c.g.priv < (if k = 2 then 2 else 1) → exec i s = .next (s.trapAt c cPriv c.at_ c.words)) ∧
      ((if k = 2 then 2 else 1) ≤ c.g.priv → c.chk srcs .none 0 = .ok →
        (∀ l, bad.first = some l → exec i s = .next (s.trapAt c cPermission bad (BitVec.ofNat 64 (sp l)))) ∧
        (bad = 0 → c.en ≠ 0 → ∃ t, exec i s = .next t ∧ t.mem = s.mem ∧ ∀ l, c.en.has l = true →
          let named := fun (e : TlbEntry) => if k = 0 then e.covers (BitVec.ofNat 12 (sp l)) (c.rd64 l x.a).toNat else if k = 1 then e.asid == BitVec.ofNat 12 (sp l)
            else e.world == c.g.world || s.groups.any (fun p => p.2.resident && p.2.world == c.g.world && (e.asid == p.2.asid || e.asid == p.2.k.casid))
          (∀ cid, ∀ e ∈ (t.core cid).tlb, named e = false) ∧ (∀ d q, ∀ e ∈ Tab.get [] (t.die d).qtlb q, named e = false) ∧ (∀ d, ∀ e ∈ (t.io d).tlb, named e = false) ∧
          ∀ d, ∀ e ∈ (t.die d).wcache, (k = 1 → e.asid ≠ sp l) ∧ (k = 2 ∨ k = 3 → e.world ≠ c.g.world)))
    (∀ a b, tlbi (.tlbi a b) (.ofBase 0x2B .none a b)) ∧ ∀ x, tlbi (.tlbiX x) x) ∧
  (∀ s : State,
    (∀ x, let c := s.ctx (.genb x) x
      let sp := fun l => (c.rd32 l x.a).toNat
      (c.g.priv = 0 → exec (.genb x) s = .next (s.trapAt c cPriv c.at_ c.words)) ∧
      (1 ≤ c.g.priv → c.chk [x.srcA 1] x.d 1 = .ok → c.en ≠ 0 → (∀ l, c.en.has l = true → c.g.foreign (sp l) = false) →
        (s.bytesAhead (c.en.lanes.map sp).eraseDups = true → exec (.genb x) s = .next (s.stall c.gid)) ∧
        (s.bytesAhead (c.en.lanes.map sp).eraseDups = false → ∃ t, exec (.genb x) s = .next t ∧ t.mem = s.mem ∧
          (∀ a, (t.space a).gen = if c.en.lanes.any (fun l => sp l == a) then (s.space a).gen + 1 else (s.space a).gen) ∧
          ∃ vals old, (t.group c.gid).wait = .genb x.d vals old ∧ ∀ l, c.en.has l = true → (l, ((s.space (sp l)).gen + 1).zeroExtend 32) ∈ vals))) ∧
    ∀ (gid : Nat) (d : Opnd) (vals : List (Nat × Word)) (old : List (Nat × Nat)), (s.group gid).wait = .genb d vals old → (vals.map Prod.fst).Nodup →
      (∀ p ∈ vals, p.1 < 32) → s.genbDue gid = true →
      ∃ t, exec (.genbCompletion gid) s = .next t ∧ (t.group gid).wait = .none ∧ t.mem = s.mem ∧ (t.die (dieOf gid)).l2 = [] ∧ (t.core (coreOf gid)).l1d = [] ∧
        ∀ k, d = .v k → ∀ p ∈ vals, (t.group gid).reg p.1 k.val = p.2)

/-! Extended block, slots, full and empty bits, barriers. -/

/-- 08 R154 to R156: XACQ of no more than the group holds writes the bound 64 + size; a larger request waits in the core's queue until it is the oldest and
the pool holds enough, and its grant sets the block and writes the bound. 02 R35: on a system core it never waits. XREL and XSHR give registers back: they
read as zero, full, from then on. 18 R326: a request that the group may never make traps REG_BOUND. TADDR is then the size asked for (assumption 22); a
system core's block is all of its pool from reset on (assumption 84): model's choices. -/
def Obligations.ExtendedBlockGrowsAndShrinks : Prop := ∀ s : State,
  let size := fun (a : Word) => (a.toNat + 15) / 16 * 16
  let xacq := fun (i : Instr) (x : Ext) =>
    let c := s.ctx i x
    ∀ (l : Nat) (a : Word), c.chk [x.srcA 1] x.d 1 = .ok → c.en.first = some l → (∀ k, c.en.has k = true → c.rd32 k x.a = a) → a.toNat ≤ 128 →
      (size a ≤ c.g.ext → ∃ t, exec i s = .next t ∧ s.OnlyGroup t c.gid ∧ (t.group c.gid).ext = c.g.ext ∧
        ∀ k, c.en.has k = true → (t.group c.gid).Holds (c.g.lane k) k .w32 x.d (64 + c.g.ext)) ∧
      (c.g.ext < size a → isSystem c.gid = true → ∃ t, exec i s = .next t ∧ s.OnlyGroup t c.gid ∧ (t.group c.gid).ext = size a ∧
        ∀ k, c.en.has k = true → (t.group c.gid).Holds (c.g.lane k) k .w32 x.d (64 + size a)) ∧
      (c.g.ext < size a → isSystem c.gid = false → (c.g.k.xq = true ∨ size a ≤ c.g.k.ext) → ∃ t, exec i s = .next t ∧ (t.group c.gid).wait = .xacq (size a) x.d c.en ∧
        (t.core (coreOf c.gid)).xacqs = (s.core (coreOf c.gid)).xacqs ++ [c.gid] ∧ t.mem = s.mem) ∧
      (c.g.ext < size a → isSystem c.gid = false → c.g.k.xq = false → c.g.k.ext < size a → exec i s = .next (s.trapAt c cRegBound c.en (a.zeroExtend 64)))
  let shrink := fun (i : Instr) (x : Ext) (n : Nat) =>
    let c := s.ctx i x
    let m := min n c.g.ext
    s.runBusy c.gid (64 + m) (c.g.ext - m) = false → ∃ t, exec i s = .next t ∧ s.OnlyGroup t c.gid ∧ (t.group c.gid).ext = m ∧
      (∀ l r, l < 32 → 64 + m ≤ r → r < 64 + c.g.ext → (t.group c.gid).isEmpty r = false ∧ (t.group c.gid).reg l r = 0) ∧
      (∀ k, x.d = .v k → k.val < 64 + m → ∀ l, c.en.has l = true → (t.group c.gid).reg l k.val = BitVec.ofNat 32 (64 + m))
  (∀ d a, xacq (.xacq d a) (.ofBase 0x2C d a .none)) ∧ (∀ x, xacq (.xacqX x) x) ∧
  (∀ gid n d en, (s.group gid).wait = .xacq n d en → s.xacqDue gid = true → (s.group gid).ext ≤ n → ∃ t, exec (.xacqGrant gid) s = .next t ∧ (t.group gid).ext = n ∧
    (t.group gid).wait = .none ∧ gid ∉ (t.core (coreOf gid)).xacqs ∧ t.mem = s.mem ∧
    ∀ k, d = .v k → ∀ l, en.has l = true → (t.group gid).reg l k.val = BitVec.ofNat 32 (64 + n)) ∧
  (∀ x, (s.ctx (.xrel x) x).en ≠ 0 → shrink (.xrel x) x 0) ∧
  (∀ x l a, let c := s.ctx (.xshr x) x
    c.chk [x.srcA 1] x.d 1 = .ok → c.en.first = some l → (∀ k, c.en.has k = true → c.rd32 k x.a = a) → a.toNat ≤ 128 → shrink (.xshr x) x (size a))

/-- 08 R157, R158: OCLD fills a slot with a register of every lane and OCINV invalidates one slot or all; FESET and FECLR mark a run full or empty, FEWAIT
goes on once it is full; a run of FESET or FECLR beyond the bound traps REG_BOUND. -/
def Obligations.SlotsAndFullEmptyBits : Prop := ∀ (s : State) (x : Ext),
  (let c := s.ctx (.ocld x) x
   c.chk [(x.srcA 1).over laneList] .none 0 = .ok → c.en ≠ 0 → ∃ t, exec (.ocld x) s = .next t ∧ s.OnlyGroup t c.gid ∧
     let o := (t.group c.gid).slot (x.d.code - 0xC0)
     o.valid = true ∧ o.reg = x.a.code ∧ ∀ l < 32, Tab.get 0 o.vals l = c.rd32 l x.a) ∧
  (let c := s.ctx (.ocinv x) x
   c.en ≠ 0 → ∃ t, exec (.ocinv x) s = .next t ∧ s.OnlyGroup t c.gid ∧
     ∀ n < 8, ((t.group c.gid).slot n).valid = if x.d = .none ∨ n = x.d.code - 0xC0 then false else (c.g.slot n).valid) ∧
  (let mark := fun (i : Instr) (empty : Bool) =>
     let c := s.ctx i x
     let n := x.imm % 64 + 1
     c.en ≠ 0 → (c.g.bound < x.d.code + n → exec i s = .next (s.trapAt c cRegBound c.en (BitVec.ofNat 64 x.d.code))) ∧
       (x.d.code + n ≤ c.g.bound → s.runBusy c.gid x.d.code n = false → ∃ t, exec i s = .next t ∧ s.OnlyGroup t c.gid ∧
         ∀ r, (t.group c.gid).isEmpty r = if x.d.code ≤ r ∧ r < x.d.code + n then empty else c.g.isEmpty r)
   mark (.feset x) false ∧ mark (.feclr x) true) ∧
  (let c := s.ctx (.fewait x) x
   let n := x.imm % 64 + 1
   c.en ≠ 0 → x.d.code + n ≤ c.g.bound → (∀ i < n, c.g.isEmpty (x.d.code + i) = false) → ∃ t, exec (.fewait x) s = .next t ∧ s.OnlyGroup t c.gid ∧
     (t.group c.gid).issueNo = c.g.issueNo + 1 ∧ (∀ l, ((t.group c.gid).lane l).laOk = 0) ∧
     ∀ l, (c.g.lane l).loops = [] → ((t.group c.gid).lane l).pc = if c.at_.has l = true then c.next else (c.g.lane l).pc)

/-- 08 R160, R161: with every live lane at the barrier and enabled and its accesses performed, GBAR and GBARA count the group in once; GBAR, and GBARW after
an arrival, wait on the tree; when every group of the gang that does not drain has arrived, the phase completes: ARR clears, the count returns to 0 and the
waiting groups go on. 08 R162 to R164: an arrival of `cnt` on a row whose pending count is above it lowers the count; else the phase turns over and the
count returns to the expected one. Other rows stay. 08 R163 to R166: the barrier forms complete when the one enabled lane's row is aligned, inside the
group's scratchpad and (all but BINIT) tagged, and no access stands before an arrival. BINIT tags its row with the count, or untags and clears it; a wait
whose phase has not turned leaves the group waiting on rows; lanes whose row is not aligned trap MISALIGN, and then those outside the scratchpad or without
a tag trap PERMISSION together. The model's choices: the lanes of both PERMISSION checks trap together (assumption 24), an arrival waits at issue for the
group's accesses (35), a GBARW without an arrival ends no wait (89). -/
def Obligations.BarriersCountArriveAndWait : Prop :=
  (∀ s : State,
    let bar := fun (i : Instr) (x : Ext) (arrive wait : Bool) =>
      let c := s.ctx i x
      ∀ d w, isSystem c.gid = false → s.wireOf c.gid = some (d, w) →
        (c.en ≠ 0 → c.en ≠ c.at_ → exec i s = .next (s.trapAt c cUniform c.at_ 0)) ∧
        (c.en ≠ 0 → c.en = c.at_ → c.g.live &&& ~~~c.at_ ≠ 0 → exec i s = .next (s.trapAt c cMask (c.g.live &&& ~~~c.at_) 0)) ∧
        (c.en ≠ 0 → c.en = c.at_ → c.g.live &&& ~~~c.at_ = 0 → (arrive = true → c.g.arr = false → s.arrivalHeld c.gid = false) →
          ∃ t, exec i s = .next t ∧ t.mem = s.mem ∧ (t.group c.gid).arr = (c.g.arr || arrive) ∧
            (t.wire d w).arrivals = (s.wire d w).arrivals + (if arrive = true ∧ c.g.arr = false then 1 else 0) ∧
            (t.group c.gid).wait = if wait = true ∧ (c.g.arr || arrive) = true then .tree else c.g.wait)
    bar .gbar (.ofBase 0x34 .none .none .none) true true ∧ (∀ x, bar (.gbarX x) x true true ∧ bar (.gbara x) x true false ∧ bar (.gbarw x) x false true) ∧
    ∀ d w G, s.phaseDue d w = some G → ∃ t, exec (.phaseComplete d w) s = .next t ∧ t.mem = s.mem ∧ (t.wire d w).arrivals = 0 ∧
      ∀ q ∈ G.groups, (t.group q).arr = false ∧ ((s.group q).wait = .tree → (t.group q).wait = .none)) ∧
  (∀ (s : State) (cid off cnt : Nat),
    let v := s.row cid off
    let r := s.arrive cid off cnt false
    let u := r.2.2.row cid off
    r.1 = rowPhase v ∧ r.2.1 = decide (rowPending v ≤ cnt) ∧ rowExpected u = rowExpected v ∧
    (cnt < rowPending v → rowPending u = rowPending v - cnt ∧ rowPhase u = rowPhase v) ∧ (rowPending v ≤ cnt → rowPending u = rowExpected v ∧ rowPhase u = !rowPhase v) ∧
    (∀ c o, (c ≠ cid ∨ o < off ∨ off + 16 ≤ o) → Tab.get 0 (r.2.2.core c).spad o = Tab.get 0 (s.core c).spad o) ∧ r.2.2.mem = s.mem) ∧
  (∀ s : State,
    let form := fun (i : Instr) (x : Ext) (op : RowOp) =>
      let c := s.ctx i x
      let addr := fun l => (c.rd32 l x.a).toNat
      let tag := !(op == .init || op == .untag)
      c.chk (x.srcA 1 :: (if op = .untag then [] else [x.srcB 1])) (if op.result then x.d else .none) 1 = .ok →
      let fails := fun k => maskOf (fun l => c.en.has l && s.rowChk c.gid (addr l) tag == k)
      (∀ l, (fails 1).first = some l → exec i s = .next (s.trapAt c cMisalign (fails 1) (BitVec.ofNat 64 (addr l)))) ∧
      (fails 1 = 0 → ∀ l, (fails 2).first = some l → exec i s = .next (s.trapAt c cPermission (fails 2) (BitVec.ofNat 64 (addr l)))) ∧
      (∀ l cid off, c.en.lanes = [l] → s.rowChk c.gid (addr l) tag = 0 → s.spadAt c.gid (addr l) 16 = some (cid, off) →
        (op.arrives = true → s.arrivalHeld c.gid = false) → s.windowOut c.gid = false → ∃ t, exec i s = .next t ∧ t.mem = s.mem ∧
          let b := (c.rd32 l x.b).toNat
          let v := s.row cid off
          (op = .init → (t.core cid).tagged off = true ∧ rowPending (t.row cid off) = b % 2 ^ 16 ∧ rowExpected (t.row cid off) = b % 2 ^ 16 ∧ rowPhase (t.row cid off) = false) ∧
          (op = .untag → (t.core cid).tagged off = false ∧ t.row cid off = 0) ∧
          (op.arrives = true → t.row cid off = (s.arrive cid off b false).2.2.row cid off) ∧
          (op = .wait → (t.group c.gid).wait = if rowPhase v != bitAt b 0 then c.g.wait else .rows [⟨l, cid, off / 16, bitAt b 0, false, false⟩]) ∧
          (op = .test ∨ op = .arrive → (t.group c.gid).issueNo = c.g.issueNo + 1))
    (∀ a b, form (.binit a b) (.ofBase 0x35 .none a b) .init) ∧
    ∀ x, form (.binitX x) x (if bitAt x.imm 0 then .untag else .init) ∧ form (.barv x) x .arrive ∧ form (.bwait x) x .wait ∧ form (.barw x) x .arriveWait ∧ form (.btest x) x .test)

/-! Loads, stores, atomics. -/

/-- 06 R118 to R120, 13 R249, R252, 02 R28: a load whose enabled lanes all pass their checks sends one request a lane, in lane order (of 16 bytes of memory
one for each half, 12 R229), marks D's registers empty and goes on; LDS reads the scratchpad at issue. Memory stays. A load waits while an acquire is
outstanding. 06 R119, 18 R327: lanes whose address is no multiple of the size trap MISALIGN together, whatever the other lanes meet, with the lowest one's
address as TADDR. That dead sources are killed then too is the model's choice (assumption 37). -/
def Obligations.LoadsSendOneRequestALane : Prop :=
  (∀ s : State,
    let ld := fun (i : Instr) (x : Ext) (chk : Ctx → Nat → Nat → Nat → LaneChk) =>
      let c := s.ctx i x
      let n := x.wid.bytes
      let ea := fun l => wrapInt 64 ((c.rd64 l x.a).toNat + x.off)
      ∀ acc : Nat → LaneAcc, c.chk [x.srcA 2] x.d (regsOfBytes n) = .ok → c.en ≠ 0 →
        (s.acqOut c.gid = true → exec i s = .next (s.stall c.gid)) ∧
        (s.acqOut c.gid = false → (∀ p ∈ (s.die (dieOf c.gid)).l2, p.2.bad = false) →
          (∀ l, c.en.has l = true → chk c l (ea l) n = .ok (acc l)) → (∀ l, c.en.has l = true → (acc l).lane = l ∧ (acc l).ea = ea l) →
          ∃ t, exec i s = .next t ∧ t.mem = s.mem ∧ t.reqs = s.reqs ++ s.added t ∧ MarkedEmpty t c x.d n ∧ RegsKept t c [x.srcA 2] ∧ Advanced t c ∧
            (s.added t).map (fun r => (r.op, r.gid, r.dst, r.pa, r.va, r.width, r.members)) =
              c.en.lanes.flatMap (fun l => (accParts n (acc l).dev).map (fun p =>
                (.load, c.gid, if p.1 = 0 then x.d else upTwo x.d, (acc l).pa + p.1, BitVec.ofNat 64 (ea l + p.1), p.2, [⟨l, (c.g.lane l).gen, 0, 0⟩]))))
    (∀ d a, ld (.ld d a) (.ofBase 0x38 d a .none) (fun c l ea n => s.laneChk c l ea n .load)) ∧
    ∀ x, ld (.ldX x) x (fun c l ea n => s.laneChk c l ea n .load) ∧ ld (.ldw x) x (fun c l ea n => s.winChk c l ea n false) ∧
      (let c := s.ctx (.lds x) x
       let n := x.wid.bytes
       let ea := fun l => wrapInt 32 ((c.rd32 l x.a).toNat + x.off)
       ∀ at_ : Nat → Nat × Nat, c.chk [x.srcA 1] x.d (regsOfBytes n) = .ok → c.en ≠ 0 → s.acqOut c.gid = false → s.windowOut c.gid = false →
         (∀ l, c.en.has l = true → ea l % n = 0 ∧ s.spadAt c.gid (ea l) n = some (at_ l) ∧ (s.core (at_ l).1).spadBad (at_ l).2 n = false) →
         ∃ t r, exec (.lds x) s = .next t ∧ t.mem = s.mem ∧ t.reqs = s.reqs ++ [r] ∧ MarkedEmpty t c x.d n ∧ RegsKept t c [x.srcA 1] ∧ Advanced t c ∧
           r.op = .load ∧ r.gid = c.gid ∧ r.dst = x.d ∧ r.width = n ∧ r.performed = true ∧
           r.result = c.en.lanes.map (fun l => (l, BitVec.ofNat 128 (ofBytesLE ((s.core (at_ l).1).spadBytes (at_ l).2 n)))))) ∧
  (∀ (s : State) (x : Ext),
    let ld := fun (i : Instr) (srcs : List Src) (d : Opnd) (hold : Ctx → Bool) (chk : Ctx → Nat → Nat → Nat → LaneChk) =>
      let c := s.ctx i x
      let n := x.wid.bytes
      let ea := fun l => wrapInt 64 ((c.rd64 l x.a).toNat + x.off)
      let m := maskOf (fun l => c.en.has l && ea l % n != 0)
      ∀ l, m.first = some l → c.chk srcs d (regsOfBytes n) = .ok → hold c = false → (∀ k, c.en.has k = true → chk c k (ea k) n ≠ .miss) →
        ∃ u : State, exec i s = .next (u.trapAt c cMisalign m (BitVec.ofNat 64 (ea l))) ∧ u.mem = s.mem ∧ (∀ k, (u.core k).spad = (s.core k).spad) ∧
          ∀ l r, l < 32 → (u.group c.gid).reg l r = if killedBy srcs r = true then 0 else c.g.reg l r
    ld (.ldX x) [x.srcA 2] x.d (fun c => s.acqOut c.gid) (fun c l ea n => s.laneChk c l ea n .load) ∧
    ld (.ldw x) [x.srcA 2] x.d (fun c => s.acqOut c.gid) (fun c l ea n => s.winChk c l ea n false))

/-- 06 R118 to R120, 12 R230, R231, 13 R249, R252: a store whose enabled lanes all pass sends one request a lane with its data (of 16 bytes of memory one for each
half, 12 R229) and changes no byte of memory yet; STS writes the scratchpad at issue, in lane order, and nothing else there. -/
def Obligations.StoresSendTheirData : Prop := ∀ s : State,
  let st := fun (i : Instr) (x : Ext) (chk : Ctx → Nat → Nat → Nat → LaneChk) (writes : Ctx → Nat → Nat) (more : Ctx → Bool) =>
    let c := s.ctx i x
    let n := x.wid.bytes
    let srcs := [x.srcA 2, x.srcB (regsOfBytes n)]
    let ea := fun l => wrapInt 64 ((c.rd64 l x.a).toNat + x.off)
    ∀ acc : Nat → LaneAcc, c.chk srcs .none 0 = .ok → c.en ≠ 0 → s.holdStore c.gid x.ord x.scope (writes c n) = false → more c = false →
      (∀ l, c.en.has l = true → chk c l (ea l) n = .ok (acc l)) → (∀ l, c.en.has l = true → (acc l).lane = l ∧ (acc l).ea = ea l) →
      ∃ t, exec i s = .next t ∧ t.mem = s.mem ∧ RegsKept t c srcs ∧ Advanced t c ∧ (t.reqs.take s.reqs.length).map Req.id = s.reqs.map Req.id ∧
        (s.added t).map (fun r => (r.op, r.gid, r.pa, r.va, r.width, r.data)) =
          c.en.lanes.flatMap (fun l => (accParts n (acc l).dev).map (fun p =>
            (.store, c.gid, (acc l).pa + p.1, BitVec.ofNat 64 (ea l + p.1), p.2, partData n p (c.storeData x l n))))
  let each := fun (c : Ctx) (n : Nat) => c.en.lanes.length * halvesOf n
  (∀ a b, st (.st a b) (.ofBase 0x39 .none a b) (fun c l ea n => s.laneChk c l ea n .store) each (fun _ => false)) ∧
  ∀ x, st (.stX x) x (fun c l ea n => s.laneChk c l ea n .store) each (fun _ => false) ∧
    st (.stw x) x (fun c l ea n => s.winChk c l ea n true) (fun _ _ => 0) (fun c =>
      c.en.lanes.any (fun l => isLaunch (wrapInt 64 ((c.rd64 l x.a).toNat + x.off))) && s.outstanding c.gid .sys) ∧
    (let c := s.ctx (.sts x) x
     let n := x.wid.bytes
     let srcs := [x.srcA 1, x.srcB (regsOfBytes n)]
     let ea := fun l => wrapInt 32 ((c.rd32 l x.a).toNat + x.off)
     ∀ at_ : Nat → Nat × Nat, c.chk srcs .none 0 = .ok → c.en ≠ 0 → s.holdStore c.gid x.ord x.scope 0 = false → s.windowOut c.gid = false →
       (∀ l, c.en.has l = true → ea l % n = 0 ∧ s.spadAt c.gid (ea l) n = some (at_ l) ∧ (s.core (at_ l).1).tagged (at_ l).2 = false) →
       ∃ t, exec (.sts x) s = .next t ∧ t.mem = s.mem ∧ t.reqs = s.reqs ∧ RegsKept t c srcs ∧ Advanced t c ∧
         (∀ k o, (∀ l, c.en.has l = true → (at_ l).1 = k → o < (at_ l).2 ∨ (at_ l).2 + n ≤ o) → Tab.get 0 (t.core k).spad o = Tab.get 0 (s.core k).spad o) ∧
         (∀ l, c.en.has l = true → (∀ k, c.en.has k = true → l < k → (at_ k).1 = (at_ l).1 → (at_ k).2 + n ≤ (at_ l).2 ∨ (at_ l).2 + n ≤ (at_ k).2) →
           (t.core (at_ l).1).spadBytes (at_ l).2 n = bytesLE n (c.storeData x l n).toNat))

/-- 12 R238, 13 R249: when nothing stands before it, a request to memory is performed, and the accesses that its block carries with it (11 R217); else nothing
changes. A store is applied at its home: its bytes, least significant first, at its address and no other byte; a load takes the bytes there and changes none;
a request that the home refuses changes none. 13 R253, R255, R258: an atomic's members act one after another on the value at the address; each returns what
stood there before it, the last value stays, and no other byte changes. -/
def Obligations.HomeAppliesStoresLoadsAndAtomics : Prop := ∀ (s : State) (id : Nat) (r : Req) (h : Nat), s.req? id = some r → r.tgt = .mem h →
  let refusal := s.homeRefuses h r.lpa r.level r.asid r.gen r.world (r.isLoad || r.isAtomic)
  let plain := fun i => tagByte (r.lpa + i) = false ∨ ∀ x, s.sealedAt x = none
  let t := s.perform r
  (s.performable r = false → exec (.homePerform id) s = .next s) ∧
  (s.performable r = true → exec (.homePerform id) s =
    .next ((s.reqs.filter (fun q => q.follows && r.leads q)).foldl (fun s q => if s.performable q then s.perform q else s) t)) ∧
  (refusal.isSome = true → t.mem = s.mem) ∧
  (refusal = none → r.op = .store → s.SameBytesBut t r.lpa r.width ∧ t.groups = s.groups ∧
    ∀ i < r.width, plain i → t.byteAt (r.lpa + i) = BitVec.ofNat 8 (r.data.toNat / 256 ^ i)) ∧
  (refusal = none → r.op = .load → s.SameButTags t ∧ t.groups = s.groups ∧ ∀ q, t.req? id = some q →
    q.performed = true ∧ ((∀ i < r.width, plain i) → q.result = r.members.map (fun m => (m.lane, BitVec.ofNat 128 (s.numAt r.lpa r.width))))) ∧
  (refusal = none → ∀ op ty, r.op = .atomic op ty →
    let step := fun (st : Nat × List (Nat × BitVec 128)) (m : Member) =>
      ((atomNew op ty r.width st.1 m.b.toNat m.c.toNat).getD st.1, st.2 ++ [(m.lane, BitVec.ofNat 128 st.1)])
    let out := r.members.foldl step (s.numAt r.lpa r.width, [])
    s.SameBytesBut t r.lpa r.width ∧ t.groups = s.groups ∧ ∀ q, t.req? id = some q → q.performed = true ∧
      ((∀ i < r.width, plain i) → t.numAt r.lpa r.width = out.1 % 256 ^ r.width ∧ q.result = out.2))

/-- 13 R253 to R258, R241, R242: an atomic whose enabled lanes pass sends one request for each address, with that address's lanes in ascending order as its
members, and marks D empty. -/
def Obligations.AtomicsSendOneRequestAnAddress : Prop := ∀ s : State,
  let at_ := fun (i : Instr) (x : Ext) (op : AtomOp) (min : Nat) =>
    let c := s.ctx i x
    let n := x.wid.bytes
    let k := regsOfBytes n
    let srcs := [x.srcA 2, x.srcB k] ++ (if op = .cas then [x.srcC k] else [])
    let ea := fun l => wrapInt 64 ((c.rd64 l x.a).toNat + x.off)
    ∀ acc : Nat → LaneAcc, c.chk srcs x.d k = .ok → c.en ≠ 0 → s.holdStore c.gid x.ord x.scope c.en.lanes.length = false → (∀ l, c.en.has l = true → s.laneChk c l (ea l) n .atomic = .ok (acc l)) →
      ∃ t, exec i s = .next t ∧ t.mem = s.mem ∧ RegsKept t c srcs ∧ Advanced t c ∧ MarkedEmpty t c x.d n ∧ ((s.added t).map Req.va).Nodup ∧
        (∀ l, c.en.has l = true → ∃ r ∈ s.added t, r.va = BitVec.ofNat 64 (ea l) ∧
          ⟨l, (c.g.lane l).gen, c.atomOperand l x.b n, if op = .cas then c.atomOperand l x.c n else 0⟩ ∈ r.members) ∧
        ∀ r ∈ s.added t, r.op = .atomic op ((atomTy min x.wid x.cls).getD .s32) ∧ r.gid = c.gid ∧ r.dst = x.d ∧ r.width = n ∧
          (∀ m ∈ r.members, c.en.has m.lane = true ∧ BitVec.ofNat 64 (ea m.lane) = r.va) ∧ (r.members.map Member.lane).Pairwise (· < ·)
  (∀ d a b, at_ (.aadd d a b) (.ofBase 0x3A d a b) .add 0) ∧ ∀ x, at_ (.aaddX x) x .add 0 ∧ at_ (.amin x) x .min 1 ∧ at_ (.amax x) x .max 2 ∧ at_ (.aand x) x .and 3 ∧
    at_ (.aor x) x .or 4 ∧ at_ (.axor x) x .xor 5 ∧ at_ (.axch x) x .xch 6 ∧ at_ (.acas x) x .cas 7 ∧ at_ (.ainc x) x .inc 8 ∧ at_ (.adec x) x .dec 9 ∧
    at_ (.afadd x) x .fadd 10 ∧ at_ (.afmin x) x .fmin 11 ∧ at_ (.afmax x) x .fmax 12

/-- 02 R28, 07 R133, 12 R230, 16 R301: a performed load or atomic brings its data: lanes of the same generation take it, the registers become full, the
request is gone; a store that is acknowledged is gone; a load from a PCIe window that gets no data, that no function answers, or that is without a
completion 2^23 cycles after its issue brings all ones. The time is counted in cycles since reset, which no correction of the counter moves: the model's
choice (assumption 80). -/
def Obligations.ReturnsFillTheirRegisters : Prop := ∀ (s : State) (id : Nat) (r : Req), s.req? id = some r → r.performed = true →
  (r.op = .load → r.pa ≤ 2 ^ 64 → (∀ p, r.tgt ≠ .pcie p) → ∀ v, ∃ t, exec (.loadReturn id v) s = .next t ∧ Delivered s t r r.result) ∧
  (r.op = .load → r.pa ≤ 2 ^ 64 → ∀ p v, r.tgt = .pcie p → s.answers p r.pa = true → ∃ t, exec (.loadReturn id (some v)) s = .next t ∧
    Delivered s t r (r.members.map (fun m => (m.lane, BitVec.ofNat 128 (v.toNat % 256 ^ r.width))))) ∧
  (let ones := r.members.map (fun m => (m.lane, BitVec.ofNat 128 (256 ^ r.width - 1)))
   r.op = .load → ∀ p, r.tgt = .pcie p →
     (r.pa ≤ 2 ^ 64 → ∀ v, v = none ∨ s.answers p r.pa = false → ∃ t, exec (.loadReturn id v) s = .next t ∧ Delivered s t r ones) ∧
     (r.since + 2 ^ 23 ≤ s.cycles → ∃ t, exec (.completionTimeout id) s = .next t ∧ Delivered s t r ones) ∧
     (s.cycles < r.since + 2 ^ 23 → exec (.completionTimeout id) s = .next s)) ∧
  ((∃ op ty, r.op = .atomic op ty) → r.dst ≠ .none → ∃ t, exec (.atomicReturn id) s = .next t ∧ Delivered s t r r.result) ∧
  (r.op = .store → (∀ p, r.tgt ≠ .remote p) → ∃ t, exec (.storeAck id) s = .next t ∧ t.req? id = none ∧ t.mem = s.mem ∧ t.groups = s.groups) ∧
  (r.op = .store → ∀ p, r.tgt = .remote p → ∃ t, exec (.remoteWriteAck id true) s = .next t ∧ t.req? id = none ∧ t.mem = s.mem ∧ t.groups = s.groups)

/-- 12 R231, R232, 13 R261, R262: a FENCE that must wait changes nothing but the cycle from which the group is ready; else it goes on, an acquire of gang
scope or wider emptying the core's L1, a release holding the group's later stores until the requests before it are gone. 12 R240: one in the sequential order,
at row scope or wider, leaves no copy of other dies' sectors either. -/
def Obligations.FencesWaitAcquireAndRelease : Prop := ∀ s : State,
  let fence := fun (i : Instr) (x : Ext) =>
    let c := s.ctx i x
    c.en ≠ 0 → (s.fenceWaits c.gid x.ord x.scope = true → exec i s = .next (s.stall c.gid)) ∧
      (s.fenceWaits c.gid x.ord x.scope = false → ∃ t, exec i s = .next t ∧ t.mem = s.mem ∧ RegsKept t c [] ∧ Advanced t c ∧
        (x.ord ≠ .rel → 5 ≤ x.scope.rank → (t.core (coreOf c.gid)).l1d = []) ∧
        (x.ord = .rlx → 8 ≤ x.scope.rank → (t.die (dieOf c.gid)).l2 = []) ∧
        (x.ord = .rel ∨ x.ord = .ar → ∃ sc : Scope, (t.group c.gid).relBound = some (s.seq, sc) ∧ x.scope.rank ≤ sc.rank) ∧
        (x.ord ≠ .rel ∧ x.ord ≠ .ar → (t.group c.gid).relBound = c.g.relBound))
  fence .fence (.ofBase 0x3B .none .none .none) ∧ ∀ x, fence (.fenceX x) x

/-- 13 R264 to R268, 11 R220, R221: PREF binds nothing, CINV discards the sectors it names from the core's L1, CWB sends a request for each sector; CPIN gives
D the handle of a free window of the address's die and makes it valid, and sets none for operands it refuses or without a free window; CUNPIN releases it; a window that fades without a hit loses one count. -/
def Obligations.CacheControlAndLocketWindows : Prop := ∀ (s : State) (x : Ext),
  let ea := fun (c : Ctx) l => wrapInt 64 ((c.rd64 l x.a).toNat + x.off)
  let form := fun (i : Instr) (hold : Ctx → Bool) (chk : Ctx → Nat → Nat → LaneChk) (post : Ctx → (Nat → LaneAcc) → State → Prop) =>
    let c := s.ctx i x
    ∀ acc : Nat → LaneAcc, c.chk [x.srcA 2] .none 0 = .ok → c.en ≠ 0 → s.acqOut c.gid = false → hold c = false → (∀ l, c.en.has l = true → chk c l (ea c l) = .ok (acc l)) →
      ∃ t, exec i s = .next t ∧ t.mem = s.mem ∧ RegsKept t c [x.srcA 2] ∧ Advanced t c ∧ post c acc t
  form (.pref x) (fun _ => false) s.prefChk (fun _ _ t => ∀ r ∈ s.added t, r.op = .load ∧ r.members = [] ∧ r.dst = .none) ∧
  form (.cinv x) (fun _ => false) s.cacheChk (fun c acc t => t.reqs.length = s.reqs.length ∧ ∀ l, c.en.has l = true → Tab.find (t.core (coreOf c.gid)).l1d ((acc l).pa / 256) = none) ∧
  form (.cwb x) (fun c => s.relHeld c.gid) s.cacheChk (fun c acc t => (∀ l, c.en.has l = true → ∃ r ∈ s.added t, r.op = .cwb (x.scope == .sys) ∧ r.pa = (acc l).pa / 256 * 256 ∧ ∃ m ∈ r.members, m.lane = l)) ∧
  (let c := s.ctx (.cpin x) x
   ∀ l pa dev leaf b w, c.chk [x.srcA 2, x.srcB 1] x.d 1 = .ok → c.en.first = some l → s.acqOut c.gid = false →
     (∀ k, c.en.has k = true → ea c k = ea c l ∧ (c.rd32 k x.b).toNat = b) → s.translate c.gid c.g.asid (ea c l) .load c.g.priv = .ok pa dev leaf →
     pinOk b = true → ea c l % 2 ^ bitsOf b 7 2 = 0 → bitsOf b 7 2 ≤ leaf.sz → pa < 0x020000000000 → dev = false →
     (List.range 16).find? (fun w => !(Tab.get 0 (s.die (pa / 2 ^ 36)).lkctl w).getLsbD 0) = some w →
     ∃ t, exec (.cpin x) s = .next t ∧ t.mem = s.mem ∧ Advanced t c ∧ (Tab.get 0 (t.die (pa / 2 ^ 36)).lkctl w).getLsbD 0 = true ∧
       Tab.get 0 (t.die (pa / 2 ^ 36)).lkbase w = BitVec.ofNat 64 pa ∧
       (x.d ≠ .none → ∃ r, s.added t = [r] ∧ r.dst = x.d ∧ r.result = c.en.lanes.map (fun k => (k, BitVec.ofNat 128 (pa / 2 ^ 36 * 2 ^ 8 + w))))) ∧
  (let c := s.ctx (.cpin x) x
   ∀ l pa dev leaf b, c.chk [x.srcA 2, x.srcB 1] x.d 1 = .ok → c.en.first = some l → s.acqOut c.gid = false →
     (∀ k, c.en.has k = true → ea c k = ea c l ∧ (c.rd32 k x.b).toNat = b) → s.translate c.gid c.g.asid (ea c l) .load c.g.priv = .ok pa dev leaf →
     let bad := pinOk b = false ∨ ea c l % 2 ^ bitsOf b 7 2 ≠ 0 ∨ leaf.sz < bitsOf b 7 2 ∨ 0x020000000000 ≤ pa ∨ dev = true
     (bad ∨ (List.range 16).all (fun w => (Tab.get 0 (s.die (pa / 2 ^ 36)).lkctl w).getLsbD 0) = true) →
     ∃ t, exec (.cpin x) s = .next t ∧ t.mem = s.mem ∧ Advanced t c ∧ t.dies = s.dies ∧ (x.d ≠ .none → ∃ r v, s.added t = [r] ∧ r.dst = x.d ∧
       r.result = c.en.lanes.map (fun k => (k, v)) ∧ (bad → v = 0xFFFFFFFE#128) ∧ (¬bad → v = 0xFFFFFFFF#128))) ∧
  (let c := s.ctx (.cunpin x) x
   ∀ l d w, c.chk [x.srcA 1] .none 0 = .ok → c.en.first = some l → w < 16 → d < 32 → (∀ k, c.en.has k = true → (c.rd32 k x.a).toNat = d * 2 ^ 8 + w) →
     ((Tab.get 0 (s.die d).lkctl w).getLsbD 0 = true → bitsOf (Tab.get 0 (s.die d).lkctl w).toNat 15 8 = c.g.vdev.toNat) →
     ∃ t, exec (.cunpin x) s = .next t ∧ t.mem = s.mem ∧ Advanced t c ∧ (Tab.get 0 (t.die d).lkctl w).getLsbD 0 = false) ∧
  (∀ d w, (Tab.get 0 (s.die d).lkctl w).getLsbD 0 = true → ∃ t, exec (.locketFade d w) s = .next t ∧ t.mem = s.mem ∧
    let k := (Tab.get 0 (s.die d).lkctl w).toNat
    let u := (Tab.get 0 (t.die d).lkctl w).toNat
    (Tab.get false (s.die d).lkhit w = true → u = k ∧ Tab.get false (t.die d).lkhit w = false) ∧
    (Tab.get false (s.die d).lkhit w = false → bitsOf u 47 32 = bitsOf k 47 32 - 1 ∧ (bitAt u 0 = decide (1 < bitsOf k 47 32))))

/-! The matrix path. -/

/-- 09 R172, R174 to R178, R180: a matrix issue whose checks pass advances every lane and puts each enabled lane's row, with the address its A operand
translates to, its scale and its random bits, into a pass of its form, tile, formats, rounding, saturation, weight scale and B: one that this issue opens, or
one opened no more than 4 cycles before, of the same group, form, formats and B, that held no row of the lane's quarter. It does join one when the newest pass
is such a one and the group has no request on its way. Passes stay, with their rows, and take no other rows. No register, no byte of memory and no request
changes. -/
def Obligations.MatrixIssuesOpenPasses : Prop := ∀ (s : State) (x : Ext),
  let mat := fun (i : Instr) (k : PassKind) (kind : TileKind) =>
    let c := s.ctx i x
    let m := Ext.mmaX x k
    let named := fun (t : Nat) (p : Pass) => p.kind = k ∧ p.tile = t ∧ p.q.gid = c.gid ∧ p.af = m.af ∧ p.bf = m.bf ∧ p.sat = x.sat ∧ p.rnd = c.mode ∧
      p.wscale = if k = .mmaq then BitVec.ofNat 32 (c.rdLane m.wsl false m.scw) else 0
    ∀ (t : Nat) (strm : Nat → StreamChk) (pas : Nat → List Nat), isSystem c.gid = false → c.chk (c.mmaSrcs x k) .none 0 = .ok → c.en ≠ 0 →
      c.g.tileOf x.d = some t → s.ownsTile (coreOf c.gid) t c.g.ctxid = true → (s.tile (coreOf c.gid) t).kind = kind → c.unevenQuarters x m = 0 →
      (∀ l, c.en.has l = true → Tab.get false (s.tile (coreOf c.gid) t).bad l = false) → s.holdLoad c.gid = false →
      (∀ q < 4, c.quarter q ≠ 0 → strm q ≠ .refuse ∧ strm q ≠ .wait ∧
        strm q = if m.bs then s.streamChk c.gid k.bTile (c.rd32 ((c.quarter q).first.getD 0) x.b) else .ok []) →
      (∀ l, c.en.has l = true → s.mmaRow c x k m (strm (quarterOf l)) l = .ok (pas l)) →
      ∃ u, exec i s = .next u ∧ u.mem = s.mem ∧ u.reqs = s.reqs ∧ u.cores = s.cores ∧ RegsKept u c (c.mmaSrcs x k) ∧ Advanced u c ∧
        (∀ l, c.en.has l = true → ∃ p ∈ u.passes, named t p ∧ (m.bs = false → p.brows.map Prod.fst = (pas l).drop 1) ∧
          (∀ bs, strm (quarterOf l) = .ok bs → p.bdata = bs) ∧
          (∃ r ∈ p.rows, r.lane = l ∧ r.gen = (c.g.lane l).gen ∧ r.pc = c.pc ∧ r.src.map Prod.fst = [(pas l).headD 0] ∧
            r.scale = (if k = .mmaq then c.rd32 l m.sca else 0) ∧ r.rb = if c.mode = .rsr then c.rd32 l m.scw else 0) ∧
          (p.q.since = s.cycles ∨ ∃ o ∈ s.passes, o.q.id = p.q.id ∧ s.cycles ≤ o.q.since + 4 ∧ named t o ∧ o.brows = p.brows ∧ o.bdata = p.bdata ∧
            ∀ r ∈ o.rows, quarterOf r.lane ≠ quarterOf l)) ∧
        (∀ l o, c.en.has l = true → o ∈ s.passes → named t o → o.q.gen = (s.space c.g.asid.toNat).gen → o.q.level = c.g.priv →
          (∀ bs, strm (quarterOf l) = .ok bs → o.bdata = bs) →
          o.brows = (if m.bs then [] else (((pas l).drop 1).zip (List.range k.k)).map (fun p =>
            (p.1, BitVec.ofNat 64 ((c.rd64 l x.b).toNat + p.2 * ((c.rd32 l x.c).toNat % 65536))))) →
          s.cycles ≤ o.q.since + 4 → (∀ r ∈ o.rows, quarterOf r.lane ≠ quarterOf l) → (∀ y ∈ s.passes, y.q.id ≤ o.q.id) → (∀ r ∈ s.reqs, r.gid ≠ c.gid) →
          ∃ o2 ∈ s.passes, (∀ r ∈ o2.rows, quarterOf r.lane ≠ quarterOf l) ∧ ∃ p ∈ u.passes, p.q.id = o2.q.id ∧ ∃ r ∈ p.rows, r.lane = l) ∧
        (∀ o ∈ s.passes, ∃ p ∈ u.passes, p.q.id = o.q.id ∧ p.kind = o.kind ∧ p.tile = o.tile ∧ p.brows = o.brows ∧ p.bdata = o.bdata ∧ p.wscale = o.wscale ∧
          p.af = o.af ∧ p.bf = o.bf ∧ p.sat = o.sat ∧ p.rnd = o.rnd ∧ ∃ more, p.rows = o.rows ++ more) ∧
        ∀ p ∈ u.passes, ∀ r ∈ p.rows, (∃ o ∈ s.passes, r ∈ o.rows) ∨ (c.en.has r.lane = true ∧ r.src.map Prod.fst = [(pas r.lane).headD 0])
  mat (.mma x) .mma .f32 ∧ mat (.mmaq x) .mmaq .f32 ∧ mat (.mmai x) .mmai .s32

/-- 09 R168 to R171, R177: a form of MAJ 0x3C that names a tile is illegal on a system core; with an enabled lane it traps REG_BOUND when the group holds no
such tile, then ACC_NOT_OWNER, then ACC_TYPE, each with the enabled lanes and before any other effect; without one only the PC advances. TADDR of REG_BOUND
as the specifier code of acN is the model's choice (assumption 22). -/
def Obligations.TileFormsCheckTheirTile : Prop := ∀ (s : State) (x : Ext),
  let tile := fun (i : Instr) (srcs : Ctx → List Src) (d : Opnd) (n : Nat) (num : Opnd) (kind : TileKind → Bool) =>
    let c := s.ctx i x
    (isSystem c.gid = true → exec i s = .next (s.trapAt c cIllegal c.at_ c.words)) ∧
    (isSystem c.gid = false → c.chk (srcs c) d n = .ok →
      (c.en = 0 → ∃ u, exec i s = .next u ∧ Computed s u c 0 [] .none .none (fun _ => .v 0)) ∧
      (c.en ≠ 0 → c.g.tileOf num = none → exec i s = .next (s.trapAt c cRegBound c.en (BitVec.ofNat 64 num.code))) ∧
      ∀ t, c.en ≠ 0 → c.g.tileOf num = some t →
        (s.ownsTile (coreOf c.gid) t c.g.ctxid = false → exec i s = .next (s.trapAt c cAccOwner c.en (BitVec.ofNat 64 t))) ∧
        (s.ownsTile (coreOf c.gid) t c.g.ctxid = true → kind (s.tile (coreOf c.gid) t).kind = false →
          exec i s = .next (s.trapAt c cAccType c.en (BitVec.ofNat 64 t))))
  tile (.mma x) (fun c => c.mmaSrcs x .mma) .none 0 x.d (fun k => k == .f32) ∧ tile (.mmaq x) (fun c => c.mmaSrcs x .mmaq) .none 0 x.d (fun k => k == .f32) ∧
  tile (.mmai x) (fun c => c.mmaSrcs x .mmai) .none 0 x.d (fun k => k == .s32) ∧ tile (.acz x) (fun _ => []) .none 0 x.d (fun _ => true) ∧
  tile (.acld x) (fun _ => [x.srcA (if bitAt x.imm 4 then 1 else 2)]) .none 0 x.d (fun k => k == kindOf x.dty) ∧
  tile (.acmov x) (fun _ => []) x.d (x.imm / 32 + 1) x.a (fun k => k != .none) ∧ tile (.acst x) (fun c => c.acstSrcs x) .none 0 x.d (fun k => k != .none)

/-- 09 R176, R181, R182: a pass waits for the operations before it on its rows; then it is gone, no byte of memory, no register and no other tile or row has
changed. What it does with a row: the bytes of the row are read, an accumulator load puts its 32 words there, and an element of a quarter-op is what R176
computes from the A row, the column of B, and the old element: for MMAI the exact integer sum, wrapped or clamped. 09 R183: a pass of ACMOV sends the elements
of each row to the registers. -/
def Obligations.PassesComputeTheirRows : Prop := ∀ (s : State) (p : Pass),
  let cid := coreOf p.q.gid
  let elem := fun (t : State) (r j : Nat) => Tab.get 0 (t.tile cid p.tile).elems (r * 32 + j)
  (p ∈ s.passes → (∀ o ∈ s.passes, o.q.id = p.q.id → o = p) →
    (s.passReady p = false → exec (.passStart p.q.id) s = .next s) ∧
    (s.passReady p = true → ∃ t, exec (.passStart p.q.id) s = .next t ∧ s.SameButTags t ∧ t.passes = s.passes.filter (fun o => o.q.id != p.q.id) ∧
      (∀ k n, (k ≠ cid ∨ n ≠ p.tile) → t.tile k n = s.tile k n) ∧
      (∀ r j, r < 32 → j < 32 → (p.kind = .acmov ∨ ∀ row ∈ p.rows, row.lane ≠ r) → elem t r j = elem s r j) ∧
      (∀ g l r, l < 32 → (t.group g).reg l r = (s.group g).reg l r) ∧
      (p.kind = .acmov → t.mem = s.mem ∧ (t.reqs.drop s.reqs.length).map (fun r => (r.gid, r.members, r.width, r.performed, r.result)) =
        (List.range p.moves.2).map (fun i => (p.q.gid, p.q.members, 4, true, p.rows.map (fun r =>
          (r.lane, if p.moves.1 + i < 32 then (elem s r.lane (p.moves.1 + i)).zeroExtend 128 else 0#128))))) ∧
      (p.kind ≠ .acmov → ∀ bs u v, (if p.brows = [] then Pieces.ok p.bdata { s with passes := s.passes.filter (fun o => o.q.id != p.q.id) }
          else State.tfuReads { s with passes := s.passes.filter (fun o => o.q.id != p.q.id) } p.q p.kind.bRow p.brows) = .ok bs u →
        p.rows.foldl (fun o r => o.bind (fun w => State.passRow w p (.ok (p.columns bs)) r)) (some u) = some v → t = v))) ∧
  ∀ (row : PassRow) (cols : List (List Nat)) (bs : List Byte) (u : State), row.lane < 32 →
    (if row.src = [] then Pieces.ok row.data s else s.tfuReads p.q p.kind.aBytes row.src) = .ok bs u →
    ∃ t, s.passRow p (.ok cols) row = some t ∧ s.SameButTags t ∧ (∀ k n, (k ≠ cid ∨ n ≠ p.tile) → t.tile k n = s.tile k n) ∧
      (∀ r j, r < 32 → j < 32 → row.lane ≠ r → elem t r j = elem s r j) ∧ ∀ j < 32,
        let a := elems p.kind.elem p.kind.k bs
        let b := cols.getD j []
        (p.kind = .acld → elem t row.lane j = BitVec.ofNat 32 (ofBytesLE ((bs.drop (4 * j)).take 4))) ∧
        (p.kind ≠ .acld → elem t row.lane j =
          BitVec.ofNat 32 (p.elemOf row (if p.kind = .mmaq then scaleOf row.scale p.wscale else (0, 0)).1 a b (elem s row.lane j) j).1) ∧
        (p.kind = .mmai → elem t row.lane j = BitVec.ofNat 32 (Ty.s32.intResult p.sat (Ty.s32.readInt (elem s row.lane j).toNat +
          ((a.zip b).map (fun q => (if p.af then Ty.s8 else Ty.u8).readInt q.1 * (if p.bf then Ty.s8 else Ty.u8).readInt q.2)).sum)))

/-- 09 R183, R185 to R188: ACZ zeroes the rows of the enabled lanes under its kind; ACMOV marks its registers empty and opens the pass that copies elements of
each lane's row to them; ACLD opens one load of the rows, from memory or from the scratchpad; ALUT makes the image the core's table; ACST sends a lane's 32
drained outputs as bytes, 16 at a time, or writes them to the scratchpad row, raises their flags, and zeroes the row where asked. R187: an output is the chain of its
stages: an s32 value rounded to .f32 where a stage follows, the column's bias added, slope and intercept of the segment, and the requantisation of x × s + ZP,
each rounded once. The segment is floor((x - lo) × W) held to 0 and 255, 0 for a NaN, 255 or 0 where an infinite x makes it infinite. -/
def Obligations.TileFormsActOnTheirRows : Prop := ∀ (s : State) (x : Ext),
  let f := Fmt.f32
  (∀ (b : Tab Byte) (xb : Nat),
    let k := lutSegment b xb
    let X := f.decode xb
    let L := f.decode (lutWord b 0)
    let W := f.decode (lutWord b 8)
    let num := fun (n : Bool) (m : Nat) => if n then -(m : Int) else (m : Int)
    (X.isNan = true ∨ L.isNan = true ∨ W.isNan = true → k = 0) ∧
    (∀ n1 m1 e1 n2 m2 e2 nw mw ew, X = .fin n1 m1 e1 → L = .fin n2 m2 e2 → W = .fin nw mw ew →
      let q := min e1 e2
      let p := (num n1 (m1 * 2 ^ (e1 - q).toNat) - num n2 (m2 * 2 ^ (e2 - q).toNat)) * num nw mw
      (p ≤ 0 → k = 0) ∧ (0 < p → k = min 255 (if 0 ≤ q + ew then p.toNat * 2 ^ (q + ew).toNat else p.toNat / 2 ^ (-(q + ew)).toNat))) ∧
    (∀ n n2 m2 e2 nw mw ew, X = .inf n → L = .fin n2 m2 e2 → W = .fin nw mw ew → k = if mw = 0 ∨ n ≠ nw then 0 else 255)) ∧
  (∀ (c : Ctx) (y : Tile) (l j : Nat), l < 32 → j < 32 →
    let bias := bitAt x.imm 0
    let act := bitAt x.imm 1
    let acc : Word := Tab.get 0 y.elems (l * 32 + j)
    let b := Tab.get [] (s.core (coreOf c.gid)).luts (bitsOf x.imm 3 2)
    let x0 : Nat × Fl := if y.kind = .s32 ∧ (bias = true ∨ act = true ∨ x.dty ≠ .dflt) then f.round .rne false 0 acc.msb acc.toInt.natAbs 0 else (acc.toNat, 0)
    let x1 : Nat × Fl := if bias then f.sum .rne false 0 [.of (f.decode x0.1), .of (f.decode (c.rd32 j x.c).toNat)] else (x0.1, 0)
    let k := lutSegment b x1.1
    let x2 : Nat × Fl := if act then f.sum .rne false 0 [.mul (f.decode (lutWord b (0x10 + 8 * k))) (f.decode x1.1), .of (f.decode (lutWord b (0x14 + 8 * k)))] else (x1.1, 0)
    let zp : Int := toSigned 8 (bitsOf x.imm 15 8)
    let ts := [Term.mul (f.decode x2.1) (f.decode (c.rd32 l x.b).toNat), Term.of (.fin (decide (zp < 0)) zp.natAbs 0)]
    let v := exactSum c.mode ts
    let rb := rotRb (c.rb l) j
    let x3 : Nat × Fl := if x.dty = .dflt then (x2.1, 0) else if x.dty.isFloat then x.dty.fmt.sum c.mode x.sat rb ts
      else ((toIntTy x.dty c.mode x.sat rb v.1).1, v.2 ||| (toIntTy x.dty c.mode x.sat rb v.1).2)
    (s.drainRow c x y l).getD j (0, 0) = (x3.1, x0.2 ||| x1.2 ||| x2.2 ||| x3.2)) ∧
  let own := fun (c : Ctx) (num : Opnd) (t : Nat) => isSystem c.gid = false ∧ c.en ≠ 0 ∧ c.g.tileOf num = some t ∧ s.ownsTile (coreOf c.gid) t c.g.ctxid = true
  let sound := fun (c : Ctx) (t : Nat) => ∀ l, c.en.has l = true → Tab.get false (s.tile (coreOf c.gid) t).bad l = false
  let elem := fun (u : State) (k t r j : Nat) => Tab.get 0 (u.tile k t).elems (r * 32 + j)
  (let c := s.ctx (.acz x) x
   ∀ t, own c x.d t → s.rowsBusy (coreOf c.gid) t c.en = false → c.chk [] .none 0 = .ok →
     ∃ u, exec (.acz x) s = .next u ∧ u.mem = s.mem ∧ RegsKept u c [] ∧ Advanced u c ∧
     (u.tile (coreOf c.gid) t).kind = kindOf x.dty ∧ (u.tile (coreOf c.gid) t).own = (s.tile (coreOf c.gid) t).own ∧
     (∀ r j, r < 32 → j < 32 → elem u (coreOf c.gid) t r j = if c.en.has r = true then 0 else elem s (coreOf c.gid) t r j) ∧
     ∀ k n, (k ≠ coreOf c.gid ∨ n ≠ t) → u.tile k n = s.tile k n) ∧
  (let c := s.ctx (.acmov x) x
   let n := x.imm / 32 + 1
   ∀ t v, own c x.a t → sound c t → x.d = .v v → c.chk [] x.d n = .ok → (s.tile (coreOf c.gid) t).kind ≠ .none →
     ∃ u p, exec (.acmov x) s = .next u ∧ u.mem = s.mem ∧ u.reqs = s.reqs ∧ u.cores = s.cores ∧ u.passes = s.passes ++ [p] ∧ RegsKept u c [] ∧ Advanced u c ∧
       (∀ r, (u.group c.gid).isEmpty r = (decide (v.val ≤ r) && decide (r < v.val + n) || c.g.isEmpty r)) ∧
       p.kind = .acmov ∧ p.tile = t ∧ p.q.gid = c.gid ∧ p.q.dst = x.d ∧ p.rows.map PassRow.lane = c.en.lanes ∧
       (x.imm < 1024 → p.moves = (x.imm % 32, n))) ∧
  (let c := s.ctx (.acld x) x
   let ad := fun l => (c.rd64 l x.a).toNat
   ∀ t, own c x.d t → (s.tile (coreOf c.gid) t).kind = kindOf x.dty → s.holdLoad c.gid = false →
     (∀ pas : Nat → List Nat, bitAt x.imm 4 = false → c.chk [x.srcA 2] .none 0 = .ok → (∀ l, c.en.has l = true → s.memRow c (ad l) 128 .load = .ok (pas l)) →
       ∃ u p, exec (.acld x) s = .next u ∧ u.mem = s.mem ∧ u.passes = s.passes ++ [p] ∧ RegsKept u c [x.srcA 2] ∧ Advanced u c ∧ p.kind = .acld ∧ p.tile = t ∧
         p.q.gid = c.gid ∧ p.rows.map (fun r => (r.lane, r.src.map Prod.fst)) = c.en.lanes.map (fun l => (l, pas l))) ∧
     (∀ pas : Nat → List Nat, bitAt x.imm 4 = true → s.windowOut c.gid = false → c.chk [x.srcA 1] .none 0 = .ok →
       (∀ l, c.en.has l = true → s.spadRow c (c.rd32 l x.a).toNat 128 false = .ok (pas l)) →
       ∃ u p, exec (.acld x) s = .next u ∧ u.mem = s.mem ∧ u.passes = s.passes ++ [p] ∧ RegsKept u c [x.srcA 1] ∧ Advanced u c ∧ p.kind = .acld ∧ p.tile = t ∧
         p.q.gid = c.gid ∧ p.rows.map (fun r => (r.lane, r.src, r.data)) = c.en.lanes.map (fun l => (l, [], (List.range 8).flatMap (fun i =>
           let at_ := s.spadPiece c.gid ((c.rd32 l x.a).toNat + 16 * i)
           (s.core at_.1).spadBytes at_.2 16))))) ∧
  (let c := s.ctx (.alut x) x
   ∀ l pas bs u1, isSystem c.gid = false → c.chk [x.srcA 2] .none 0 = .ok → c.en.first = some l →
     allSame (c.en.lanes.map (fun k => c.rd64 k x.a)) = true → s.memRow c (c.rd64 l x.a).toNat 2064 .load = .ok pas → s.holdLoad c.gid = false →
     s.ownBefore c.gid s.seq .cb (pas.map (fun p => (p, 16))) = false →
     s.tfuReads (s.blankReq c 0) 16 ((pas.zip (List.range pas.length)).map (fun p => (p.1, BitVec.ofNat 64 ((c.rd64 l x.a).toNat + 16 * p.2)))) = .ok bs u1 →
     ∃ u, exec (.alut x) s = .next u ∧ s.SameButTags u ∧ RegsKept u c [x.srcA 2] ∧ Advanced u c ∧
       Tab.get 0 (u.core (coreOf c.gid)).lutown (x.imm % 4) = 1#1 ++ c.g.ctxid ∧ Tab.get 0 (u.group c.gid).lutsrc (x.imm % 4) = c.rd64 l x.a ∧
       ∀ i < bs.length, Tab.get 0 (Tab.get [] (u.core (coreOf c.gid)).luts (x.imm % 4)) i = bs.getD i 0) ∧
  (let c := s.ctx (.acst x) x
   let n := 32 * outBytes x.dty
   let out := fun t l => (s.drainRow c x (s.tile (coreOf c.gid) t) l).flatMap (fun o => bytesLE (outBytes x.dty) o.1)
   let raised := fun (u : State) (t : Nat) => ∀ l, c.en.has l = true → ((u.group c.gid).lane l).fflag =
     (c.g.lane l).fflag ||| (s.drainRow c x (s.tile (coreOf c.gid) t) l).foldl (fun f o => f ||| o.2) 0
   let left := fun (u : State) (t : Nat) => raised u t ∧ if bitAt x.imm 5 = true
     then (∀ r j, r < 32 → j < 32 → elem u (coreOf c.gid) t r j = if c.en.has r = true then 0 else elem s (coreOf c.gid) t r j) ∧
       ∀ k n, (k ≠ coreOf c.gid ∨ n ≠ t) → u.tile k n = s.tile k n
     else ∀ k n, u.tile k n = s.tile k n
   ∀ t, own c x.d t → sound c t → s.rowsBusy (coreOf c.gid) t c.en = false → c.chk (c.acstSrcs x) .none 0 = .ok → (s.tile (coreOf c.gid) t).kind ≠ .none →
     (bitAt x.imm 1 = true → Tab.get 0 (s.core (coreOf c.gid)).lutown (bitsOf x.imm 3 2) = 1#1 ++ c.g.ctxid) →
     s.holdStore c.gid .rlx .grp (c.en.lanes.length * (n / 16)) = false →
     (bitAt x.imm 4 = false → ∀ pas : Nat → List Nat, (∀ l, c.en.has l = true → s.memRow c (c.rd64 l x.a).toNat n .store = .ok (pas l)) →
       ∃ u, exec (.acst x) s = .next u ∧ u.mem = s.mem ∧ RegsKept u c (c.acstSrcs x) ∧ Advanced u c ∧ left u t ∧
         (s.added u).map (fun r => (r.op, r.gid, r.pa, r.width, r.data)) = c.en.lanes.flatMap (fun l =>
           ((pas l).zip (List.range (pas l).length)).map (fun p => (.store, c.gid, p.1, 16, valOf (((out t l).drop (16 * p.2)).take 16))))) ∧
     (bitAt x.imm 4 = true → s.windowOut c.gid = false → ∀ pas : Nat → List Nat,
       let at_ := fun l i => s.spadPiece c.gid ((c.rd32 l x.a).toNat + 16 * i)
       (∀ l, c.en.has l = true → s.spadRow c (c.rd32 l x.a).toNat n true = .ok (pas l)) →
       ∃ u, exec (.acst x) s = .next u ∧ u.mem = s.mem ∧ u.reqs = s.reqs ∧ RegsKept u c (c.acstSrcs x) ∧ Advanced u c ∧ left u t ∧
         ∀ l i, c.en.has l = true → i < n / 16 → (∀ k j, c.en.has k = true → j < n / 16 → (l < k ∨ l = k ∧ i < j) → (at_ k j).1 = (at_ l i).1 →
             (at_ k j).2 + 16 ≤ (at_ l i).2 ∨ (at_ l i).2 + 16 ≤ (at_ k j).2) →
           (u.core (at_ l i).1).spadBytes (at_ l i).2 16 = ((out t l).drop (16 * i)).take 16))

/-- 09 R194, 19 R353: ASPILL, AFILL and AOWN need level 2; ASPILL sends the image of the tile, AFILL takes a tile's elements, owner and kind from its image,
AOWN makes the group the tile's owner and with z = 1 zeroes it. -/
def Obligations.TileImagesAndOwners : Prop := ∀ (s : State) (x : Ext),
  let form := fun (i : Instr) (srcs : List Src) (num : Opnd) (post : Ctx → Nat → Nat → Prop) =>
    let c := s.ctx i x
    (isSystem c.gid = true → exec i s = .next (s.trapAt c cIllegal c.at_ c.words)) ∧
    (isSystem c.gid = false → c.g.priv < 2 → exec i s = .next (s.trapAt c cPriv c.at_ c.words)) ∧
    (isSystem c.gid = false → 2 ≤ c.g.priv → c.chk srcs .none 0 = .ok → ∀ l, c.en.first = some l →
      (63 < (c.rd32 l num).toNat → exec i s = .next (s.trapAt c cRegBound c.en ((c.rd32 l num).zeroExtend 64))) ∧
      ∀ t, (c.rd32 l num).toNat = t → t ≤ 63 → (c.g.priv = 3 ∨ (s.tile (coreOf c.gid) t).world = c.g.world) →
        s.rowsBusy (coreOf c.gid) t (BitVec.allOnes 32) = false → post c l t)
  form (.aown x) [x.srcA 1] x.a (fun c _ t => ∃ u, exec (.aown x) s = .next u ∧ u.mem = s.mem ∧ RegsKept u c [x.srcA 1] ∧ Advanced u c ∧
    (u.tile (coreOf c.gid) t).own = 1#1 ++ c.g.ctxid ∧ (u.tile (coreOf c.gid) t).recAddr = c.g.slotFor t ∧
    (bitAt x.imm 0 = true → (u.tile (coreOf c.gid) t).elems = [] ∧ (u.tile (coreOf c.gid) t).kind = .none) ∧
    (bitAt x.imm 0 = false → (u.tile (coreOf c.gid) t).elems = (s.tile (coreOf c.gid) t).elems ∧ (u.tile (coreOf c.gid) t).kind = (s.tile (coreOf c.gid) t).kind)) ∧
  form (.aspill x) [x.srcA 2, x.srcB 1] x.b (fun c l t => ∀ pas, s.memRow c (c.rd64 l x.a).toNat 4112 .store = .ok pas → s.holdStore c.gid .rlx .grp 257 = false →
    (s.tile (coreOf c.gid) t).bad.any (fun p => p.2) = false →
    ∃ u, exec (.aspill x) s = .next u ∧ u.mem = s.mem ∧ u.tile (coreOf c.gid) t = s.tile (coreOf c.gid) t ∧ RegsKept u c [x.srcA 2, x.srcB 1] ∧ Advanced u c ∧
      (s.added u).map (fun r => (r.op, r.gid, r.pa, r.width, r.data)) = (pas.zip (List.range pas.length)).map (fun p =>
        (.store, c.gid, p.1, 16, valOf (((s.tile (coreOf c.gid) t).image.drop (16 * p.2)).take 16)))) ∧
  form (.afill x) [x.srcA 2, x.srcB 1] x.b (fun c l t => ∀ pas bs u1, c.g.priv = 2 → s.memRow c (c.rd64 l x.a).toNat 4112 .load = .ok pas →
    s.holdLoad c.gid = false → s.ownBefore c.gid s.seq .cb (pas.map (fun p => (p, 16))) = false →
    s.tfuReads (s.blankReq c 0) 16 ((pas.zip (List.range pas.length)).map (fun p => (p.1, BitVec.ofNat 64 ((c.rd64 l x.a).toNat + 16 * p.2)))) = .ok bs u1 →
    ∃ u, exec (.afill x) s = .next u ∧ s.SameButTags u ∧ RegsKept u c [x.srcA 2, x.srcB 1] ∧ Advanced u c ∧
      (∀ r j, r < 32 → j < 32 → Tab.get 0 (u.tile (coreOf c.gid) t).elems (r * 32 + j) = BitVec.ofNat 32 (ofBytesLE ((bs.drop (4 * (r * 32 + j))).take 4))) ∧
      (let w := ofBytesLE ((bs.drop 4096).take 4)
       (u.tile (coreOf c.gid) t).own = BitVec.ofNat 17 w ∧ (u.tile (coreOf c.gid) t).kind = if bitsOf w 18 17 = 1 then .f32 else if bitsOf w 18 17 = 2 then .s32 else .none))

/-- 09 R189 to R193: OSOPEN takes the lowest free slot of the die and opens the stream there, or changes nothing; OSSUB subscribes at the floor or advances
a position; OSCLOSE closes the stream, whose generation advances, or ends the subscription; a stale handle traps PERMISSION. The reply fills D. The
distributor reads a tile once, or keeps why it could not. The model's choices: OSOPEN looks for a free slot before it checks the descriptor (assumption 61);
the effect comes at issue, in the lowest slot (62). -/
def Obligations.StreamsOpenSubscribeAndClose : Prop := ∀ s : State,
  let reply := fun (u : State) (c : Ctx) (d : Opnd) (v : Nat) => u.mem = s.mem ∧ Advanced u c ∧ (d = .none → u.reqs = s.reqs) ∧
    (d ≠ .none → MarkedEmpty u c d 4 ∧ ∃ r, u.reqs = s.reqs ++ [r] ∧ r.dst = d ∧ r.gid = c.gid ∧ r.performed = true ∧ r.result = c.en.lanes.map (fun l => (l, BitVec.ofNat 128 v)))
  let osopen := fun (i : Instr) (x : Ext) =>
    let c := s.ctx i x
    let die := dieOf c.gid
    ∀ l, isSystem c.gid = false → c.chk [x.srcA 2, x.srcB 1] x.d 1 = .ok → c.en.first = some l →
      (∀ k, c.en.has k = true → c.rd64 k x.a = c.rd64 l x.a ∧ c.rd32 k x.b = c.rd32 l x.b) →
      let b := (c.rd32 l x.b).toNat
      let ok : Prop := b % 65536 ≠ 0 ∧ b < 2 ^ 18 ∧ (c.rd64 l x.a).toNat % 256 = 0 ∧ b / 65536 < 2
      ((∀ k < 64, (s.stream die k).opened = true) → ∃ u, exec i s = .next u ∧ reply u c x.d 0xFFFFFFFF ∧ u.dies = s.dies) ∧
      ∀ k < 64, (s.stream die k).opened = false → (∀ j < k, (s.stream die j).opened = true) →
        (¬ ok → ∃ u, exec i s = .next u ∧ reply u c x.d 0xFFFFFFFE ∧ u.dies = s.dies) ∧
        (ok → ∃ u, exec i s = .next u ∧ reply u c x.d ((s.stream die k).gen.toNat * 64 + k) ∧ (∀ j, j ≠ k → u.stream die j = s.stream die j) ∧
          let y := u.stream die k
          y.opened = true ∧ y.gen = (s.stream die k).gen ∧ y.base = c.rd64 l x.a ∧ y.n = b % 65536 ∧ y.size = 2048 * (b / 65536 + 1) ∧ y.asid = c.g.asid ∧
          y.vdev = c.g.vdev ∧ y.floor = 0 ∧ y.subs = [] ∧ y.tiles = [])
  (∀ d a b, osopen (.osopen d a b) (.ofBase 0x3D d a b)) ∧ (∀ x, osopen (.osopenX x) x) ∧
  (∀ x, let c := s.ctx (.ossub x) x
    let die := dieOf c.gid
    let adv := bitAt x.imm 4
    ∀ l, isSystem c.gid = false → c.chk (x.srcA 1 :: (if adv then [x.srcB 1] else [])) x.d 1 = .ok → c.en.first = some l →
      (∀ k, c.en.has k = true → c.rd32 k x.a = c.rd32 l x.a ∧ (adv = true → c.rd32 k x.b = c.rd32 l x.b)) →
      let h := c.rd32 l x.a
      let k := h.toNat % 64
      let y := s.stream die k
      (s.handleOk c.gid (h.toNat % 65536) = false → exec (.ossub x) s = .next (s.trapAt c cPermission c.en (h.zeroExtend 64))) ∧
      (s.handleOk c.gid (h.toNat % 65536) = true →
        ((∀ v ∈ y.subs, v.gid ≠ c.gid) →
          (adv = true → exec (.ossub x) s = .next (s.trapAt c cPermission c.en (h.zeroExtend 64))) ∧
          (adv = false → y.subs.length < 256 → ∃ u, exec (.ossub x) s = .next u ∧ reply u c x.d y.floor ∧
            (u.stream die k).subs = y.subs ++ [⟨c.gid, x.imm % 16, y.floor⟩] ∧ (u.stream die k).floor = y.floor)) ∧
        (∀ v, y.subs.find? (fun w => w.gid == c.gid) = some v →
          (adv = false → ∃ u, exec (.ossub x) s = .next u ∧ reply u c x.d v.p ∧ (u.stream die k).floor = y.floor) ∧
          (adv = true → ∃ u, exec (.ossub x) s = .next u ∧ reply u c x.d (max v.p (min (c.rd32 l x.b).toNat y.n)) ∧
            ∀ t ∈ (u.stream die k).tiles, (u.stream die k).floor ≤ t.t)))) ∧
  (∀ x, let c := s.ctx (.osclose x) x
    let die := dieOf c.gid
    ∀ l, isSystem c.gid = false → c.chk [x.srcA 1] .none 1 = .ok → c.en.first = some l → (∀ k, c.en.has k = true → c.rd32 k x.a = c.rd32 l x.a) →
      let h := c.rd32 l x.a
      let k := h.toNat % 64
      (s.handleOk c.gid (h.toNat % 65536) = false → exec (.osclose x) s = .next (s.trapAt c cPermission c.en (h.zeroExtend 64))) ∧
      (s.handleOk c.gid (h.toNat % 65536) = true → ∃ u, exec (.osclose x) s = .next u ∧ u.mem = s.mem ∧ u.reqs = s.reqs ∧ Advanced u c ∧
        (bitAt x.imm 0 = true → (u.stream die k).opened = false ∧ (u.stream die k).gen = (s.stream die k).gen + 1) ∧
        (bitAt x.imm 0 = false → (u.stream die k).opened = true ∧ ∀ v ∈ (u.stream die k).subs, v.gid ≠ c.gid))) ∧
  (∀ id r, s.req? id = some r → r.op = .load → r.performed = true → r.pa = 2 ^ 64 + 1 → ∃ u, exec (.distributorReply id) s = .next u ∧ Delivered s u r r.result) ∧
  ∀ die k n, (s.tileReadable die k n = false → exec (.streamTileRead die k n) s = .next s) ∧
    (s.tileReadable die k n = true →
      let y := s.stream die k
      let out := s.engReadMem (s.streamAgent die y) (pieces 4096 (y.base.toNat + n * y.size) y.size)
      (∀ va s1, out = .error ((0, va), s1) → exec (.streamTileRead die k n) s = .next s) ∧
      ((∀ va s1, out ≠ .error ((0, va), s1)) → ∃ u, exec (.streamTileRead die k n) s = .next u ∧ s.SameButTags u ∧ u.tileReadable die k n = false ∧
        (u.stream die k).subs = y.subs ∧ (∀ t ∈ y.tiles, t ∈ (u.stream die k).tiles) ∧ (∀ bs s1, out = .ok (bs, s1) → ⟨n, bs, none⟩ ∈ (u.stream die k).tiles) ∧
        ∀ c va s1, out = .error ((c, va), s1) → ⟨n, [], some (BitVec.ofNat 8 c, BitVec.ofNat 64 va)⟩ ∈ (u.stream die k).tiles))

/-! Queues and engines. -/

/-- 15 R275, R280 to R282, R289 to R292: the forms that name a queue trap UNIFORM_DIV and PERMISSION, else: CQADV hands its batch to the queue, raises its
counter and empties D; CQWAIT waits for the outstanding batches and gives CSEQ; CQSEQ gives CSEQ or HSEQ; DCWAIT waits for its counter; TREADY sets or
clears Lattice bits, of which one set in the same cycle stays; CQPUT stores an entry and its link and moves QLAST. 15 R293: a bit that the core itself set
in the cycle of a clear stays set. -/
def Obligations.QueueFormsActOnTheirQueue : Prop := ∀ s : State,
  let form := fun (i : Instr) (x : Ext) (srcs : List Src) (n : Nat) (same : Ctx → Nat → Nat → Prop) (post : Ctx → Nat → Nat → Prop) =>
    let c := s.ctx i x
    c.chk srcs x.d n = .ok →
      (c.en = 0 → ∃ u, exec i s = .next u ∧ Computed s u c 0 [] .none .none (fun _ => .v 0)) ∧
      ∀ l, c.en.first = some l →
        ((∃ k, c.en.has k = true ∧ ¬ (c.rd32 k x.a = c.rd32 l x.a ∧ same c k l)) → exec i s = .next (s.trapAt c cUniform c.en 0)) ∧
        ((∀ k, c.en.has k = true → c.rd32 k x.a = c.rd32 l x.a ∧ same c k l) → ∀ q, (c.rd32 l x.a).toNat = q →
          (s.queueBars c q = true → exec i s = .next (s.trapAt c cPermission c.en (BitVec.ofNat 64 q))) ∧ (s.queueBars c q = false → post c l q))
  let sameB := fun (x : Ext) (c : Ctx) k l => c.rd32 k x.b = c.rd32 l x.b
  let cqadv := fun (i : Instr) (x : Ext) => form i x [x.srcA 1, x.srcB 1] 2 (sameB x) (fun c l q =>
    let cid := coreOf c.gid
    let n := (c.rd32 l x.b).toNat
    let dc := (Tab.get 0 c.g.dc (x.imm % 4)).toNat
    (bitAt x.imm 2 = true → n ≤ 63 → 63 < dc + n → exec i s = .next (s.stall c.gid)) ∧
    (s.outstanding c.gid (qScope (s.queue cid q)) = true → exec i s = .next (s.stall c.gid)) ∧
    (s.outstanding c.gid (qScope (s.queue cid q)) = false → s.acqOut c.gid = false → s.relHeld c.gid = false → (bitAt x.imm 2 = true → n ≤ 63 → dc + n ≤ 63) →
      ∃ u, exec i s = .next u ∧ u.mem = s.mem ∧ RegsKept u c [x.srcA 1, x.srcB 1] ∧ Advanced u c ∧ MarkedEmpty u c x.d 8 ∧
        (let cnt := if bitAt x.imm 2 then some (x.imm % 4) else none
         u.queue cid q = { s.queue cid q with advs := (s.queue cid q).advs ++ [⟨c.gid, s.seq, n, cnt, x.d, c.en, c.g.priv⟩] }) ∧
        ∀ k, (Tab.get 0 (u.group c.gid).dc k).toNat = if bitAt x.imm 2 = true ∧ n ≤ 63 ∧ k = x.imm % 4 then dc + n else (Tab.get 0 c.g.dc k).toNat))
  (∀ d a b, cqadv (.cqadv d a b) (.ofBase 0x3E d a b)) ∧ (∀ x, cqadv (.cqadvX x) x) ∧
  (∀ x, form (.cqwait x) x [x.srcA 1, x.srcB 1] 2 (sameB x) (fun c l q =>
    let y := s.queue (coreOf c.gid) q
    ((c.rd32 l x.b).toNat < y.batches → exec (.cqwait x) s = .next (s.stallWait c.gid)) ∧
    (y.batches ≤ (c.rd32 l x.b).toNat → ∃ u, exec (.cqwait x) s = .next u ∧ u.mem = s.mem ∧ Advanced u c ∧ u.queue (coreOf c.gid) q = y ∧
      (∀ k, c.en.has k = true → (u.group c.gid).Holds (c.g.lane k) k .w64 x.d y.cseq.toNat) ∧
      (5 ≤ (qScope y).rank → (u.core (coreOf c.gid)).l1d = [])))) ∧
  (∀ x, form (.cqseq x) x [x.srcA 1] 2 (fun _ _ _ => True) (fun c _ q =>
    let y := s.queue (coreOf c.gid) q
    ∃ u, exec (.cqseq x) s = .next u ∧ Computed s u c c.en [x.srcA 1] .w64 x.d (fun _ => .v (if bitAt x.imm 0 then y.hseq.toNat else y.cseq.toNat)) false)) ∧
  (∀ x, let c := s.ctx (.dcwait x) x
    c.chk [x.srcA 1] .none 0 = .ok → ∀ l, c.en.first = some l →
      ((∃ k, c.en.has k = true ∧ c.rd32 k x.a ≠ c.rd32 l x.a) → exec (.dcwait x) s = .next (s.trapAt c cUniform c.en 0)) ∧
      ((∀ k, c.en.has k = true → c.rd32 k x.a = c.rd32 l x.a) →
        ((c.rd32 l x.a).toNat < (Tab.get 0 c.g.dc (x.imm % 4)).toNat → exec (.dcwait x) s = .next (s.stallWait c.gid)) ∧
        ((Tab.get 0 c.g.dc (x.imm % 4)).toNat ≤ (c.rd32 l x.a).toNat →
          ∃ u, exec (.dcwait x) s = .next u ∧ u.mem = s.mem ∧ RegsKept u c [x.srcA 1] ∧ Advanced u c ∧ (u.group c.gid).dc = c.g.dc))) ∧
  (∀ x, let c := s.ctx (.tready x) x
    c.chk [x.srcA 1] .none 0 = .ok → c.en ≠ 0 →
      (s.outstanding c.gid .die = true → exec (.tready x) s = .next (s.stall c.gid)) ∧
      (s.outstanding c.gid .die = false → ∃ u, exec (.tready x) s = .next u ∧ u.mem = s.mem ∧ RegsKept u c [x.srcA 1] ∧ Advanced u c ∧
        ∀ t < 128, (u.core (coreOf c.gid)).lattice.getLsbD t =
          let k := s.core (coreOf c.gid)
          if c.en.lanes.any (fun l => (c.rd32 l x.a).toNat % 128 == t) = true then !bitAt x.imm 0 || (k.latticeSet.1 == s.cycles && k.latticeSet.2.getLsbD t) else (s.core (coreOf c.gid)).lattice.getLsbD t)) ∧
  ∀ x, form (.cqput x) x [x.srcA 1, x.srcB 2, (x.srcC 4).over [0, 1, 2, 3]] 0 (fun c k l => c.rd64 k x.b = c.rd64 l x.b) (fun c l q =>
    let b := (c.rd64 l x.b).toNat
    let link := a64 ((s.queue (coreOf c.gid) q).qlast.toNat + 8)
    (b % 64 ≠ 0 → exec (.cqput x) s = .next (s.trapAt c cMisalign c.en (BitVec.ofNat 64 b))) ∧
    ∀ p1 p2, b % 64 = 0 → s.holdStore c.gid .rlx .grp 9 = false → s.laneChk c l b 16 .store = .ok p1 → s.laneChk c l link 8 .store = .ok p2 → s.passReads c.gid p1.pa 64 = false →
      ∃ u, exec (.cqput x) s = .next u ∧ u.mem = s.mem ∧ RegsKept u c [x.srcA 1, x.srcB 2, (x.srcC 4).over [0, 1, 2, 3]] ∧ Advanced u c ∧
        u.queue (coreOf c.gid) q = { s.queue (coreOf c.gid) q with qlast := BitVec.ofNat 64 b } ∧
        (s.added u).map (fun r => (r.op, r.gid, r.pa, r.width, r.data)) =
          [0, 1, 2, 3].flatMap (fun i => (accParts 16 p1.dev).map (fun p => (.store, c.gid, p1.pa + 16 * i + p.1, p.2, partData 16 p (c.putRow i)))) ++ [(.store, c.gid, p2.pa, 8, BitVec.ofNat 128 b)])

/-- 15 R276, R282, R283, R286 to R298: a decided batch is accepted whole, its entries behind the others, or refused with its reason, its counter lowered again
and D = 0, or waits for a write that it must see; the head begins when its inputs and fence let it, its generation taken then (assumption 93), and runs and completes in
one step (assumption 49), in order, CSEQ rising by one, its output tiles ready and its counter lower, and CSEQ stands at QCW when that is not 0; a fault, of
that write too, halts the queue, aborting what it held; a miss counts, or is pending in its group; clearing HALT clears FCAUSE, and CLRC clears the counts. -/
def Obligations.BatchesEntriesAndHalts : Prop := ∀ (s : State) (cid q : Nat),
  let x := s.queue cid q
  let halted := fun (u : State) (cause addr : Nat) =>
    let y := u.queue cid q
    y.entries = [] ∧ y.hseq = y.cseq ∧ qHalt y = true ∧ bitsOf y.qstat.toNat 31 24 = cause % 256 ∧ y.qfaddr = BitVec.ofNat 64 addr
  (∀ adv rest, x.advs = adv :: rest → s.settled (coreDie cid) = true → adv.gid < 2 ^ 20 →
    let g := s.group adv.gid
    let a : Agent := { cid := cid, q := q, asid := qAsid x, level := adv.level, vdev := BitVec.ofNat 8 (qVdev x), ctxid := g.ctxid, world := g.world, gen := (s.space (qAsid x)).gen, own := false }
    let dHolds := fun (u : State) (v : Nat) => ∀ k, adv.d = .v k → (∀ l < 32, adv.en.has l = true → (u.group adv.gid).reg l k.val = BitVec.ofNat 32 v ∧
      (u.group adv.gid).reg l (k.val + 1) = BitVec.ofNat 32 (v / 2 ^ 32)) ∧ (u.group adv.gid).isEmpty k.val = false ∧ (u.group adv.gid).isEmpty (k.val + 1) = false
    ((x.qctl.getLsbD 0 = false ∨ qHalt x = true) → s.decideBatch a adv = .error (1, s)) ∧
    (x.qctl.getLsbD 0 = true → qHalt x = false → (adv.n < 1 ∨ 256 < adv.n) → s.decideBatch a adv = .error (2, s)) ∧
    (∀ r, s.decideBatch a adv = .error (0, r) → exec (.batchDecision cid q) s = .next s) ∧
    (∀ reason r, s.decideBatch a adv = .error (reason, r) → reason ≠ 0 → ∃ u, exec (.batchDecision cid q) s = .next u ∧ s.SameButTags u ∧ dHolds u 0 ∧
      (u.queue cid q).advs = rest ∧ (u.queue cid q).entries = (r.queue cid q).entries ∧ (u.queue cid q).hseq = (r.queue cid q).hseq ∧
 bitsOf (u.queue cid q).qstat.toNat 23 16 = reason % 256 ∧
      ∀ n, adv.cnt = some n → adv.n ≤ 63 → Tab.get 0 (u.group adv.gid).dc n = Tab.get 0 (r.group adv.gid).dc n - BitVec.ofNat 6 adv.n) ∧
    (∀ es s1, s.decideBatch a adv = .ok (es, s1) → ∃ u, exec (.batchDecision cid q) s = .next u ∧ s.SameButTags u ∧ (u.queue cid q).advs = rest ∧
      (u.queue cid q).entries.map (fun e => (e.addr, e.promise)) = x.entries.map (fun e => (e.addr, e.promise)) ++ es.map (fun e => (BitVec.ofNat 64 e.1, e.2.2)) ∧
      (u.queue cid q).hseq = x.hseq + BitVec.ofNat 64 es.length ∧ (u.queue cid q).cseq = x.cseq ∧ (u.group adv.gid).dc = g.dc ∧
      ∀ e, es.getLast? = some e → dHolds u e.2.2 ∧ (u.queue cid q).qprev = BitVec.ofNat 64 e.1)) ∧
  (s.beginDue cid q = false → exec (.entryBegin cid q) s = .next s) ∧
  (∀ e r, x.entries = e :: r → s.beginDue cid q = true → ∃ u, exec (.entryBegin cid q) s = .next u ∧ u.mem = s.mem ∧
    (e.fenceFault = none → u.queue cid q = { x with entries := { e with begun := true, gen := (s.space (qAsid x)).gen } :: r, regs := [] }) ∧ (∀ c, e.fenceFault = some c → halted u c.toNat e.addr.toNat)) ∧
  (∀ e r, let m := s.misses cid q
    (m.queue cid q).entries = e :: r → m.engineDue cid q = true →
    (∀ a s1, m.runHead cid q e = .error ((0, a), s1) → exec (.entryComplete cid q) s = .next s) ∧
    (∀ c a s1, m.runHead cid q e = .error ((c, a), s1) → c ≠ 0 → ∃ u, exec (.entryComplete cid q) s = .next u ∧ halted u c a) ∧
    (∀ s1, m.runHead cid q e = .ok s1 → (s1.queue cid q).entries = e :: r → ∃ u : State, u.mem = s1.mem ∧
      (u.queue cid q).cseq = (s1.queue cid q).cseq + 1 ∧ (u.queue cid q).entries = (e :: r).filter (fun d => d.seq != e.seq) ∧
      (∀ t < 128, (u.core cid).lattice.getLsbD t = ((s1.core cid).lattice.getLsbD t || e.outputs.any (fun k => k == t))) ∧
      (∀ n, e.dc = some n → e.gid < 2 ^ 20 → Tab.get 0 (u.group e.gid).dc n = Tab.get 0 (s1.group e.gid).dc n - 1) ∧
      let cw := (s1.queue cid q).qcw
      let v := ((s1.queue cid q).cseq + 1).toNat
      let a := e.agent cid q (u.queue cid q)
      let w := u.engWrite a 0 cw.toNat (bytesLE 8 v) true
      (cw = 0 → exec (.entryComplete cid q) s = .next u) ∧
      (cw ≠ 0 → (∀ va t, w = .error ((0, va), t) → exec (.entryComplete cid q) s = .next s) ∧
        (∀ c va t, w = .error ((c, va), t) → c ≠ 0 → ∃ h, exec (.entryComplete cid q) s = .next h ∧ halted h c va) ∧
        ∀ t, w = .ok t → exec (.entryComplete cid q) s = .next t ∧ ∀ pa x, (u.nextNum a.die).2.engPiece a cw.toNat .store = .ok (pa, x) → cw.toNat % 8 = 0 →
          pa < 0x020000000000 → ((∀ i < 8, tagByte (pa + i) = false) ∨ ∀ x, s.sealedAt x = none) → t.numAt pa 8 = v ∧ u.SameBytesBut t pa 8))) ∧
  ((∀ e ∈ x.entries, e.missed = true ∨ s.clock ≤ e.dueBy) → s.misses cid q = s) ∧
  (∀ e r s1, x.entries = e :: r → s.engineDue cid q = true → bitsOf (e.w 6) 7 4 = 1 → e.done < unitsOf e.w → s.runHead cid q e = .ok s1 →
    (s1.queue cid q).entries = x.entries → ∃ u, exec (.engineWindowWrite cid q) s = .next u ∧ u.mem = s1.mem ∧ u.groups = s1.groups ∧
      ∃ d ∈ (u.queue cid q).entries, d = { e with done := unitsOf e.w }) ∧
  (∀ cause addr, (x.entries = [] → exec (.queueHalt cid q cause addr) s = .next s) ∧
    (x.entries ≠ [] → ∃ u, exec (.queueHalt cid q cause addr) s = .next u ∧ u.mem = s.mem ∧ halted u cause.toNat addr.toNat ∧ (u.queue cid q).cseq = x.cseq)) ∧
  (s.missOf cid q = none → exec (.promiseMiss cid q) s = .next s) ∧
  (∀ e, s.missOf cid q = some e → ∃ u, exec (.promiseMiss cid q) s = .next u ∧ u.mem = s.mem ∧
    (∀ d ∈ (u.queue cid q).entries, d.seq = e.seq → d.missed = true) ∧
    (entW (e.w 0) = false → bitsOf (u.queue cid q).qstat.toNat 63 48 = min 0xFFFF (bitsOf x.qstat.toNat 63 48 + 1) ∧ u.groups = s.groups) ∧
    (entW (e.w 0) = true → e.gid < 2 ^ 20 → (s.group e.gid).status = .running → (s.group e.gid).pend.promise = none → (s.group e.gid).inPromise = false →
      (u.group e.gid).pend.promise = some (e.addr, cid * 8 + q) ∧ (u.queue cid q).qstat = x.qstat)) ∧
  (∃ u, exec (.qstatClrc cid q) s = .next u ∧ u.mem = s.mem ∧ u.groups = s.groups ∧ bitsOf (u.queue cid q).qstat.toNat 63 32 = 0 ∧
    bitsOf (u.queue cid q).qstat.toNat 31 0 = bitsOf x.qstat.toNat 31 0 ∧ (u.queue cid q).entries = x.entries) ∧
  (∃ u, exec (.qstatHaltClear cid q) s = .next u ∧ u.mem = s.mem ∧ u.groups = s.groups ∧ qHalt (u.queue cid q) = false ∧ bitsOf (u.queue cid q).qstat.toNat 31 24 = 0 ∧
    bitsOf (u.queue cid q).qstat.toNat 63 32 = bitsOf x.qstat.toNat 63 32 ∧ (u.queue cid q).entries = x.entries)

/-! Traps between issues. -/

/-- 18 R326 to R337, 15 R296, 19 R352, 23 R388: a trap between issues is taken only when it is the group's first pending one; it is of kind A, at the issue
address with the lanes there. 18 R329: of two pending ones the first is a report or INTEGRITY, then STEP, PROMISE_MISSED, WATCHDOG, PREEMPT, and BREAKPOINT;
one of them is taken while any is pending, and none that is not; in a wait STEP, PREEMPT and BREAKPOINT are not. That reports that come precisely go before
deferred ones is the model's choice (assumption 41). A rejection that came before the group's next issue traps at its own instruction in its own lanes; a later one sets DEF, TDPC
and TDLANES. INTEGRITY also stops a group of a compute core; met first, it halts the world. A walk serves every group that waits for it, with a leaf or with its fault, and goes on later where it must wait for a write. -/
def Obligations.TrapsBetweenIssues : Prop := ∀ (s : State) (gid : Nat),
  let g := s.group gid
  let plain := fun (i : Instr) (b : Between) (cause : Nat) (a : DWord) =>
    (s.pendingTrap gid ≠ some b → exec i s = .next s) ∧
    (s.pendingTrap gid = some b → ∀ pc, g.issueAddr = some pc → ∃ u, exec i s = .next u ∧ s.TookKindA u gid pc cause a none)
  (let pending : Between → Bool := fun b => match b with
     | .report => g.reportOpen
     | .integrity p => g.pend.integrity == some p
     | .step => g.pend.step && g.wait == .none
     | .promise => g.pend.promise.isSome
     | .watchdog => g.pend.watchdog
     | .preempt => g.pend.preempt && g.wait == .none
     | .breakpoint => g.wait == .none && !g.looksAgain && g.issueAddr.any (fun pc => (s.breakpointAt gid pc).isSome)
   let item : Between → Nat := fun b => match b with
     | .report => 1 | .integrity _ => 1 | .step => 2 | .promise => 3 | .watchdog => 4 | .preempt => 5 | .breakpoint => 6
   (g.wait = .none ∨ g.wait.stopPoint = true) →
     (∀ b c, pending b = true → s.pendingTrap gid = some c → item c ≤ item b) ∧ (∀ b, pending b = true → (s.pendingTrap gid).isSome = true) ∧
     ∀ c, s.pendingTrap gid = some c → pending c = true) ∧
  plain (.step gid) .step cStep 0 ∧ plain (.promiseMissed gid) .promise cPromise ((g.pend.promise.map Prod.fst).getD 0) ∧ plain (.watchdog gid) .watchdog cWatchdog 0 ∧
  plain (.preempt gid) .preempt cPreempt 0 ∧
  (s.pendingTrap gid ≠ some .breakpoint → exec (.breakpoint gid) s = .next s) ∧
  (s.pendingTrap gid = some .breakpoint → ∀ pc k, g.issueAddr = some pc → s.breakpointAt gid pc = some k →
    ∃ u, exec (.breakpoint gid) s = .next u ∧ s.TookKindA u gid pc cBreakpoint (BitVec.ofNat 64 (0x10000 + k)) none) ∧
  (s.pendingTrap gid ≠ some .report → exec (.deferredReport gid) s = .next s) ∧
  (s.pendingTrap gid = some .report →
    (∀ r, firstPrecise g.pend.reports = some r → ∃ u, exec (.deferredReport gid) s = .next u ∧
      s.TookTrap u gid r.cause.toNat r.addr (r.lanes &&& g.holding) r.pc none r.pr) ∧
    (∀ r rest pc, firstPrecise g.pend.reports = none → g.pend.reports = r :: rest → g.issueAddr = some pc → ∃ u, exec (.deferredReport gid) s = .next u ∧
      s.TookKindA u gid pc r.cause.toNat r.addr (some (r.pc, r.lanes)) r.pr)) ∧
  (∀ pa p, g.pend.integrity = some p → s.pendingTrap gid = some (.integrity p) → ∀ pc, g.issueAddr = some pc → isSystem gid = false → (s.core (coreOf gid)).level cIntegrity = 3 →
    g.act 3 = false →
    ∃ u, exec (.integrity gid pa) s = .next u ∧ u.mem = s.mem ∧ (u.group gid).status = .stopped ∧ ((u.group gid).tr 3).cause.toNat = cIntegrity ∧
      ((u.group gid).tr 3).addr = p ∧ (u.group gid).priv = 3) ∧
  (∀ pa, g.pend.integrity = none → (g.world = 0 → exec (.integrity gid pa) s = .next s) ∧
    (g.world ≠ 0 → ∃ u, exec (.integrity gid pa) s = .next u ∧ u.mem = s.mem ∧ (u.world g.world.toNat).halted = true ∧
      ∀ k, (s.group k).resident = true → (s.group k).world = g.world → (s.group k).pend.integrity = none → (u.group k).pend.integrity = some (BitVec.ofNat 64 (pa.toNat / 256 * 256)))) ∧
  ∀ die idx, ((s.die die).walks[idx]? = none → exec (.walkResult die idx) s = .next s) ∧
    ∀ w, (s.die die).walks[idx]? = some w →
      ((s.walk die w).1 = .wait → exec (.walkResult die idx) s = .next s) ∧
      (∀ cause at_, (s.walk die w).1 = .fault cause at_ → ∃ u, exec (.walkResult die idx) s = .next u ∧ s.SameButTags u ∧
        (u.die die).walks = (s.die die).walks.eraseIdx idx ∧
        (cause ≠ cIntegrity → ∀ k ∈ w.waiters, ⟨w.asid, w.page, BitVec.ofNat 8 cause⟩ ∈ (u.group k).walkFaults) ∧
        (cause = cIntegrity → (u.world w.world.toNat).halted = true)) ∧
      (∀ e, (s.walk die w).1 = .leaf e → ∃ u, exec (.walkResult die idx) s = .next u ∧ s.SameButTags u ∧
        (∀ k ∈ w.waiters, e ∈ (u.core (coreOf k)).tlb) ∧ (∀ v ∈ (u.die die).walks, e.covers v.asid (v.page * 4096) = false) ∧
        ∀ k l r, l < 32 → (u.group k).reg l r = (s.group k).reg l r)

/-! Fabric. -/

/-- 11 R218, R219, R225, 21 R359, R362, R364, 23 R390, 12 R237, R238, R241, R242: a refresh counts from -8 to 8; at the end of a window no row is hot; the
sweep leaves a clearing line zero with its bit clear and no other byte different; a corrected error counts in CECNT, an uncorrectable one marks its sector;
the eighth failed flit in a row fails the link, which both ends record. A .qnt atomic takes the die's next number when it goes to be applied; an
announcement raises a home's frontier for a source up to the writes still on their way. That a refresh issues only while COUNT is negative, and is pulled in
from 0 to 7, is the model's choice (assumption 47). -/
def Obligations.FabricStepsKeepTheirCounts : Prop := ∀ s : State,
  (∀ die ch act, ∃ u, exec (.refresh die ch act) s = .next u ∧ u.mem = s.mem ∧ u.groups = s.groups ∧ u.reqs = s.reqs ∧
    let n := refCount (Tab.get 0 (s.die die).refrec ch)
    let n' := refCount (Tab.get 0 (u.die die).refrec ch)
    (ch < 32 → -8 ≤ n → n ≤ 8 → (-8 ≤ n' ∧ n' ≤ 8) ∧ (act = .due → n' = max (-7) (n - 1)) ∧ (act = .issue → n' = if n < 0 ∧ (s.chanWaits die ch = false ∨ n = -8) then n + 1 else n) ∧
      (act = .pullIn → n' = if 0 ≤ n ∧ n < 8 ∧ s.chanWaits die ch = false then n + 1 else n)) ∧
    ∀ k, k ≠ ch → Tab.get 0 (u.die die).refrec k = Tab.get 0 (s.die die).refrec k) ∧
  (∀ die, ∃ u, exec (.hotRowWindowEnd die) s = .next u ∧ u.mem = s.mem ∧ (u.die die).hot = [] ∧ (u.die die).hotLast = []) ∧
  (∀ die line, die < 32 → line < 2 ^ 26 → ∃ u, exec (.clearSweep die line) s = .next u ∧ u.clearingAt (die * 2 ^ 36 + line * 1024) = false ∧
    (∀ a, u.byteAt a = s.byteAt a) ∧ u.groups = s.groups) ∧
  (∀ die (pa : DWord) res, ∃ u, exec (.scrub die pa res) s = .next u ∧ u.mem = s.mem ∧ u.groups = s.groups ∧
    (pa.toNat / 2 ^ 36 = die → res = .corrected → bitsOf (u.die die).cecnt.toNat 31 0 = min 0xFFFFFFFF (bitsOf (s.die die).cecnt.toNat 31 0 + 1)) ∧
    (pa.toNat / 2 ^ 36 = die → res = .uncorrectable → Tab.get 0 (u.die die).bad (pa.toNat / 256) ≠ 0 ∧ (u.core (die * 64)).mclog.getLsbD 63 = true)) ∧
  (∀ die port, s.retries die port < 7 → ∃ u, exec (.flitRetry die port) s = .next u ∧ u.mem = s.mem ∧ u.reqs = s.reqs ∧
    u.retries die port = s.retries die port + 1 ∧ ∀ d p, u.linkBad d p = s.linkBad d p) ∧
  (∀ die port e p, neighbour die port = some (e, p) → die < 34 → (∀ r ∈ s.reqs, r.use = .spec → r.performed = false) →
    ∃ u, exec (.linkFailover die port) s = .next u ∧ u.mem = s.mem ∧ u.reqs = s.reqs ∧ u.groups = s.groups ∧ u.linkBad die port = true ∧ u.linkBad e p = true ∧
    (∀ k dst, s.usesLink k dst die port = true → Tab.get false (if k < 32 then (u.die k).full else (u.io k).full) dst = false) ∧
    (7 ≤ s.retries die port → exec (.flitRetry die port) s = .next u)) ∧
  (∀ id r, s.req? id = some r → r.use = .qnt → r.num = none → r.performed = false → s.farAheadBy r.src 1 = false → ∃ t q, exec (.qntApply id) s = .next t ∧ t.req? id = some q ∧ t.mem = s.mem ∧
    q.num = some (Tab.get 0 (s.kvec r.src) r.src + 1) ∧ Tab.get 0 (t.kvec r.src) r.src = Tab.get 0 (s.kvec r.src) r.src + 1 ∧ q.stamp = t.kvec r.src) ∧
  ∀ src dst, (s.reaches src dst = false → exec (.stampAnnouncement src dst) s = .next s) ∧ (s.reaches src dst = true →
    ∃ t, exec (.stampAnnouncement src dst) s = .next t ∧ t.mem = s.mem ∧ t.reqs = s.reqs ∧
    ((∀ u ∈ s.unapplied, u.1 ≠ src ∨ u.2.1 ≠ dst) → Tab.get 0 (t.die dst).front src = serialMax (Tab.get 0 (s.die dst).front src) (Tab.get 0 (s.kvec src) src)) ∧
    ∀ k, k ≠ src → Tab.get 0 (t.die dst).front k = Tab.get 0 (s.die dst).front k)

/-! Endpoints and peers. -/

/-- 16 R299 to R307, R311, R316, R318, 21 R363, R365: a posted write that its requester's entry and translation pass takes the ordering point's next number
and waits for its home, which changes no byte before the acknowledgement applies it; one that fails is logged with reason 4. A read is answered, at once
when everything before it is applied. A translation request is answered; an invalidation ends its wait, or its function is shut out after the timeout; a
page request joins the order or is logged; a response goes to its port; INTx and a failed IDE check are logged; PTM is answered with the counter; stores
waiting for a removed port's windows are performed no more. The model's choices: what a port delivers and the record of INTx (assumption 53), the scale of
PTM (60), the cycles of a timeout (80), the record of what was sent (45). -/
def Obligations.EndpointsAreOrderedAndChecked : Prop := ∀ (s : State) (q : Tlp),
  let io := ioOfPort q.port
  let w := (s.rqt q.port q.rid.toNat).1
  let s0 := s.looked q
  let quiet := fun (u : State) => s.SameButTags u ∧ u.reqs = s.reqs
  let looks := fun (u : State) => s.SameButTags u ∧ u.groups = s.groups ∧ u.reqs = s.reqs
  let unchanged := fun (u : State) => u.mem = s.mem ∧ u.groups = s.groups ∧ u.reqs = s.reqs
  let logs := fun (v u : State) (port reason : Nat) => (Tab.get 0 (v.io (ioOfPort port)).rperr (port % 16)).getLsbD 63 = false →
    (Tab.get 0 (u.io (ioOfPort port)).rperr (port % 16)).getLsbD 63 = true ∧ bitsOf (Tab.get 0 (u.io (ioOfPort port)).rperr (port % 16)).toNat 61 56 = reason
  let logged := logs s
  (∀ data, (s.delivers q.port q.addr.toNat data.length 512 && s.opAccepts io && s.looksReady q) = false → exec (.inboundPostedWrite q data) s = .next s) ∧
  (∀ data, s.delivers q.port q.addr.toNat data.length 512 = true → s.opAccepts io = true → s.looksReady q = true → inClasp q.addr.toNat = false →
    (∀ s1, s0.inbound q true = (.wait, s1) → exec (.inboundPostedWrite q data) s = .next s) ∧
    (∀ b s1, s0.inbound q true = (.refuse b, s1) → ∃ u, exec (.inboundPostedWrite q data) s = .next u ∧ quiet u ∧ (u.io io).entries = (s.io io).entries ∧ logs s1 u q.port 4) ∧
    (∀ pa asid s1, s0.inbound q true = (.ok (pa, asid), s1) → ∃ u e, exec (.inboundPostedWrite q data) s = .next u ∧ quiet u ∧ (u.io io).entries = (s.io io).entries ++ [e] ∧
      Tab.get 0 (u.kvec io) io = Tab.get 0 (s1.kvec io) io + 1 ∧ e.parts.flatMap (fun p => p.2.data) = data ∧ (∀ p ∈ e.parts, p.1 = Tab.get 0 (s1.kvec io) io + 1))) ∧
  (∀ src home num, src < 32 → s.unappliedTo src home num = false → (∀ r ∈ s.reqs, r.isAtomic = false) → ∃ u, exec (.writeAck src home num) s = .next u ∧ u.mem = s.mem ∧ u.groups = s.groups ∧
    ∀ r ∈ s.reqs, r.src = src → r.tgt = .mem home → r.isStore = true → r.performed = true → (∀ n, r.num = some n → serialGe num n = true) → r.num ≠ none → u.req? r.id = none) ∧
  (∀ num n port p, (s.io io).entries = [.write n port [p]] → p.red = none → s.covers p.home io p.stamp = true → s.coreBefore io p.home n = false → serialGe num n = true →
    cxlHole p.pa = false → s.inboundRefuses p.home p.lpa p.world p.asid false = none →
    let l := p.lpa
    ∃ u, exec (.writeAck io p.home num) s = .next u ∧ (u.io io).entries = [] ∧ s.SameBytesBut u l p.data.length ∧
      ∀ i < p.data.length, (tagByte (l + i) = false ∨ ∀ x, s.sealedAt x = none) → u.byteAt (l + i) = p.data.getD i 0) ∧
  (∀ len, s.delivers q.port q.addr.toNat len 4096 = true → s.opAccepts io = true → s.looksReady q = true → inClasp q.addr.toNat = false →
    (∀ s1, s0.inbound q false = (.wait, s1) → exec (.inboundRead q len) s = .next s) ∧
    (∀ b s1, s0.inbound q false = (.refuse b, s1) → ∃ u, exec (.inboundRead q len) s = .next u ∧ quiet u ∧
      (u.io io).sent.head? = some (q.port, q.rid.toNat, if b = true then 7 else 6, []) ∧ (b = false → logs s1 u q.port 4)) ∧
    (∀ pa asid s1, s0.inbound q false = (.ok (pa, asid), s1) →
      (s1.readsNow io = false → ∃ u, exec (.inboundRead q len) s = .next u ∧ quiet u ∧ (u.io io).sent = (s.io io).sent ∧
        (u.io io).entries = (s.io io).entries ++ [.read q len (rqtWorld w) asid pa]) ∧
      (s1.settled io = true → (∀ e ∈ (s1.io io).entries, e.isMsg = false) → (rqtWorld w = 0 ∨ (s1.world (rqtWorld w).toNat).halted = false) → s1.readRefused io (rqtWorld w) asid pa len = none →
        ∃ u, exec (.inboundRead q len) s = .next u ∧ quiet u ∧ (u.io io).sent.head? = some (q.port, q.rid.toNat, 1, (s1.agentRead io (s1.pool io) pa len).1)))) ∧
  (s.delivers q.port 0 1 512 = true → s.looksReady q = true → rqtAte w = false → ∃ u, exec (.atsTranslationRequest q) s = .next u ∧ looks u ∧ (u.io io).sent.head? = some (q.port, q.rid.toNat, 6, [])) ∧
  (∀ asid e s1, s.delivers q.port 0 1 512 = true → s.looksReady q = true → rqtAte w = true → Tab.get false (s.io io).noAte (fnKey q.port q.rid.toNat) = false → s.inboundSpace q = some asid →
    s0.inboundLeaf q asid = (.ok e, s1) → ∃ u d, exec (.atsTranslationRequest q) s = .next u ∧ quiet u ∧ (u.io io).sent.head? = some (q.port, q.rid.toNat, 2, d)) ∧
  (∀ g c, (s.io io).inval = [(fnKey q.port q.rid.toNat, g, c)] → (s.io (65 - io)).inval = [] → (s.group g).wait = .tlbi → ∃ u, exec (.atsInvalidationCompletion q.port q.rid) s = .next u ∧
    u.mem = s.mem ∧ (u.io io).inval = [] ∧ (u.group g).wait = .none) ∧
  ((∀ p ∈ (s.io io).inval, p.1 = fnKey q.port q.rid.toNat → s.cycles < p.2.2 + 2 ^ 22) → exec (.atsInvalidationTimeout q.port q.rid) s = .next s) ∧
  (∀ p ∈ (s.io io).inval, p.1 = fnKey q.port q.rid.toNat → p.2.2 + 2 ^ 22 ≤ s.cycles → ∃ u, exec (.atsInvalidationTimeout q.port q.rid) s = .next u ∧ u.mem = s.mem ∧
    Tab.get false (u.io io).noAte (fnKey q.port q.rid.toNat) = true ∧ (∀ p ∈ (u.io io).inval, p.1 ≠ fnKey q.port q.rid.toNat) ∧ logged u q.port 5) ∧
  (∀ rd wr last prg, s.delivers q.port 0 1 512 = true → s.opAccepts io = true → s.looksReady q = true →
    (rqtPre w = false → ∃ u, exec (.pageRequest q rd wr last prg) s = .next u ∧ looks u ∧ (u.io io).entries = (s.io io).entries ∧ logs s0 u q.port 4) ∧
    (rqtV w = true → rqtPre w = true → s.entryPasses q = true → ∃ u e, exec (.pageRequest q rd wr last prg) s = .next u ∧ looks u ∧ (u.io io).entries = (s.io io).entries ++ [e])) ∧
  (∀ (n : Nat) (v : DWord), n = 32 ∨ n = 33 → ∃ u, exec (.prgrsp n v) s = .next u ∧ unchanged u ∧ (u.io n).prg = v :: (s.io n).prg ∧
    (u.io (ioOfPort (bitsOf v.toNat 47 40))).sent.head? = some (bitsOf v.toNat 47 40, bitsOf v.toNat 63 48, 4, bytesLE 8 v.toNat)) ∧
  (∃ u, exec (.intxMessage q.port) s = .next u ∧ unchanged u ∧ logged u q.port 6) ∧ (∃ u, exec (.ideCheckFailure q) s = .next u ∧ unchanged u ∧ logged u q.port 4) ∧
  (∃ u, exec (.ptmRequest q.port) s = .next u ∧ unchanged u ∧ (u.io io).sent.head? = some (q.port, 0, 5, bytesLE 8 (s.clock * 5 / 3))) ∧
  (∃ u, exec (.surpriseRemoval q.port) s = .next u ∧ u.mem = s.mem ∧ u.groups = s.groups ∧ u.portGone q.port = true ∧
    ∀ r ∈ u.reqs, r.performed = false → r.isLoad = false → ∀ p < 65536, r.tgt = .bezel p → s.bezelPort p ≠ some q.port)

/-- 16 R309 to R315, 21 R369 to R372: a Bezel store leaves for its port or is logged, and one that no function answers is discarded; a Clasp message at the
head of the order is dropped and logged, or arrives at its barrier row, adds to its counter, or sets its interrupt bit; a revocation advances the window's
generation; a remote write that its window accepts waits in the ordering point, one that it rejects is answered; contributions are held until enough
packages have written or the timeout. The model's choices: which entry a message takes and when it is dropped (assumption 54), how contributions are held
and forwarded (59), the cycles of the timeout (80), the record of what was sent (45). -/
def Obligations.ClaspBezelAndRemoteWrites : Prop := ∀ s : State,
  let unchanged := fun (u : State) => u.mem = s.mem ∧ u.groups = s.groups
  (∀ id r page, s.req? id = some r → r.id = id → r.tgt = .bezel page → page < 65536 → r.op = .store →
    (s.performable r = false → exec (.bezelStore id) s = .next s) ∧
    (s.performable r = true → ∃ u, exec (.bezelStore id) s = .next u ∧ unchanged u ∧ (∀ v, u.req? id = some v → v.performed = true) ∧
      let io := if page < 32768 then 32 else 33
      let e := (Tab.get 0 (s.io io).bzb (page % 32768)).toNat
      let t := (Tab.get 0 (s.io io).bzt (page % 32768)).toNat
      let port := (t - 0x0C0000000000) / 2 ^ 36
      (bitAt e 63 = false → (u.io io).sent = (s.io io).sent ∧ (u.io io).bezerr.getLsbD 63 = true) ∧
      (bitAt e 63 = true → bitsOf e 23 16 = r.vdev.toNat → 0x0C0000000000 ≤ t → t < 0x0E0000000000 → ioOfPort port = io → t % 4096 = 0 → s.portGone port = false →
        let a := t + r.pa % 4096
        (u.io io).bezerr = (s.io io).bezerr ∧
        if s.answers port a = false then (u.io io).sent = (s.io io).sent ∧ ((Tab.get 0 (s.io io).rperr (port % 16)).getLsbD 63 = false →
          (Tab.get 0 (u.io io).rperr (port % 16)).getLsbD 63 = true ∧ bitsOf (Tab.get 0 (u.io io).rperr (port % 16)).toNat 61 56 = 3)
        else if (a - 0x0C0000000000) % 2 ^ 36 < 2 ^ 20 then (u.io io).sent = (s.io io).sent
        else (u.io io).sent.head? = some (port, 0, 8, bytesLE 8 a ++ valBytes r.width r.data)))) ∧
  (∀ io m, (io = 32 ∨ io = 33) → s.claspHead io = some m →
    let lost := claspDrop m.clt m.target m.data.length m.vdev
    let t := m.target
    let i : Instr := if m.kind = 1 then .claspCounterAdd io else if m.kind = 2 then .claspInterrupt io else .claspBarrierArrival io
    let loss := fun (u : State) (reason : Nat) => (s.io m.io).clasperr.getLsbD 63 = false →
      (u.io m.io).clasperr.getLsbD 63 = true ∧ bitsOf (u.io m.io).clasperr.toNat 61 56 = reason
    (m.kind = 1 → s.settled io = true) →
    (lost ≠ 0 → ∃ u, exec i s = .next u ∧ unchanged u ∧ (u.io io).entries = (s.io io).entries.drop 1 ∧ loss u lost) ∧
    (lost = 0 → m.kind = 2 → ∃ u, exec i s = .next u ∧ u.mem = s.mem ∧ (u.io io).entries = (s.io io).entries.drop 1 ∧
      (u.core (sysCoreNo t)).ipend.getLsbD (m.x % 64) = true) ∧
    (lost = 0 → m.kind = 1 → s.inboundRefuses (homeOf (s.pool io) t) (localOf (s.pool io) t) m.world none true = none → t < 0x020000000000 →
      ((∀ i < 4, tagByte (t + i) = false) ∨ ∀ x, s.sealedAt x = none) →
      ∃ u, exec i s = .next u ∧ (u.io io).entries = (s.io io).entries.drop 1 ∧ u.groups = s.groups ∧ u.numAt t 4 = (s.numAt t 4 + m.x) % 2 ^ 32 ∧ s.SameBytesBut u t 4) ∧
    (lost = 0 → m.kind = 1 → (s.inboundRefuses (homeOf (s.pool io) t) (localOf (s.pool io) t) m.world none true).isSome = true →
      ∃ u, exec i s = .next u ∧ unchanged u ∧ (u.io io).entries = (s.io io).entries.drop 1 ∧ loss u 5) ∧
    (lost = 0 → m.kind = 0 →
      let cid := (t - 0x0F0000000000) / 2 ^ 32 * 64 + (t - 0x0F0000000000) % 2 ^ 32 / 2 ^ 24
      let off := t % 2 ^ 24 - 0x100000
      ∃ u, exec i s = .next u ∧ u.mem = s.mem ∧ (u.io io).entries = (s.io io).entries.drop 1 ∧
        ((s.core cid).tagged off = false → u.groups = s.groups ∧ loss u 3) ∧
        ((s.core cid).tagged off = true → s.holdsCore cid (cltVdev m.clt) = false → u.groups = s.groups ∧ loss u 4) ∧
        ((s.core cid).tagged off = true → s.holdsCore cid (cltVdev m.clt) = true → u.row cid off = (s.arrive cid off m.x true).2.2.row cid off))) ∧
  (∀ io w, (io = 32 ∨ io = 33) →
    ((s.io io).rwrstat.getLsbD 63 = true → exec (.rwrev io w) s = .next s) ∧
    ((s.io io).rwrstat.getLsbD 63 = false → ∃ u, exec (.rwrev io w) s = .next u ∧ unchanged u ∧ (u.io io).rwrstat = BitVec.ofNat 64 (2 ^ 63 + w.toNat) ∧
      bitsOf (Tab.get 0 (u.io io).rwin w.toNat).toNat 31 22 = (bitsOf (Tab.get 0 (s.io io).rwin w.toNat).toNat 31 22 + 1) % 1024 ∧ (u.io io).entries = (s.io io).entries ++ [.revoke w])) ∧
  (∀ (r : RemoteTlp) (data : List Byte),
    let io := ioOfPort r.port
    let on : Prop := (Tab.get 0 (s.io io).rhcfg (r.port % 16)).getLsbD 63 = true ∧ s.opAccepts io = true ∧ 0 < data.length ∧ data.length ≤ 512
    (¬ on → exec (.remoteWrite r data) s = .next s) ∧
    (on → s.rwinAccepts r data.length = false → ∃ u, exec (.remoteWrite r data) s = .next u ∧ unchanged u ∧ (u.io io).entries = (s.io io).entries ∧
      (u.io io).sent.head? = some (r.port, r.pkg, 10, [])) ∧
    (on → s.rwinAccepts r data.length = true → ∃ u e, exec (.remoteWrite r data) s = .next u ∧ unchanged u ∧ (u.io io).entries = (s.io io).entries ++ [e] ∧
      e.parts.flatMap (fun p => p.2.data) = data) ∧
    (s.reduces r = none → exec (.reductionContribution r data) s = exec (.remoteWrite r data) s) ∧
    (∀ op ty cnt, s.isRhadin r.port = true → s.reduces r = some (op, ty, cnt) → data.length % 4 = 0 → 0 < data.length → r.off % 4 = 0 → 2 ≤ cnt → s.reductions = [] →
      ∃ u, exec (.reductionContribution r data) s = .next u ∧ unchanged u ∧ u.reductions = [⟨r, [data], [r.pkg], s.cycles⟩] ∧ u.ios = s.ios)) ∧
  ∀ idx x, s.reductions[idx]? = some x → (s.cycles < x.since + 2 ^ 16 → exec (.reductionTimeout idx) s = .next s) ∧
    (x.since + 2 ^ 16 ≤ s.cycles → s.forwards x = false → exec (.reductionTimeout idx) s = .next s) ∧
    (x.since + 2 ^ 16 ≤ s.cycles → s.forwards x = true → ∃ u, exec (.reductionTimeout idx) s = .next u ∧ unchanged u ∧ x ∉ u.reductions)

/-! Launches, gangs, virtual devices. -/

/-- 19 R344 to R347, 07 R127 to R135: a store to LAUNCH moves the ring's tail; a well-formed entry joins the pending set and the head moves, a malformed one
sets ERR; a launch becomes eligible when its dependences hold; a gang is placed whole, each of its groups with the launch's space, virtual device and world;
a chunk joins its queue; a steal takes from the donor and joins the asker; a drained group leaves its slot, and its own tile loses its owner; a finished
launch leaves the pending set, and CVAL stands at CWADDR. The model's choices: a LAUNCH by no virtual device changes nothing (assumption 18), where a gang
and a steal fall (66), a ring entry that cannot be read sets ERR, and a fault of the write to CWADDR is thrown away (67). -/
def Obligations.LaunchesArePlacedAndRetired : Prop := ∀ s : State,
  let unchanged := fun (u : State) => u.mem = s.mem ∧ u.groups = s.groups
  (∀ cid tail, (s.coreVdev cid = none → exec (.launch cid tail) s = .next s) ∧
    ∀ v, s.coreVdev cid = some v → ∃ u, exec (.launch cid tail) s = .next u ∧ s.SameButTags u ∧ u.groups = s.groups ∧ u.ring v = { s.ring v with tail := tail.truncate 16 } ∧ ∀ k, k ≠ v → u.ring k = s.ring k) ∧
  (∀ v, (s.copyDue v = none → exec (.launchCopy v) s = .next s) ∧
    ∀ d, s.copyDue v = some d →
      let e := s.vdt d v
      let pa := e.2.1 + 128 * (s.ring v).head.toNat
      let w := s.worldOfVdev (BitVec.ofNat 8 v)
      let s1 := s.vdtLook d v
      let rd := s1.agentRead d (s1.pool d) pa 128
      let bad := fun (u : State) => u.groups = s.groups ∧ u.launches = s.launches ∧ u.ring v = { s.ring v with err := true }
      ((regionOf (s.pool d) pa).memory = false → ∃ u, exec (.launchCopy v) s = .next u ∧ s.SameButTags u ∧ bad u) ∧
      ((regionOf (s.pool d) pa).memory = true → (cxlHole pa = true ∨ s1.homeRefuses (homeOf (s.pool d) pa) (localOf (s.pool d) pa) 1 0 (s.space 0).gen w true = none) →
        (bitsOf (wordAt rd.1 1) 31 0 = 0 → rd.2.launchOf d (BitVec.ofNat 8 v) rd.1 = .error (1, rd.2)) ∧
        (∀ r, rd.2.launchOf d (BitVec.ofNat 8 v) rd.1 = .error (0, r) → exec (.launchCopy v) s = .next s) ∧
        (∀ c r, rd.2.launchOf d (BitVec.ofNat 8 v) rd.1 = .error (c, r) → c ≠ 0 → ∃ u, exec (.launchCopy v) s = .next u ∧ s.SameButTags u ∧
          u.groups = r.groups ∧ u.launches = s.launches ∧ u.ring v = { s.ring v with err := true }) ∧
        ∀ l s2, rd.2.launchOf d (BitVec.ofNat 8 v) rd.1 = .ok (l, s2) → ∃ u, exec (.launchCopy v) s = .next u ∧ s.SameButTags u ∧ u.groups = s.groups ∧
          u.launches = s.launches ++ [l] ∧ l.eligible = false ∧ l.nx = bitsOf (wordAt rd.1 1) 31 0 ∧ l.ny = bitsOf (wordAt rd.1 1) 63 32 ∧ l.nz = bitsOf (wordAt rd.1 2) 31 0 ∧
          (u.ring v).err = (s.ring v).err ∧ (u.ring v).tail = (s.ring v).tail ∧ (u.ring v).head.toNat = ((s.ring v).head.toNat + 1) % bitsOf e.2.2 15 0 % 65536)) ∧
  (∀ seq l, s.launch? seq = some l → (s.pollDue l = false → exec (.dependencePoll seq) s = .next s) ∧
    (s.pollDue l = true → ∃ u, exec (.dependencePoll seq) s = .next u ∧ s.SameButTags u ∧ u.groups = s.groups ∧ u.launch? seq = some { l with eligible := true })) ∧
  (∀ die seq l core, s.launch? seq = some l → (∀ k ∈ s.launches, k.seq = seq → k = l) →
    ((s.die die).turn ≠ some l.vdev.toNat → exec (.placeGang die seq) s = .next s) ∧
    ((s.die die).turn = some l.vdev.toNat → s.settled die = true → s.cand die l.vdev = some (.place seq core) →
      let kept := s.clearSlots die l (l.freeRec.getD 0)
      (l.k.acc = 0 → kept = some s) ∧ (kept = none → exec (.placeGang die seq) s = .next s) ∧
      ∀ s0, kept = some s0 → ((s0.launch? seq).any (fun x => x.halted) = true → exec (.placeGang die seq) s = .next s0) ∧
        ((s0.launch? seq).any (fun x => x.halted) = false → ∃ u g, exec (.placeGang die seq) s = .next u ∧ u.gangs = s.gangs ++ [g] ∧ u.mem = s0.mem ∧
          g.launch = seq ∧ g.vdev = l.vdev ∧ g.die = die ∧ g.core = die * 64 + core ∧ g.members = l.k.gang ∧ g.groups.length = l.k.gang * l.k.wg ∧
          ∀ q ∈ g.groups, (u.group q).resident = true ∧ (u.group q).launch = seq ∧ (u.group q).gang = g.id ∧ (u.group q).vdev = l.vdev ∧ (u.group q).asid = l.asid ∧
            (u.group q).ctxid = l.ctxid ∧ (u.group q).world = s.worldOfVdev l.vdev))) ∧
  (∀ wg, (s.chunkDue wg = false → exec (.chunkArrival wg) s = .next s) ∧
    ∀ g l is l1, s.chunkDue wg = true → s.gang? (s.wg wg).gang = some g → s.launch? g.launch = some l → l.deal g.die = some (is, l1) → (s.wg wg).waiters = [] →
      ∃ u, exec (.chunkArrival wg) s = .next u ∧ unchanged u ∧ (u.wg wg).items = (s.wg wg).items ++ is) ∧
  (∀ seq asker x d rest l, s.steal? seq asker = some x → x.left = d :: rest → s.launch? x.seq = some l →
    (x.answer ≠ none → exec (.stealMessage seq asker) s = .next s) ∧
    (x.answer = none → ∃ u, exec (.stealMessage seq asker) s = .next u ∧ unchanged u ∧ { x with answer := some ((l.give d).elim [] Prod.fst) } ∈ u.steals) ∧
    (∀ i is, x.answer = some (i :: is) → s.launch? seq = some l → ∃ u m, exec (.stealAnswer seq asker) s = .next u ∧ unchanged u ∧ u.steal? seq asker = none ∧ u.launch? seq = some m ∧
      Tab.get [] m.stolen asker = Tab.get [] l.stolen asker ++ [i :: is]) ∧
    (x.answer = some [] → rest = [] → s.launch? seq = some l → ∃ u m, exec (.stealAnswer seq asker) s = .next u ∧ unchanged u ∧ u.steal? seq asker = none ∧ u.launch? seq = some m ∧
      Tab.get false m.dry asker = true)) ∧
  (∀ gid, (s.releaseDue gid = false → exec (.groupRelease gid) s = .next s) ∧
    (s.releaseDue gid = true → ∃ u, exec (.groupRelease gid) s = .next u ∧ u.mem = s.mem ∧ u.group gid = Group.vacant ∧ (∀ k, k ≠ gid → u.group k = s.group k) ∧
      let g := s.group gid
      let t := g.ac0.toNat
      (t ≠ 0xFF → (s.tile (coreOf gid) t).own = 1#1 ++ g.ctxid → (s.tile (coreOf gid) t).recAddr = g.slotFor t → (u.tile (coreOf gid) t).own.getLsbD 16 = false) ∧
      let mine := (s.tile (coreOf gid) t).own = 1#1 ++ g.ctxid ∧ (s.tile (coreOf gid) t).recAddr = g.slotFor t
      (t ≠ 0xFF → g.world ≠ 0 → ((s.tile (coreOf gid) t).own.getLsbD 16 = false ∨ mine) → (u.tile (coreOf gid) t).elems = []) ∧
      (t ≠ 0xFF → (s.tile (coreOf gid) t).own.getLsbD 16 = true → ¬ mine → u.tile (coreOf gid) t = s.tile (coreOf gid) t))) ∧
  ∀ seq l, s.launch? seq = some l → ((s.launchDone l = false ∨ (s.gather l).settled l.home = false) → exec (.launchComplete seq) s = .next s) ∧
    (s.launchDone l = true → (s.gather l).settled l.home = true →
      (l.cwaddr = 0 → ∃ u, exec (.launchComplete seq) s = .next u ∧ unchanged u ∧ u.launch? seq = none) ∧
      (l.cwaddr ≠ 0 → (s.gather l).farAheadBy l.home 1 = true → exec (.launchComplete seq) s = .next s) ∧
      (l.cwaddr ≠ 0 → (s.gather l).farAheadBy l.home 1 = false →
        let a := (s.gather l).launchAgent l.home l.level l
        let w := (s.gather l).engWrite a 0 l.cwaddr.toNat (bytesLE 8 l.cval.toNat) true
        (∀ f t, w = .error (f, t) → (f.1 = 0 → exec (.launchComplete seq) s = .next s) ∧ (f.1 ≠ 0 → ∃ u, exec (.launchComplete seq) s = .next u ∧ u.launch? seq = none)) ∧
        ∀ t, w = .ok t → ∃ u, exec (.launchComplete seq) s = .next u ∧ u.groups = s.groups ∧ u.launch? seq = none ∧ u.mem = t.mem ∧
          ∀ pa v, ((s.gather l).nextNum l.home).2.engPiece a l.cwaddr.toNat .store = .ok (pa, v) → l.cwaddr.toNat % 8 = 0 → pa < 0x020000000000 →
            ((∀ i < 8, tagByte (pa + i) = false) ∨ ∀ x, s.sealedAt x = none) → u.numAt pa 8 = l.cval.toNat ∧ s.SameBytesBut u pa 8))

/-- 19 R348 to R352, R355, 11 R225, 24 R398, R400: the next virtual device's turn adds its quantum; a gang whose groups have all stopped leaves with its
registers, a saved one comes back with them; the reset of a virtual device takes its gangs off, halts its queues and clears BUSY; a clear makes its lines read
zero; a load of CECNT clears the bytes it returns. A register write of eight bytes reads back, in the bits that the register's table lets it change, from
SPRDCFG, VDTBASE, PLIMIT, CLRBASE, CMT and PWRLIM of a die (R206, R341, R342, R398), QCTL, QCW, QPREV and QLAST of a queue with nothing in progress (15 R276),
and the BZB, CLT, RQTBASE, PRQ, RWIN and ROUT registers of an I/O die (16 R317, 21 R367 to R371), and no other register of that block changes; VDRESET sets
BUSY; a write of the scratchpad window stores its bytes. The model's own choices: the agent that writes (assumption 38), whose queues a reset halts (71), what
a save keeps (65), turns and placement (67). -/
def Obligations.TurnsSavesAndDeviceWrites : Prop := ∀ s : State,
  let unchanged := fun (u : State) => u.mem = s.mem ∧ u.groups = s.groups
  (∀ die, (s.turnDue die = false → exec (.turnEnd die) s = .next s) ∧ (s.turnDue die = true → ∃ u, exec (.turnEnd die) s = .next u ∧ s.SameButTags u ∧ u.groups = s.groups ∧
    ((s.die die).turn = none → ∀ v, s.nextTurn die = some v → (u.die die).lastTurn = v ∧ u.deficit die v = s.deficit die v + s.quantumOf die v ∧
      (u.die die).turn = if 0 < u.deficit die v then some v else none) ∧
    ∀ v, (s.die die).turn = some v → (s.endTurn die v).nextTurn die = none → (u.die die).turn = none)) ∧
  (∀ gang g, s.gang? gang = some g → (s.saveDue g = false → exec (.gangSave gang) s = .next s) ∧
    (∀ l, s.saveDue g = true → s.launch? g.launch = some l → s.writeRecord g.die l g.record = none → exec (.gangSave gang) s = .next s) ∧
    (∀ s0, s.saveDue g = true → (s0 = s ∧ s.launch? g.launch = none ∨ ∃ l, s.launch? g.launch = some l ∧ s.writeRecord g.die l g.record = some s0) →
      ∃ u v, exec (.gangSave gang) s = .next u ∧ u.mem = s0.mem ∧ u.saved = s.saved ++ [v] ∧ v.gang.id = g.id ∧
      (∀ q ∈ g.groups, (u.group q).resident = false) ∧ (∀ q, q ∉ g.groups → u.group q = s0.group q) ∧
      ∀ q ∈ g.groups, ∃ p ∈ v.groups, p.1 = q ∧ ∀ l r, l < 32 → r < 192 → (s.group q).saves (s.stopEntry g.die (s.group q)) r = true → Tab.get 0 p.2.v (key r l) = (s.group q).reg l r)) ∧
  (∀ gang v l q grp c, s.saved.find? (fun v => v.gang.id == gang) = some v → s.launch? v.gang.launch = some l → v.groups = [(q, grp)] →
    ((s.die v.gang.die).turn ≠ some l.vdev.toNat → exec (.gangRestore gang) s = .next s) ∧
    ((s.die v.gang.die).turn = some l.vdev.toNat → s.settled v.gang.die = true → s.cand v.gang.die l.vdev = some (.restore gang c) → ∃ u k, exec (.gangRestore gang) s = .next u ∧ u.mem = s.mem ∧
      (∀ x ∈ u.saved, x.gang.id ≠ gang) ∧ (∃ g ∈ u.gangs, g.id = gang ∧ g.groups = [k]) ∧ k / 32 = v.gang.die * 64 + c + grp.member ∧
      ∀ n r, n < 32 → (u.group k).reg n r = Tab.get 0 grp.v (key r n))) ∧
  (∀ die v, (s.vdresetDue die v = false → exec (.vdreset die v) s = .next s) ∧ (s.vdresetDue die v = true → ∃ u, exec (.vdreset die v) s = .next u ∧ u.mem = s.mem ∧ (u.die die).vdrstat.getLsbD 63 = false ∧
    (∀ g ∈ s.gangs, g.die = die → g.vdev = BitVec.ofNat 8 v → ∀ q ∈ g.groups, (u.group q).resident = false) ∧
    (∀ c < 64, ∀ q < 8, qVdev (s.queue (die * 64 + c) q) = v → qHalt (u.queue (die * 64 + c) q) = true ∧ (u.queue (die * 64 + c) q).entries = []) ∧
    (v < 255 → ∀ c < 64, slotsOf (u.core (die * 64 + c)).calCopy v = 0))) ∧
  (∀ die (size : DWord), die < 32 → ∃ u, exec (.clrsize die size) s = .next u ∧ unchanged u ∧
    let b := (s.die die).clrbase.toNat / 1024 * 1024
    ∀ a, u.byteAt a = if a / 2 ^ 36 = die ∧ b ≤ a ∧ a < b + size.toNat / 1024 * 1024 then 0 else s.byteAt a) ∧
  (∀ die off width, off + width ≤ 8 → ∃ u, exec (.cecntRead die off width) s = .next u ∧ unchanged u ∧
    ∀ i < 8, bitsOf (u.die die).cecnt.toNat (8 * i + 7) (8 * i) = if off ≤ i ∧ i < off + width then 0 else bitsOf (s.die die).cecnt.toNat (8 * i + 7) (8 * i)) ∧
  (∀ (addr : DWord) (val : BitVec 128) (level : Nat),
    let v : DWord := val.truncate 64
    let ea := addr.toNat - 0x0F0000000000
    let off := ea % 2 ^ 32
    let o := addr.toNat % 0x80000000
    let w : Who := { gid := 65536, level := level, vdev := 0, ctxid := 0, world := 0, engine := false }
    (∀ d, regionOf 0 addr.toNat = .onchip d → s.winRefuses w ea true = false → off % 8 = 0 →
      (0x40000000 ≤ off → ∃ u, exec (.registerWrite addr 8 val level) s = .next u ∧ unchanged u ∧
        let rd := u.dieRegRead d
        (off = 0x40000000 → (rd off).toNat = min 128 (v.toNat % 256)) ∧
        (off = 0x40020000 ∨ off = 0x40020020 ∨ (0x40021000 ≤ off ∧ off < 0x40021800) → rd off = v) ∧
        (off = 0x40020008 ∨ off = 0x40030010 → bitsOf (rd off).toNat 15 0 = bitsOf v.toNat 15 0) ∧
        (off = 0x40020010 → (rd 0x40020018).toNat = 2 ^ 63 + v.toNat % 256) ∧
        (off ≠ 0x40020010 → ∀ k, k % 8 = 0 → k ≠ off → rd k = s.dieRegRead d k)) ∧
      ∀ cid q r, coreSlice d off = some (cid, 0x181000 + 0x40 * q + r) → q < 8 → r < 0x20 →
        ∃ u, exec (.registerWrite addr 8 val level) s = .next u ∧ unchanged u ∧ (∀ k n, (k ≠ cid ∨ n ≠ q) → u.queue k n = s.queue k n) ∧
          let y := s.queue cid q
          let z := u.queue cid q
          (y.hseq ≠ y.cseq → z = y) ∧
          (y.hseq = y.cseq → (r = 0x08 → z = { y with qcw := v }) ∧ (r = 0x10 → z = { y with qprev := v }) ∧ (r = 0x18 → z = { y with qlast := v }) ∧
            (r = 0x00 → z = { y with qctl := z.qctl } ∧ z.qctl.toNat < 2 ^ 36 ∧
              let f := fun hi lo => bitsOf z.qctl.toNat hi lo
              let n := fun hi lo => bitsOf v.toNat hi lo
              let least := if n 9 8 < 2 then 3 else 6
              f 35 16 = n 35 16 ∧ f 9 8 = n 9 8 ∧ f 0 0 = n 0 0 ∧ f 11 10 = 0 ∧ f 7 1 = 0 ∧
                f 15 12 = if n 15 12 < least ∨ 12 ≤ n 15 12 then least else n 15 12))) ∧
    ∀ io, regionOf 0 addr.toNat = .ctl io → 2 ≤ level → o % 8 = 0 → ∃ u, exec (.registerWrite addr 8 val level) s = .next u ∧
      let takes := fun (m : DWord) => u.ioRegRead io o = (s.ioRegRead io o &&& ~~~m) ||| (v &&& m)
      (o < 0x080000 → takes (if o % 16 = 0 then 0x8000000000FF0000#64 else BitVec.allOnes 64)) ∧
      (0x100000 ≤ o → o < 0x180000 → takes (if o % 16 = 0 then 0xE000000000FF0000#64 else BitVec.allOnes 64)) ∧
      (0x200000 ≤ o → o < 0x210000 → o % 0x1000 = 0 → takes (BitVec.allOnes 64)) ∧
      (0x400000 ≤ o → o < 0x410000 → takes (if o % 16 = 0 then 0xFFFFFFFF0000001F#64 else BitVec.allOnes 64)) ∧
      (0x500000 ≤ o → o < 0x510000 → o % 16 = 0 → takes 0x800FFFFFFFC00000#64) ∧
      (o = 0x300010 → takes (BitVec.allOnes 64)) ∧ (o = 0x300018 → takes 0xFFFFFFFFFFFF001F#64) ∧
      (o < 0x180000 ∨ 0x400000 ≤ o → unchanged u ∧ ∀ k, k % 8 = 0 → k ≠ o → u.ioRegRead io k = s.ioRegRead io k)) ∧
  ∀ (addr : DWord) (width : Nat) (val : BitVec 128) (level : Nat),
    let ea := addr.toNat - 0x0F0000000000
    let w : Who := { gid := 65536, level := level, vdev := 0, ctxid := 0, world := 0, engine := false }
    (∀ io, regionOf 0 addr.toNat = .ctl io → level < 2 → exec (.registerWrite addr width val level) s = .next s) ∧
    ∀ d, regionOf 0 addr.toNat = .onchip d → (s.winRefuses w ea true = true → exec (.registerWrite addr width val level) s = .next s) ∧
      ∀ cid o, s.winRefuses w ea true = false → coreSlice d (ea % 2 ^ 32) = some (cid, o) → inRegWin o = false → inSpadWin o = true → s.winDiscards w d (ea % 2 ^ 32) = false →
        ∃ u, exec (.registerWrite addr width val level) s = .next u ∧ unchanged u ∧ ∀ i < width, Tab.get 0 (u.core cid).spad (o - 0x100000 + i) = BitVec.ofNat 8 (val.toNat / 256 ^ i)

/-! Signet. -/

/-- 23 R379 to R381, R384, R386, R391, 16 R318: a call is taken when it is the one in progress and names the operation; it ends with its STATUS in its block
and leaves the list. CREATE gives a free identifier and its virtual devices, ADMIT seals a region of zeros, RELEASE clears one, WAYS reserves ways, ATTEST
writes the evidence, DESTROY ends the world, IDEKEY keys a stream, ENTER starts the caller in the world at level 1 with its registers zero. The order of the
statuses is the model's choice (assumption 73), and that ENTER leaves zeroed registers and the host's do not come back by themselves (75). -/
def Obligations.SignetAnswersCalls : Prop := ∀ s : State,
  let calls : List (Nat × Instr) := [(1, .create), (2, .admitCall), (3, .release), (4, .ways), (5, .attest), (6, .destroy), (7, .idekey), (8, .enter)]
  (s.call = none → ∀ p ∈ calls, exec p.2 s = .next s) ∧
  ∀ cid a ws, s.call = some (cid, a, ws) → s.blockOk a = true → a + 64 ≤ 0x020000000000 →
    let w := fun i => ws.getD i 0
    let id := callWorld (w 0)
    let ended := fun (u : State) (st : Nat) => (u.io 32).calls = (s.io 32).calls.drop 1 ∧ u.numAt (a + 4) 4 = st
    (∀ p ∈ calls, (callOp (w 0) ≠ p.1 → exec p.2 s = .next s) ∧ (callOp (w 0) = p.1 → bitsOf (w 0) 31 20 ≠ 0 → ∃ u, exec p.2 s = .next u ∧ ended u 2 ∧ u.worlds = s.worlds ∧ s.SameBytesBut u a 8)) ∧
    (bitsOf (w 0) 31 20 = 0 →
      (∀ p ∈ calls, callOp (w 0) = p.1 → p.1 ≠ 1 → p.1 ≠ 7 → (s.world id).keyed = false → ∃ u, exec p.2 s = .next u ∧ ended u 3 ∧ u.worlds = s.worlds ∧ s.SameBytesBut u a 8) ∧
      (let vd : BitVec 256 := BitVec.ofNat 256 (w 1 + w 2 * 2 ^ 64 + w 3 * 2 ^ 128 + w 4 * 2 ^ 192)
       callOp (w 0) = 1 → (2048 ≤ s.slotsUsed → ∃ u, exec .create s = .next u ∧ ended u 1 ∧ u.worlds = s.worlds) ∧
         (s.slotsUsed < 2048 → (∀ p ∈ s.worlds, p.2.keyed = true → p.2.vdevs &&& vd = 0) → ∃ u n, exec .create s = .next u ∧ ended u 0 ∧ s.SameBytesBut u a 8 ∧ n ≠ 0 ∧ n < 4096 ∧
           (s.world n).keyed = false ∧ (u.world n).keyed = true ∧ (u.world n).vdevs = vd ∧ (u.world n).halted = false ∧ callWorld (u.numAt a 8) = n ∧ ∀ k, k ≠ n → u.world k = s.world k)) ∧
      (callOp (w 0) = 2 → (s.world id).keyed = true → (s.world id).halted = false → regionOk (w 1) = true → (s.ownerOf (w 1)).getLsbD 15 = false → w 2 = 0 →
        ∃ u, exec .admitCall s = .next u ∧ ended u 0 ∧ u.ownerOf (w 1) = BitVec.ofNat 16 (2 ^ 15 + id) ∧ u.world id = (s.world id).extend (List.replicate (2 ^ 21) 0) ∧
          ∀ b, (b < a ∨ a + 8 ≤ b) → tagByte b = false → u.byteAt b = if w 1 ≤ b ∧ b < w 1 + 2 ^ 21 then 0 else s.byteAt b) ∧
      (callOp (w 0) = 3 → (s.world id).keyed = true → regionOk (w 1) = true → s.ownerOf (w 1) = BitVec.ofNat 16 (2 ^ 15 + id) →
        ∃ u, exec .release s = .next u ∧ ended u 0 ∧ u.ownerOf (w 1) = 0 ∧ ∀ b, (b < a ∨ a + 8 ≤ b) → tagByte b = false → u.byteAt b = if w 1 ≤ b ∧ b < w 1 + 2 ^ 21 then 0 else s.byteAt b) ∧
      (let m : BitVec 12 := BitVec.ofNat 12 (w 2)
       let o := (s.die (w 1)).waysOfOthers id
       callOp (w 0) = 4 → (s.world id).keyed = true → w 1 < 32 → w 2 < 2 ^ 12 →
         ((o &&& m ≠ 0 ∨ 8 < ones12 (o ||| m)) → ∃ u, exec .ways s = .next u ∧ ended u 2 ∧ (∀ d, (u.die d).wres = (s.die d).wres)) ∧
         (o &&& m = 0 → ones12 (o ||| m) ≤ 8 → ∃ u, exec .ways s = .next u ∧ ended u 0 ∧ Tab.get 0 (u.die (w 1)).wres id = m ∧ ∀ k, k ≠ id → Tab.get 0 (u.die (w 1)).wres k = Tab.get 0 (s.die (w 1)).wres k)) ∧
      (let total := 3425 + 128 * (switchesOf id).length
       callOp (w 0) = 5 → (s.world id).keyed = true → (w 3 < total → ∃ u, exec .attest s = .next u ∧ ended u 4 ∧ s.SameBytesBut u a 8) ∧
         (total ≤ w 3 → s.sharedRange (w 1) 64 = true → s.sharedRange (w 2) total = true → w 2 + total ≤ 0x020000000000 → (w 2 + 4 ≤ a ∨ a + 8 ≤ w 2) →
           ∃ u, exec .attest s = .next u ∧ ended u 0 ∧ u.worlds = s.worlds ∧ u.numAt (w 2) 4 = 0x56454455)) ∧
      (callOp (w 0) = 6 → (s.world id).keyed = true → s.groups.any (fun p => !isSystem p.1 && p.2.resident && (s.world id).vdevs.getLsbD p.2.vdev.toNat) = false →
        ∃ u, exec .destroy s = .next u ∧ ended u 0 ∧ u.world id = World.none ∧ ∀ k, k ≠ id → u.world k = s.world k) ∧
      (callOp (w 0) = 7 → (id = 0 ∨ (s.world id).keyed = true) → w 1 < 32 → w 2 ≤ 8 →
        ∃ u, exec .idekey s = .next u ∧ ended u 0 ∧ u.worlds = s.worlds ∧ Tab.get none (u.io (ioOfPort (w 1))).ide (w 1 * 16 + w 2) = some (BitVec.ofNat 12 id)) ∧
      (callOp (w 0) = 8 → (s.world id).keyed = true → (s.world id).halted = false → (s.group (cid * 32)).world = 0 → w 1 % 4 = 0 → w 1 < 2 ^ 56 →
        ∃ u, exec .enter s = .next u ∧ ended u 0 ∧ (u.group (cid * 32)).world.toNat = id ∧ (u.group (cid * 32)).priv = 1 ∧ (∀ l r, l < 32 → (u.group (cid * 32)).reg l r = 0) ∧
          (∀ l, ((s.group (cid * 32)).lane l).occupied = true → ((u.group (cid * 32)).lane l).pc = BitVec.ofNat 64 (w 1)) ∧ ∀ k, k ≠ cid * 32 → u.group k = s.group k))

/-! The platform. -/

/-- 24 R392 to R398, 23 R376, R377: a cold reset starts the counter at 0 with memory empty, a warm one keeps the counter and memory; MGSTAT stays. An image
that a boot ROM does not accept starts no core; else Signet runs at level 3 on core 0 of each I/O die. A die that fails to come up is recorded and the
firmware is not started (assumption 78); without a failure Signet's start of the firmware comes next and leaves the firmware at level 2 on every system
core, on core 0 by RETT. A throttle check of a compute die records what was measured, withholds issue above a limit and trips at 115 °C; a trip stops every
group, is recorded in every die, loses what the compute dies hold, and only a cold reset ends it; a correction sets the drift of a package that follows a
time master, or, before the first launch, sets its counter forward; standby power clears MGSTAT. What the parts of an image are is the model's own
(assumption 12). The model's choices: what memory reads unwritten (assumption 1), the measurements before a boot (8), which failures leave which cores (78),
who corrects its counter (102). -/
def Obligations.ResetsPowerAndTime : Prop := ∀ s : State,
  let firmware := fun (f : State) (r : Boot) => f.boot = none ∧ (∀ q < 65536, (f.group q).resident = false) ∧
    (∀ k < 15, f.group (65536 + 32 * (k + 1)) = Group.firmware r.west ∧ f.group (67584 + 32 * (k + 1)) = Group.firmware r.east) ∧
    (Group.firmware r.west).priv = 2 ∧ (Group.firmware r.east).priv = 2 ∧ (f.group 65536).priv = 2 ∧ (f.group 67584).priv = 2 ∧
    ((f.group 65536).lane 0).pc = Config.firmwareEntry r.west ∧ ((f.group 67584).lane 0).pc = Config.firmwareEntry r.east
  let booted := fun (u : State) (r : Boot) => u.reqs = [] ∧ (∀ q, q ≠ 65536 → q ≠ 67584 → (u.group q).resident = false) ∧
    if imageOk r.west && imageOk r.east then
      match r.failure with
      | some (cause, die) => u.off = true ∧ u.boot = none ∧ u.group 65536 = Group.signet r.west ∧ u.group 67584 = Group.signet r.east ∧ ∀ d < 32, (u.die d).mgstat.getLsbD 62 = true ∧ bitsOf (u.die d).mgstat.toNat 15 8 = cause.toNat ∧
          bitsOf (u.die d).mgstat.toNat 4 0 = die.toNat
      | none => u.off = false ∧ u.group 65536 = Group.signet r.west ∧ u.group 67584 = Group.signet r.east ∧ (Group.signet r.west).priv = 3 ∧ (Group.signet r.east).priv = 3 ∧
          u.mr0 = shake256 (Config.signetPart r.west) ∧ u.mr1 = shake256 (Config.firmwarePart r.west) ∧ u.version = Config.imageVersion r.west ∧
          (∀ d, (u.die d).mgstat = (s.die d).mgstat) ∧ u.due = some u.startFirmware ∧ firmware u.startFirmware r
    else u.off = true ∧ u.groups = [] ∧ ∀ d, (u.die d).mgstat = (s.die d).mgstat
  let tripped := fun (u : State) (die : Nat) => u.off = true ∧ u.tripped = true ∧ (∀ q < 65536, (u.group q).resident = false) ∧ (∀ q, (u.group q).status ≠ .running) ∧
    (∀ a < 0x020000000000, u.byteAt a = Memory.fill) ∧ ∀ d < 32, (u.die d).mgstat.getLsbD 63 = true ∧ bitsOf (u.die d).mgstat.toNat 4 0 = die
  (∀ r, ∃ u, exec (.coldReset r) s = .next u ∧ booted u r ∧ u.clock = 0 ∧ u.mem = []) ∧
  (s.tripped = true → ∀ r, exec (.warmReset r) s = .next s) ∧
  (s.tripped = false → ∀ r, ∃ u, exec (.warmReset r) s = .next u ∧ booted u r ∧ u.clock = s.clock ∧ u.mem = s.mem) ∧
  (∀ die power junction stack, (32 ≤ die → exec (.throttleCheck die power junction stack) s = .next s) ∧ (die < 32 → (1840 ≤ junction ∨ 1840 ≤ stack) →
    ∃ u, exec (.throttleCheck die power junction stack) s = .next u ∧ tripped u die) ∧ (die < 32 → junction < 1840 → stack < 1840 →
    ∃ u, exec (.throttleCheck die power junction stack) s = .next u ∧ u.mem = s.mem ∧ u.groups = s.groups ∧ (∀ d, d ≠ die → u.die d = s.die d) ∧
    let lim := (s.die die).pwrlim.toNat % 65536
    (u.die die).pwrnow.toNat = power % 65536 ∧ bitsOf (u.die die).temp.toNat 15 0 = junction % 65536 ∧ bitsOf (u.die die).temp.toNat 31 16 = stack % 65536 ∧
    ((u.die die).withheld = true ↔ (lim ≠ 0 ∧ lim < power) ∨ 1680 < junction ∨ 1520 < stack))) ∧
  (∀ die, (32 ≤ die → exec (.thermalTrip die) s = .next s) ∧ (die < 32 → ∃ u, exec (.thermalTrip die) s = .next u ∧ tripped u die)) ∧
  (∀ ahead, (s.follows = false → exec (.ptmCorrection ahead) s = .next s) ∧
    (s.follows = true → 0 ≤ ahead ∨ s.launched = true → exec (.ptmCorrection ahead) s = .next { s with drift := ahead }) ∧
    (s.follows = true → ahead < 0 → s.launched = false →
      exec (.ptmCorrection ahead) s = .next { s with drift := ahead, free := s.free + 1 } ∨
      exec (.ptmCorrection ahead) s = .next { s with clock := s.clock + ahead.natAbs, drift := 0, free := s.free + 1 })) ∧
  ∀ die, ∃ u, exec (.standbySupplyApplied die) s = .next u ∧ (u.die die).mgstat = 0 ∧ (∀ d, d ≠ die → u.die d = s.die d) ∧ u.mem = s.mem ∧ u.groups = s.groups

/-! Every instruction; the step; encodings; the machine as a whole. -/

/-- Every row of the opcode table goes on: whatever the instruction and the state, `exec` answers a next state, never a fault and never a refusal; for an event
that is not due that state is the one before it. 03 R51 to
R53, 18 R321: what an instruction may not do traps, and taking a trap is a next state. -/
def Obligations.EveryInstructionGoesOn : Prop := ∀ (i : Instr) (s : State), ∃ t, exec i s = .next t

/-- 01 R13, 03 R36, R51 to R53, 11 R226, 18 R329: when a group's turn comes, no trap stands before its issue and the words at its issue address decode, the
step is that instruction in the state the fetch leaves, with the cycles of the issue after it; words that decode to nothing trap ILLEGAL with Word 0, and Word
1 when there is one, in TADDR; one that reads a latch not there yet is held until it is (05 R79). An instruction that decodes is well formed. A fetched word of which no cache holds a copy is the four bytes at its home, the
lowest address least significant. A step of the table that is no instruction takes no cycles; every state has a next one. The order of the model's steps is
its own (assumption 11). -/
def Obligations.StepRunsTheDecodedInstruction : Prop :=
  (∀ (s s0 s1 : State) (gid : Nat) (pc : DWord) (ws : List Nat),
    ((∃ r, s.agenda = .issue gid :: r ∧ s0 = { s with agenda := r, cur := gid }) ∨
      (s.agenda = [] ∧ s.due = none ∧ s.nextGroup = some gid ∧ s0 = { s with cur := gid })) →
    s0.canIssue gid = true → s0.pendingTrap gid = none → (s0.group gid).issueAddr = some pc → s0.fetchInstr gid (s0.group gid).priv pc = .ok ws s1 →
    let word := fun k => ws.getD k 0
    (∀ i, decodeWords (word 0) (word 1) (word 2) (word 3) (word 4) = .ok i → WellFormed i = true ∧
      ((s1.ctxOf i).latchesAt ≤ s1.clock → ∃ t, exec i s1 = .next t ∧ step s = .next (t.afterIssue i gid (s1.group gid).issueNo)) ∧
      (s1.clock < (s1.ctxOf i).latchesAt → step s = .next ((s1.setGroup gid { s1.group gid with readySince := (s1.ctxOf i).latchesAt, blocked := false }).pass 4 none))) ∧
    ∀ e, decodeWords (word 0) (word 1) (word 2) (word 3) (word 4) = .error e → ∃ u : State, step s = .next (u.pass 4 none) ∧
      s1.TookTrap u gid cIllegal (BitVec.ofNat 64 (if word 0 % 4 ≥ 2 then word 0 + 2 ^ 32 * word 1 else word 0)) ((s1.group gid).atPc pc) pc none) ∧
  (∀ (s s1 : State) (gid w : Nat) (va : DWord), Memory.wf s.mem = true → s.fetchWord gid va (s.group gid).priv = .ok w s1 →
    ∃ pa dev leaf, s.translate gid (s.group gid).k.casid va.toNat .fetch (s.group gid).priv = .ok pa dev leaf ∧
      let l := localOf (s.pool (dieOf gid)) pa
      (Tab.find (s.core (coreOf gid)).l1i (pa / 256) = none → (∀ q, Tab.find (Tab.get [] (s.die (dieOf gid)).l2i q) (pa / 256) = none) →
        Tab.find (s.die (dieOf gid)).l2 (pa / 256) = none → cxlHole pa = false → beyondPool (s.pool (dieOf gid)) pa = false → pa % 4 = 0 →
        ((∀ i < 4, tagByte (l + i) = false) ∨ ∀ x, s.sealedAt x = none) → w = ofBytesLE (s.bytesAt l 4))) ∧
  (∀ (s : State) (i : Instr) (r : List Act), s.agenda = .event i :: r → ∃ t, exec i { s with agenda := r } = .next t ∧ step s = .next (t.pass 0 none)) ∧
  ∀ s : State, ∃ t, step s = .next t

/-- 01 R13, 03 R36 to R50: for every instruction that has an encoding and is well formed, with every operand at every value the form accepts, the decoder
reads back from its bytes that instruction, and leaves the bytes behind it. No bit of an encoding is dropped and no two instructions share one. -/
def Obligations.DecodeEncodeAgree : Prop := ∀ (i : Instr) (rest : List Byte),
  WellFormed i = true → i.encodes = true → decode (encodeBytes i ++ rest) = .ok (i, rest)

/-- 01 R11, 03 R37 to R49: a few words of the opcode table, written out from their fields: NOP, EXIT, IADD r0, r1, r2, BRA by 2 words, RETT, and BFUN r5 =
f(r1, r2, r3) with table 0xAC; MAJ 0x3F is not assigned and 0xF0 is no specifier. -/
def Obligations.DecodeWords : Prop :=
  decodeTableWord 32 0xFEFEFE04 = some .nop ∧
  decodeTableWord 32 0xFEFEFE94 = some .exit ∧
  decodeTableWord 32 0x0201000C = some (.iadd (.v 0) (.v 1) (.v 2)) ∧
  decodeTableWord 32 0x0200FE80 = some (.bra 2) ∧
  decodeTableWord 96 0x00000000007003FEFEFEFE9E = some (.rett (Ext.ofBase 0x27 .none .none .none)) ∧
  decodeTableWord 96 0x00AC0000007002030201051E =
    some (.bfun { Ext.ofBase 0x07 (.v 5) (.v 1) (.v 2) with c := .v 3, w2 := .t 0xAC .dflt .dflt (.v 0) }) ∧
  decodeTableWord 32 0xFEFEFEFC = none ∧ decodeTableWord 32 0x02F0000C = none

/-- An invariant of every step: memory keeps its one canonical form, addresses strictly rising and no byte listed that reads the same unlisted (the model's
own form of memory, assumption 1). Equal memories are then equal data, whatever the machine has done: stores, atomics, engines, endpoints, clears, seals,
resets. -/
def Obligations.MemoryStaysCanonical : Prop := ∀ s t : State, Memory.wf s.mem = true → step s = .next t → Memory.wf t.mem = true

/-- 02 R35, 23 R376: at cold reset system core 0 of each I/O die holds a group of one lane at level 3 with 128 registers in its extended pool, and no other
group is resident; Signet's start of the system firmware comes next. 18 R322: every cause is routed to level 2, INTEGRITY to 3; 15 R291: every tile identifier is ready; 24 R394: the counter is 0; 01 R10, 18 R329,
R338, 19 R342, R343, 21 R362: the registers of a die, an I/O die and a core hold their Reset values. Memory has its canonical form. Where the manual gives a
register no reset value, zero is the model's choice (assumptions 1 and 2). The model's own too are the form of memory, that the extended block holds the whole
pool (assumption 84), and that Signet's start of the firmware is one step (assumption 3). -/
def Obligations.ResetState : Prop :=
  let s := State.reset
  Memory.wf s.mem = true ∧ s.clock = 0 ∧ s.off = false ∧ s.reqs = [] ∧ s.due = some s.startFirmware ∧
  (∀ gid, (s.group gid).resident = decide (gid = 65536 ∨ gid = 67584)) ∧
  (∀ gid ∈ [65536, 67584], (s.group gid).live = 1 ∧ (s.group gid).priv = 3 ∧ (s.group gid).ext = 128 ∧ isSystem gid = true) ∧
  (∀ cid, (∀ c, 1 ≤ c → c ≤ 24 → (s.core cid).level c = if c = 0x15 then 3 else 2) ∧ (∀ n, (s.core cid).lattice.getLsbD n = decide (n < 128)) ∧
    ∀ q, s.queue cid q = Queue.reset) ∧
  (∀ d, (s.die d).pool = 0 ∧ (s.die d).vdtbase = 0 ∧ (s.die d).plimit = 0 ∧ (s.die d).pwrlim = 0xC8 ∧ (s.die d).mgstat = 0 ∧ (s.die d).streams = [] ∧ (s.die d).walks = []) ∧
  ∀ d, (s.io d).entries = [] ∧ (s.io d).calls = [] ∧ (s.io d).prqctl = 0
end

