-- ==== Sys2Proof/Laws/Tab.lean ====
section
/-!
SUPPORT. Reading a sparse table after each of its updates, and the canonical form that the updates keep.
-/

namespace Sys2Proof

theorem Tab.get_nil {α : Type} (d : α) (i : Nat) : Tab.get d [] i = d := rfl

/-- A read after a plain write. -/
theorem Tab.get_put {α : Type} (d : α) (t : Tab α) (i : Nat) (v : α) (j : Nat) :
    Tab.get d (Tab.put t i v) j = if j = i then v else Tab.get d t j := by
  induction t with
  | nil => simp [Tab.put, Tab.get]
  | cons p r ih =>
    obtain ⟨k, w⟩ := p
    simp only [Tab.put]
    by_cases h1 : i = k
    · subst h1; simp only [if_true, Tab.get]; split <;> rfl
    · by_cases h2 : i < k
      · simp [h1, h2, Tab.get]
      · simp only [h1, h2, if_false, Tab.get, ih]
        by_cases h3 : j = k
        · simp [h3, Ne.symm h1]
        · simp [h3]

theorem Tab.get_put_self {α : Type} (d : α) (t : Tab α) (i : Nat) (v : α) : Tab.get d (Tab.put t i v) i = v := by simp [Tab.get_put]
theorem Tab.get_put_ne {α : Type} (d : α) (t : Tab α) (i : Nat) (v : α) (j : Nat) (h : j ≠ i) :
    Tab.get d (Tab.put t i v) j = Tab.get d t j := by simp [Tab.get_put, h]

theorem Tab.get_erase {α : Type} (d : α) (t : Tab α) (i j : Nat) :
    Tab.get d (Tab.erase t i) j = if j = i then d else Tab.get d t j := by
  induction t with
  | nil => simp [Tab.erase, Tab.get]
  | cons p r ih =>
    obtain ⟨k, w⟩ := p
    simp only [Tab.erase]
    by_cases h1 : i = k
    · subst h1; simp only [if_true, ih, Tab.get]; split <;> rfl
    · simp only [h1, if_false, Tab.get, ih]
      by_cases h3 : j = k
      · simp [h3, Ne.symm h1]
      · simp [h3]

/-- A read after a canonical write. -/
theorem Tab.get_set {α : Type} [DecidableEq α] (d : α) (t : Tab α) (i : Nat) (v : α) (j : Nat) :
    Tab.get d (Tab.set d t i v) j = if j = i then v else Tab.get d t j := by
  unfold Tab.set
  split
  · next h => subst h; exact Tab.get_erase _ t i j
  · exact Tab.get_put d t i v j

theorem Tab.get_keep {α : Type} (d : α) (p : Nat → Bool) (t : Tab α) (j : Nat) :
    Tab.get d (Tab.keep p t) j = if p j then Tab.get d t j else d := by
  induction t with
  | nil => simp [Tab.keep, Tab.get]
  | cons q r ih =>
    obtain ⟨k, w⟩ := q
    simp only [Tab.keep]
    by_cases h1 : p k = true
    · simp only [h1, if_true, Tab.get, ih]
      by_cases h3 : j = k
      · simp [h3, h1]
      · simp [h3]
    · by_cases h3 : j = k
      · subst h3; simp [h1, ih]
      · simp [h1, ih, Tab.get, h3]

/-- A table mapped index by index. -/
theorem Tab.get_map {α β : Type} (d : α) (e : β) (f : Nat → α → β) (t : Tab α) (j : Nat) (h : f j d = e) :
    Tab.get e (t.map (fun p => (p.1, f p.1 p.2))) j = f j (Tab.get d t j) := by
  induction t with
  | nil => simp [Tab.get, h]
  | cons q r ih =>
    obtain ⟨k, w⟩ := q
    simp only [List.map, Tab.get, ih]
    split <;> simp_all

/-- The last of two writes at one index stays. -/
theorem Tab.put_put {α : Type} (t : Tab α) (i : Nat) (v w : α) : Tab.put (Tab.put t i v) i w = Tab.put t i w := by
  induction t with
  | nil => simp [Tab.put]
  | cons p r ih =>
    obtain ⟨k, u⟩ := p
    by_cases h1 : i = k
    · subst h1; simp [Tab.put]
    · by_cases h2 : i < k
      · simp [Tab.put, h1, h2]
      · simp [Tab.put, h1, h2, ih]

/-! The canonical form. -/

theorem Tab.wfFrom_le {α : Type} [DecidableEq α] (d : α) (t : Tab α) (lo hi : Nat) (h : lo ≤ hi) (w : Tab.wfFrom d hi t = true) :
    Tab.wfFrom d lo t = true := by
  cases t with
  | nil => rfl
  | cons p r =>
    obtain ⟨k, v⟩ := p
    simp only [Tab.wfFrom, Bool.and_eq_true, decide_eq_true_eq] at w ⊢
    exact ⟨⟨by omega, w.1.2⟩, w.2⟩

theorem Tab.wfFrom_put {α : Type} [DecidableEq α] (d : α) (t : Tab α) (lo i : Nat) (v : α) (hi : lo ≤ i) (hv : v ≠ d)
    (w : Tab.wfFrom d lo t = true) : Tab.wfFrom d lo (Tab.put t i v) = true := by
  induction t generalizing lo with
  | nil => simp [Tab.put, Tab.wfFrom, hi, hv]
  | cons p r ih =>
    obtain ⟨k, u⟩ := p
    simp only [Tab.wfFrom, Bool.and_eq_true, decide_eq_true_eq] at w
    simp only [Tab.put]
    split
    · next h => subst h; simp [Tab.wfFrom, hi, hv, w.2]
    · split
      · simp [Tab.wfFrom, hi, hv, w.1.2, w.2]; omega
      · simp only [Tab.wfFrom, Bool.and_eq_true, decide_eq_true_eq]
        exact ⟨w.1, ih (k + 1) (by omega) w.2⟩

theorem Tab.wfFrom_erase {α : Type} [DecidableEq α] (d : α) (t : Tab α) (lo i : Nat) (w : Tab.wfFrom d lo t = true) :
    Tab.wfFrom d lo (Tab.erase t i) = true := by
  induction t generalizing lo with
  | nil => rfl
  | cons p r ih =>
    obtain ⟨k, u⟩ := p
    simp only [Tab.wfFrom, Bool.and_eq_true, decide_eq_true_eq] at w
    simp only [Tab.erase]
    split
    · exact ih lo (Tab.wfFrom_le d r lo (k + 1) (by omega) w.2)
    · simp only [Tab.wfFrom, Bool.and_eq_true, decide_eq_true_eq]
      exact ⟨w.1, ih (k + 1) w.2⟩

/-- A canonical write keeps the canonical form. -/
theorem Tab.wf_set {α : Type} [DecidableEq α] (d : α) (t : Tab α) (i : Nat) (v : α) (w : Tab.wf d t = true) :
    Tab.wf d (Tab.set d t i v) = true := by
  unfold Tab.set
  split
  · exact Tab.wfFrom_erase d t 0 i w
  · next h => exact Tab.wfFrom_put d t 0 i v (Nat.zero_le i) h w

theorem Tab.wfFrom_filter {α : Type} [DecidableEq α] (d : α) (p : Nat × α → Bool) (t : Tab α) (lo : Nat) (w : Tab.wfFrom d lo t = true) :
    Tab.wfFrom d lo (t.filter p) = true := by
  induction t generalizing lo with
  | nil => rfl
  | cons q r ih =>
    obtain ⟨k, u⟩ := q
    simp only [Tab.wfFrom, Bool.and_eq_true, decide_eq_true_eq] at w
    simp only [List.filter]
    split
    · simp only [Tab.wfFrom, Bool.and_eq_true, decide_eq_true_eq]
      exact ⟨w.1, ih (k + 1) w.2⟩
    · exact ih lo (Tab.wfFrom_le d r lo (k + 1) (by omega) w.2)

theorem Tab.keep_eq_filter {α : Type} (p : Nat → Bool) (t : Tab α) : Tab.keep p t = t.filter (fun q => p q.1) := by
  induction t with
  | nil => rfl
  | cons q r ih => obtain ⟨k, u⟩ := q; simp only [Tab.keep, List.filter, ih]; split <;> simp_all

/-- Dropping entries keeps the canonical form. -/
theorem Tab.wf_keep {α : Type} [DecidableEq α] (d : α) (p : Nat → Bool) (t : Tab α) (w : Tab.wf d t = true) : Tab.wf d (Tab.keep p t) = true := by
  rw [Tab.keep_eq_filter]; exact Tab.wfFrom_filter d _ t 0 w
theorem Tab.wf_filter {α : Type} [DecidableEq α] (d : α) (p : Nat × α → Bool) (t : Tab α) (w : Tab.wf d t = true) : Tab.wf d (t.filter p) = true :=
  Tab.wfFrom_filter d p t 0 w

end Sys2Proof
end

