-- ==== Sys2Proof/Laws/State.lean ====
section
/-!
SUPPORT. What each named update of the state, and of a group, leaves in each field.
-/

namespace Sys2Proof.Machine

/-! The state. -/

@[simp] theorem State.setGroup_clock (s : State) (gid : Nat) (g : Group) : (s.setGroup gid g).clock = s.clock := rfl
@[simp] theorem State.setGroup_cycles (s : State) (gid : Nat) (g : Group) : (s.setGroup gid g).cycles = s.cycles := rfl
@[simp] theorem State.setGroup_mem (s : State) (gid : Nat) (g : Group) : (s.setGroup gid g).mem = s.mem := rfl
@[simp] theorem State.setGroup_cores (s : State) (gid : Nat) (g : Group) : (s.setGroup gid g).cores = s.cores := rfl
@[simp] theorem State.setGroup_dies (s : State) (gid : Nat) (g : Group) : (s.setGroup gid g).dies = s.dies := rfl
@[simp] theorem State.setGroup_ios (s : State) (gid : Nat) (g : Group) : (s.setGroup gid g).ios = s.ios := rfl
@[simp] theorem State.setGroup_spaces (s : State) (gid : Nat) (g : Group) : (s.setGroup gid g).spaces = s.spaces := rfl
@[simp] theorem State.setGroup_reqs (s : State) (gid : Nat) (g : Group) : (s.setGroup gid g).reqs = s.reqs := rfl
@[simp] theorem State.setGroup_passes (s : State) (gid : Nat) (g : Group) : (s.setGroup gid g).passes = s.passes := rfl
@[simp] theorem State.setGroup_rings (s : State) (gid : Nat) (g : Group) : (s.setGroup gid g).rings = s.rings := rfl
@[simp] theorem State.setGroup_launches (s : State) (gid : Nat) (g : Group) : (s.setGroup gid g).launches = s.launches := rfl
@[simp] theorem State.setGroup_gangs (s : State) (gid : Nat) (g : Group) : (s.setGroup gid g).gangs = s.gangs := rfl
@[simp] theorem State.setGroup_wgs (s : State) (gid : Nat) (g : Group) : (s.setGroup gid g).wgs = s.wgs := rfl
@[simp] theorem State.setGroup_saved (s : State) (gid : Nat) (g : Group) : (s.setGroup gid g).saved = s.saved := rfl
@[simp] theorem State.setGroup_steals (s : State) (gid : Nat) (g : Group) : (s.setGroup gid g).steals = s.steals := rfl
@[simp] theorem State.setGroup_worlds (s : State) (gid : Nat) (g : Group) : (s.setGroup gid g).worlds = s.worlds := rfl
@[simp] theorem State.setGroup_mr0 (s : State) (gid : Nat) (g : Group) : (s.setGroup gid g).mr0 = s.mr0 := rfl
@[simp] theorem State.setGroup_mr1 (s : State) (gid : Nat) (g : Group) : (s.setGroup gid g).mr1 = s.mr1 := rfl
@[simp] theorem State.setGroup_reductions (s : State) (gid : Nat) (g : Group) : (s.setGroup gid g).reductions = s.reductions := rfl
@[simp] theorem State.setGroup_hosts (s : State) (gid : Nat) (g : Group) : (s.setGroup gid g).hosts = s.hosts := rfl
@[simp] theorem State.setGroup_drift (s : State) (gid : Nat) (g : Group) : (s.setGroup gid g).drift = s.drift := rfl
@[simp] theorem State.setGroup_off (s : State) (gid : Nat) (g : Group) : (s.setGroup gid g).off = s.off := rfl
@[simp] theorem State.setGroup_tripped (s : State) (gid : Nat) (g : Group) : (s.setGroup gid g).tripped = s.tripped := rfl
@[simp] theorem State.setGroup_contexts (s : State) (gid : Nat) (g : Group) : (s.setGroup gid g).contexts = s.contexts := rfl
@[simp] theorem State.setGroup_launched (s : State) (gid : Nat) (g : Group) : (s.setGroup gid g).launched = s.launched := rfl
@[simp] theorem State.setGroup_boot (s : State) (gid : Nat) (g : Group) : (s.setGroup gid g).boot = s.boot := rfl
@[simp] theorem State.setGroup_version (s : State) (gid : Nat) (g : Group) : (s.setGroup gid g).version = s.version := rfl
@[simp] theorem State.setGroup_cur (s : State) (gid : Nat) (g : Group) : (s.setGroup gid g).cur = s.cur := rfl
@[simp] theorem State.setGroup_agenda (s : State) (gid : Nat) (g : Group) : (s.setGroup gid g).agenda = s.agenda := rfl
@[simp] theorem State.setGroup_pace (s : State) (gid : Nat) (g : Group) : (s.setGroup gid g).pace = s.pace := rfl
@[simp] theorem State.setGroup_seq (s : State) (gid : Nat) (g : Group) : (s.setGroup gid g).seq = s.seq := rfl
@[simp] theorem State.setGroup_free (s : State) (gid : Nat) (g : Group) : (s.setGroup gid g).free = s.free := rfl
@[simp] theorem State.setCore_clock (s : State) (cid : Nat) (c : Core) : (s.setCore cid c).clock = s.clock := rfl
@[simp] theorem State.setCore_cycles (s : State) (cid : Nat) (c : Core) : (s.setCore cid c).cycles = s.cycles := rfl
@[simp] theorem State.setCore_mem (s : State) (cid : Nat) (c : Core) : (s.setCore cid c).mem = s.mem := rfl
@[simp] theorem State.setCore_groups (s : State) (cid : Nat) (c : Core) : (s.setCore cid c).groups = s.groups := rfl
@[simp] theorem State.setCore_dies (s : State) (cid : Nat) (c : Core) : (s.setCore cid c).dies = s.dies := rfl
@[simp] theorem State.setCore_ios (s : State) (cid : Nat) (c : Core) : (s.setCore cid c).ios = s.ios := rfl
@[simp] theorem State.setCore_spaces (s : State) (cid : Nat) (c : Core) : (s.setCore cid c).spaces = s.spaces := rfl
@[simp] theorem State.setCore_reqs (s : State) (cid : Nat) (c : Core) : (s.setCore cid c).reqs = s.reqs := rfl
@[simp] theorem State.setCore_passes (s : State) (cid : Nat) (c : Core) : (s.setCore cid c).passes = s.passes := rfl
@[simp] theorem State.setCore_rings (s : State) (cid : Nat) (c : Core) : (s.setCore cid c).rings = s.rings := rfl
@[simp] theorem State.setCore_launches (s : State) (cid : Nat) (c : Core) : (s.setCore cid c).launches = s.launches := rfl
@[simp] theorem State.setCore_gangs (s : State) (cid : Nat) (c : Core) : (s.setCore cid c).gangs = s.gangs := rfl
@[simp] theorem State.setCore_wgs (s : State) (cid : Nat) (c : Core) : (s.setCore cid c).wgs = s.wgs := rfl
@[simp] theorem State.setCore_saved (s : State) (cid : Nat) (c : Core) : (s.setCore cid c).saved = s.saved := rfl
@[simp] theorem State.setCore_steals (s : State) (cid : Nat) (c : Core) : (s.setCore cid c).steals = s.steals := rfl
@[simp] theorem State.setCore_worlds (s : State) (cid : Nat) (c : Core) : (s.setCore cid c).worlds = s.worlds := rfl
@[simp] theorem State.setCore_mr0 (s : State) (cid : Nat) (c : Core) : (s.setCore cid c).mr0 = s.mr0 := rfl
@[simp] theorem State.setCore_mr1 (s : State) (cid : Nat) (c : Core) : (s.setCore cid c).mr1 = s.mr1 := rfl
@[simp] theorem State.setCore_reductions (s : State) (cid : Nat) (c : Core) : (s.setCore cid c).reductions = s.reductions := rfl
@[simp] theorem State.setCore_hosts (s : State) (cid : Nat) (c : Core) : (s.setCore cid c).hosts = s.hosts := rfl
@[simp] theorem State.setCore_drift (s : State) (cid : Nat) (c : Core) : (s.setCore cid c).drift = s.drift := rfl
@[simp] theorem State.setCore_off (s : State) (cid : Nat) (c : Core) : (s.setCore cid c).off = s.off := rfl
@[simp] theorem State.setCore_tripped (s : State) (cid : Nat) (c : Core) : (s.setCore cid c).tripped = s.tripped := rfl
@[simp] theorem State.setCore_contexts (s : State) (cid : Nat) (c : Core) : (s.setCore cid c).contexts = s.contexts := rfl
@[simp] theorem State.setCore_launched (s : State) (cid : Nat) (c : Core) : (s.setCore cid c).launched = s.launched := rfl
@[simp] theorem State.setCore_boot (s : State) (cid : Nat) (c : Core) : (s.setCore cid c).boot = s.boot := rfl
@[simp] theorem State.setCore_version (s : State) (cid : Nat) (c : Core) : (s.setCore cid c).version = s.version := rfl
@[simp] theorem State.setCore_cur (s : State) (cid : Nat) (c : Core) : (s.setCore cid c).cur = s.cur := rfl
@[simp] theorem State.setCore_agenda (s : State) (cid : Nat) (c : Core) : (s.setCore cid c).agenda = s.agenda := rfl
@[simp] theorem State.setCore_pace (s : State) (cid : Nat) (c : Core) : (s.setCore cid c).pace = s.pace := rfl
@[simp] theorem State.setCore_seq (s : State) (cid : Nat) (c : Core) : (s.setCore cid c).seq = s.seq := rfl
@[simp] theorem State.setCore_free (s : State) (cid : Nat) (c : Core) : (s.setCore cid c).free = s.free := rfl
@[simp] theorem State.setDie_clock (s : State) (d : Nat) (x : Die) : (s.setDie d x).clock = s.clock := rfl
@[simp] theorem State.setDie_cycles (s : State) (d : Nat) (x : Die) : (s.setDie d x).cycles = s.cycles := rfl
@[simp] theorem State.setDie_mem (s : State) (d : Nat) (x : Die) : (s.setDie d x).mem = s.mem := rfl
@[simp] theorem State.setDie_groups (s : State) (d : Nat) (x : Die) : (s.setDie d x).groups = s.groups := rfl
@[simp] theorem State.setDie_cores (s : State) (d : Nat) (x : Die) : (s.setDie d x).cores = s.cores := rfl
@[simp] theorem State.setDie_ios (s : State) (d : Nat) (x : Die) : (s.setDie d x).ios = s.ios := rfl
@[simp] theorem State.setDie_spaces (s : State) (d : Nat) (x : Die) : (s.setDie d x).spaces = s.spaces := rfl
@[simp] theorem State.setDie_reqs (s : State) (d : Nat) (x : Die) : (s.setDie d x).reqs = s.reqs := rfl
@[simp] theorem State.setDie_passes (s : State) (d : Nat) (x : Die) : (s.setDie d x).passes = s.passes := rfl
@[simp] theorem State.setDie_rings (s : State) (d : Nat) (x : Die) : (s.setDie d x).rings = s.rings := rfl
@[simp] theorem State.setDie_launches (s : State) (d : Nat) (x : Die) : (s.setDie d x).launches = s.launches := rfl
@[simp] theorem State.setDie_gangs (s : State) (d : Nat) (x : Die) : (s.setDie d x).gangs = s.gangs := rfl
@[simp] theorem State.setDie_wgs (s : State) (d : Nat) (x : Die) : (s.setDie d x).wgs = s.wgs := rfl
@[simp] theorem State.setDie_saved (s : State) (d : Nat) (x : Die) : (s.setDie d x).saved = s.saved := rfl
@[simp] theorem State.setDie_steals (s : State) (d : Nat) (x : Die) : (s.setDie d x).steals = s.steals := rfl
@[simp] theorem State.setDie_worlds (s : State) (d : Nat) (x : Die) : (s.setDie d x).worlds = s.worlds := rfl
@[simp] theorem State.setDie_mr0 (s : State) (d : Nat) (x : Die) : (s.setDie d x).mr0 = s.mr0 := rfl
@[simp] theorem State.setDie_mr1 (s : State) (d : Nat) (x : Die) : (s.setDie d x).mr1 = s.mr1 := rfl
@[simp] theorem State.setDie_reductions (s : State) (d : Nat) (x : Die) : (s.setDie d x).reductions = s.reductions := rfl
@[simp] theorem State.setDie_hosts (s : State) (d : Nat) (x : Die) : (s.setDie d x).hosts = s.hosts := rfl
@[simp] theorem State.setDie_drift (s : State) (d : Nat) (x : Die) : (s.setDie d x).drift = s.drift := rfl
@[simp] theorem State.setDie_off (s : State) (d : Nat) (x : Die) : (s.setDie d x).off = s.off := rfl
@[simp] theorem State.setDie_tripped (s : State) (d : Nat) (x : Die) : (s.setDie d x).tripped = s.tripped := rfl
@[simp] theorem State.setDie_contexts (s : State) (d : Nat) (x : Die) : (s.setDie d x).contexts = s.contexts := rfl
@[simp] theorem State.setDie_launched (s : State) (d : Nat) (x : Die) : (s.setDie d x).launched = s.launched := rfl
@[simp] theorem State.setDie_boot (s : State) (d : Nat) (x : Die) : (s.setDie d x).boot = s.boot := rfl
@[simp] theorem State.setDie_version (s : State) (d : Nat) (x : Die) : (s.setDie d x).version = s.version := rfl
@[simp] theorem State.setDie_cur (s : State) (d : Nat) (x : Die) : (s.setDie d x).cur = s.cur := rfl
@[simp] theorem State.setDie_agenda (s : State) (d : Nat) (x : Die) : (s.setDie d x).agenda = s.agenda := rfl
@[simp] theorem State.setDie_pace (s : State) (d : Nat) (x : Die) : (s.setDie d x).pace = s.pace := rfl
@[simp] theorem State.setDie_seq (s : State) (d : Nat) (x : Die) : (s.setDie d x).seq = s.seq := rfl
@[simp] theorem State.setDie_free (s : State) (d : Nat) (x : Die) : (s.setDie d x).free = s.free := rfl
@[simp] theorem State.setIo_clock (s : State) (d : Nat) (x : IoDie) : (s.setIo d x).clock = s.clock := rfl
@[simp] theorem State.setIo_cycles (s : State) (d : Nat) (x : IoDie) : (s.setIo d x).cycles = s.cycles := rfl
@[simp] theorem State.setIo_mem (s : State) (d : Nat) (x : IoDie) : (s.setIo d x).mem = s.mem := rfl
@[simp] theorem State.setIo_groups (s : State) (d : Nat) (x : IoDie) : (s.setIo d x).groups = s.groups := rfl
@[simp] theorem State.setIo_cores (s : State) (d : Nat) (x : IoDie) : (s.setIo d x).cores = s.cores := rfl
@[simp] theorem State.setIo_dies (s : State) (d : Nat) (x : IoDie) : (s.setIo d x).dies = s.dies := rfl
@[simp] theorem State.setIo_spaces (s : State) (d : Nat) (x : IoDie) : (s.setIo d x).spaces = s.spaces := rfl
@[simp] theorem State.setIo_reqs (s : State) (d : Nat) (x : IoDie) : (s.setIo d x).reqs = s.reqs := rfl
@[simp] theorem State.setIo_passes (s : State) (d : Nat) (x : IoDie) : (s.setIo d x).passes = s.passes := rfl
@[simp] theorem State.setIo_rings (s : State) (d : Nat) (x : IoDie) : (s.setIo d x).rings = s.rings := rfl
@[simp] theorem State.setIo_launches (s : State) (d : Nat) (x : IoDie) : (s.setIo d x).launches = s.launches := rfl
@[simp] theorem State.setIo_gangs (s : State) (d : Nat) (x : IoDie) : (s.setIo d x).gangs = s.gangs := rfl
@[simp] theorem State.setIo_wgs (s : State) (d : Nat) (x : IoDie) : (s.setIo d x).wgs = s.wgs := rfl
@[simp] theorem State.setIo_saved (s : State) (d : Nat) (x : IoDie) : (s.setIo d x).saved = s.saved := rfl
@[simp] theorem State.setIo_steals (s : State) (d : Nat) (x : IoDie) : (s.setIo d x).steals = s.steals := rfl
@[simp] theorem State.setIo_worlds (s : State) (d : Nat) (x : IoDie) : (s.setIo d x).worlds = s.worlds := rfl
@[simp] theorem State.setIo_mr0 (s : State) (d : Nat) (x : IoDie) : (s.setIo d x).mr0 = s.mr0 := rfl
@[simp] theorem State.setIo_mr1 (s : State) (d : Nat) (x : IoDie) : (s.setIo d x).mr1 = s.mr1 := rfl
@[simp] theorem State.setIo_reductions (s : State) (d : Nat) (x : IoDie) : (s.setIo d x).reductions = s.reductions := rfl
@[simp] theorem State.setIo_hosts (s : State) (d : Nat) (x : IoDie) : (s.setIo d x).hosts = s.hosts := rfl
@[simp] theorem State.setIo_drift (s : State) (d : Nat) (x : IoDie) : (s.setIo d x).drift = s.drift := rfl
@[simp] theorem State.setIo_off (s : State) (d : Nat) (x : IoDie) : (s.setIo d x).off = s.off := rfl
@[simp] theorem State.setIo_tripped (s : State) (d : Nat) (x : IoDie) : (s.setIo d x).tripped = s.tripped := rfl
@[simp] theorem State.setIo_contexts (s : State) (d : Nat) (x : IoDie) : (s.setIo d x).contexts = s.contexts := rfl
@[simp] theorem State.setIo_launched (s : State) (d : Nat) (x : IoDie) : (s.setIo d x).launched = s.launched := rfl
@[simp] theorem State.setIo_boot (s : State) (d : Nat) (x : IoDie) : (s.setIo d x).boot = s.boot := rfl
@[simp] theorem State.setIo_version (s : State) (d : Nat) (x : IoDie) : (s.setIo d x).version = s.version := rfl
@[simp] theorem State.setIo_cur (s : State) (d : Nat) (x : IoDie) : (s.setIo d x).cur = s.cur := rfl
@[simp] theorem State.setIo_agenda (s : State) (d : Nat) (x : IoDie) : (s.setIo d x).agenda = s.agenda := rfl
@[simp] theorem State.setIo_pace (s : State) (d : Nat) (x : IoDie) : (s.setIo d x).pace = s.pace := rfl
@[simp] theorem State.setIo_seq (s : State) (d : Nat) (x : IoDie) : (s.setIo d x).seq = s.seq := rfl
@[simp] theorem State.setIo_free (s : State) (d : Nat) (x : IoDie) : (s.setIo d x).free = s.free := rfl
@[simp] theorem State.setSpace_clock (s : State) (a : Nat) (x : Space) : (s.setSpace a x).clock = s.clock := rfl
@[simp] theorem State.setSpace_cycles (s : State) (a : Nat) (x : Space) : (s.setSpace a x).cycles = s.cycles := rfl
@[simp] theorem State.setSpace_mem (s : State) (a : Nat) (x : Space) : (s.setSpace a x).mem = s.mem := rfl
@[simp] theorem State.setSpace_groups (s : State) (a : Nat) (x : Space) : (s.setSpace a x).groups = s.groups := rfl
@[simp] theorem State.setSpace_cores (s : State) (a : Nat) (x : Space) : (s.setSpace a x).cores = s.cores := rfl
@[simp] theorem State.setSpace_dies (s : State) (a : Nat) (x : Space) : (s.setSpace a x).dies = s.dies := rfl
@[simp] theorem State.setSpace_ios (s : State) (a : Nat) (x : Space) : (s.setSpace a x).ios = s.ios := rfl
@[simp] theorem State.setSpace_reqs (s : State) (a : Nat) (x : Space) : (s.setSpace a x).reqs = s.reqs := rfl
@[simp] theorem State.setSpace_passes (s : State) (a : Nat) (x : Space) : (s.setSpace a x).passes = s.passes := rfl
@[simp] theorem State.setSpace_rings (s : State) (a : Nat) (x : Space) : (s.setSpace a x).rings = s.rings := rfl
@[simp] theorem State.setSpace_launches (s : State) (a : Nat) (x : Space) : (s.setSpace a x).launches = s.launches := rfl
@[simp] theorem State.setSpace_gangs (s : State) (a : Nat) (x : Space) : (s.setSpace a x).gangs = s.gangs := rfl
@[simp] theorem State.setSpace_wgs (s : State) (a : Nat) (x : Space) : (s.setSpace a x).wgs = s.wgs := rfl
@[simp] theorem State.setSpace_saved (s : State) (a : Nat) (x : Space) : (s.setSpace a x).saved = s.saved := rfl
@[simp] theorem State.setSpace_steals (s : State) (a : Nat) (x : Space) : (s.setSpace a x).steals = s.steals := rfl
@[simp] theorem State.setSpace_worlds (s : State) (a : Nat) (x : Space) : (s.setSpace a x).worlds = s.worlds := rfl
@[simp] theorem State.setSpace_mr0 (s : State) (a : Nat) (x : Space) : (s.setSpace a x).mr0 = s.mr0 := rfl
@[simp] theorem State.setSpace_mr1 (s : State) (a : Nat) (x : Space) : (s.setSpace a x).mr1 = s.mr1 := rfl
@[simp] theorem State.setSpace_reductions (s : State) (a : Nat) (x : Space) : (s.setSpace a x).reductions = s.reductions := rfl
@[simp] theorem State.setSpace_hosts (s : State) (a : Nat) (x : Space) : (s.setSpace a x).hosts = s.hosts := rfl
@[simp] theorem State.setSpace_drift (s : State) (a : Nat) (x : Space) : (s.setSpace a x).drift = s.drift := rfl
@[simp] theorem State.setSpace_off (s : State) (a : Nat) (x : Space) : (s.setSpace a x).off = s.off := rfl
@[simp] theorem State.setSpace_tripped (s : State) (a : Nat) (x : Space) : (s.setSpace a x).tripped = s.tripped := rfl
@[simp] theorem State.setSpace_contexts (s : State) (a : Nat) (x : Space) : (s.setSpace a x).contexts = s.contexts := rfl
@[simp] theorem State.setSpace_launched (s : State) (a : Nat) (x : Space) : (s.setSpace a x).launched = s.launched := rfl
@[simp] theorem State.setSpace_boot (s : State) (a : Nat) (x : Space) : (s.setSpace a x).boot = s.boot := rfl
@[simp] theorem State.setSpace_version (s : State) (a : Nat) (x : Space) : (s.setSpace a x).version = s.version := rfl
@[simp] theorem State.setSpace_cur (s : State) (a : Nat) (x : Space) : (s.setSpace a x).cur = s.cur := rfl
@[simp] theorem State.setSpace_agenda (s : State) (a : Nat) (x : Space) : (s.setSpace a x).agenda = s.agenda := rfl
@[simp] theorem State.setSpace_pace (s : State) (a : Nat) (x : Space) : (s.setSpace a x).pace = s.pace := rfl
@[simp] theorem State.setSpace_seq (s : State) (a : Nat) (x : Space) : (s.setSpace a x).seq = s.seq := rfl
@[simp] theorem State.setSpace_free (s : State) (a : Nat) (x : Space) : (s.setSpace a x).free = s.free := rfl
@[simp] theorem State.setWorld_clock (s : State) (w : Nat) (x : World) : (s.setWorld w x).clock = s.clock := rfl
@[simp] theorem State.setWorld_cycles (s : State) (w : Nat) (x : World) : (s.setWorld w x).cycles = s.cycles := rfl
@[simp] theorem State.setWorld_mem (s : State) (w : Nat) (x : World) : (s.setWorld w x).mem = s.mem := rfl
@[simp] theorem State.setWorld_groups (s : State) (w : Nat) (x : World) : (s.setWorld w x).groups = s.groups := rfl
@[simp] theorem State.setWorld_cores (s : State) (w : Nat) (x : World) : (s.setWorld w x).cores = s.cores := rfl
@[simp] theorem State.setWorld_dies (s : State) (w : Nat) (x : World) : (s.setWorld w x).dies = s.dies := rfl
@[simp] theorem State.setWorld_ios (s : State) (w : Nat) (x : World) : (s.setWorld w x).ios = s.ios := rfl
@[simp] theorem State.setWorld_spaces (s : State) (w : Nat) (x : World) : (s.setWorld w x).spaces = s.spaces := rfl
@[simp] theorem State.setWorld_reqs (s : State) (w : Nat) (x : World) : (s.setWorld w x).reqs = s.reqs := rfl
@[simp] theorem State.setWorld_passes (s : State) (w : Nat) (x : World) : (s.setWorld w x).passes = s.passes := rfl
@[simp] theorem State.setWorld_rings (s : State) (w : Nat) (x : World) : (s.setWorld w x).rings = s.rings := rfl
@[simp] theorem State.setWorld_launches (s : State) (w : Nat) (x : World) : (s.setWorld w x).launches = s.launches := rfl
@[simp] theorem State.setWorld_gangs (s : State) (w : Nat) (x : World) : (s.setWorld w x).gangs = s.gangs := rfl
@[simp] theorem State.setWorld_wgs (s : State) (w : Nat) (x : World) : (s.setWorld w x).wgs = s.wgs := rfl
@[simp] theorem State.setWorld_saved (s : State) (w : Nat) (x : World) : (s.setWorld w x).saved = s.saved := rfl
@[simp] theorem State.setWorld_steals (s : State) (w : Nat) (x : World) : (s.setWorld w x).steals = s.steals := rfl
@[simp] theorem State.setWorld_mr0 (s : State) (w : Nat) (x : World) : (s.setWorld w x).mr0 = s.mr0 := rfl
@[simp] theorem State.setWorld_mr1 (s : State) (w : Nat) (x : World) : (s.setWorld w x).mr1 = s.mr1 := rfl
@[simp] theorem State.setWorld_reductions (s : State) (w : Nat) (x : World) : (s.setWorld w x).reductions = s.reductions := rfl
@[simp] theorem State.setWorld_hosts (s : State) (w : Nat) (x : World) : (s.setWorld w x).hosts = s.hosts := rfl
@[simp] theorem State.setWorld_drift (s : State) (w : Nat) (x : World) : (s.setWorld w x).drift = s.drift := rfl
@[simp] theorem State.setWorld_off (s : State) (w : Nat) (x : World) : (s.setWorld w x).off = s.off := rfl
@[simp] theorem State.setWorld_tripped (s : State) (w : Nat) (x : World) : (s.setWorld w x).tripped = s.tripped := rfl
@[simp] theorem State.setWorld_contexts (s : State) (w : Nat) (x : World) : (s.setWorld w x).contexts = s.contexts := rfl
@[simp] theorem State.setWorld_launched (s : State) (w : Nat) (x : World) : (s.setWorld w x).launched = s.launched := rfl
@[simp] theorem State.setWorld_boot (s : State) (w : Nat) (x : World) : (s.setWorld w x).boot = s.boot := rfl
@[simp] theorem State.setWorld_version (s : State) (w : Nat) (x : World) : (s.setWorld w x).version = s.version := rfl
@[simp] theorem State.setWorld_cur (s : State) (w : Nat) (x : World) : (s.setWorld w x).cur = s.cur := rfl
@[simp] theorem State.setWorld_agenda (s : State) (w : Nat) (x : World) : (s.setWorld w x).agenda = s.agenda := rfl
@[simp] theorem State.setWorld_pace (s : State) (w : Nat) (x : World) : (s.setWorld w x).pace = s.pace := rfl
@[simp] theorem State.setWorld_seq (s : State) (w : Nat) (x : World) : (s.setWorld w x).seq = s.seq := rfl
@[simp] theorem State.setWorld_free (s : State) (w : Nat) (x : World) : (s.setWorld w x).free = s.free := rfl
@[simp] theorem State.setWg_clock (s : State) (w : Nat) (x : Workgroup) : (s.setWg w x).clock = s.clock := rfl
@[simp] theorem State.setWg_cycles (s : State) (w : Nat) (x : Workgroup) : (s.setWg w x).cycles = s.cycles := rfl
@[simp] theorem State.setWg_mem (s : State) (w : Nat) (x : Workgroup) : (s.setWg w x).mem = s.mem := rfl
@[simp] theorem State.setWg_groups (s : State) (w : Nat) (x : Workgroup) : (s.setWg w x).groups = s.groups := rfl
@[simp] theorem State.setWg_cores (s : State) (w : Nat) (x : Workgroup) : (s.setWg w x).cores = s.cores := rfl
@[simp] theorem State.setWg_dies (s : State) (w : Nat) (x : Workgroup) : (s.setWg w x).dies = s.dies := rfl
@[simp] theorem State.setWg_ios (s : State) (w : Nat) (x : Workgroup) : (s.setWg w x).ios = s.ios := rfl
@[simp] theorem State.setWg_spaces (s : State) (w : Nat) (x : Workgroup) : (s.setWg w x).spaces = s.spaces := rfl
@[simp] theorem State.setWg_reqs (s : State) (w : Nat) (x : Workgroup) : (s.setWg w x).reqs = s.reqs := rfl
@[simp] theorem State.setWg_passes (s : State) (w : Nat) (x : Workgroup) : (s.setWg w x).passes = s.passes := rfl
@[simp] theorem State.setWg_rings (s : State) (w : Nat) (x : Workgroup) : (s.setWg w x).rings = s.rings := rfl
@[simp] theorem State.setWg_launches (s : State) (w : Nat) (x : Workgroup) : (s.setWg w x).launches = s.launches := rfl
@[simp] theorem State.setWg_gangs (s : State) (w : Nat) (x : Workgroup) : (s.setWg w x).gangs = s.gangs := rfl
@[simp] theorem State.setWg_saved (s : State) (w : Nat) (x : Workgroup) : (s.setWg w x).saved = s.saved := rfl
@[simp] theorem State.setWg_steals (s : State) (w : Nat) (x : Workgroup) : (s.setWg w x).steals = s.steals := rfl
@[simp] theorem State.setWg_worlds (s : State) (w : Nat) (x : Workgroup) : (s.setWg w x).worlds = s.worlds := rfl
@[simp] theorem State.setWg_mr0 (s : State) (w : Nat) (x : Workgroup) : (s.setWg w x).mr0 = s.mr0 := rfl
@[simp] theorem State.setWg_mr1 (s : State) (w : Nat) (x : Workgroup) : (s.setWg w x).mr1 = s.mr1 := rfl
@[simp] theorem State.setWg_reductions (s : State) (w : Nat) (x : Workgroup) : (s.setWg w x).reductions = s.reductions := rfl
@[simp] theorem State.setWg_hosts (s : State) (w : Nat) (x : Workgroup) : (s.setWg w x).hosts = s.hosts := rfl
@[simp] theorem State.setWg_drift (s : State) (w : Nat) (x : Workgroup) : (s.setWg w x).drift = s.drift := rfl
@[simp] theorem State.setWg_off (s : State) (w : Nat) (x : Workgroup) : (s.setWg w x).off = s.off := rfl
@[simp] theorem State.setWg_tripped (s : State) (w : Nat) (x : Workgroup) : (s.setWg w x).tripped = s.tripped := rfl
@[simp] theorem State.setWg_contexts (s : State) (w : Nat) (x : Workgroup) : (s.setWg w x).contexts = s.contexts := rfl
@[simp] theorem State.setWg_launched (s : State) (w : Nat) (x : Workgroup) : (s.setWg w x).launched = s.launched := rfl
@[simp] theorem State.setWg_boot (s : State) (w : Nat) (x : Workgroup) : (s.setWg w x).boot = s.boot := rfl
@[simp] theorem State.setWg_version (s : State) (w : Nat) (x : Workgroup) : (s.setWg w x).version = s.version := rfl
@[simp] theorem State.setWg_cur (s : State) (w : Nat) (x : Workgroup) : (s.setWg w x).cur = s.cur := rfl
@[simp] theorem State.setWg_agenda (s : State) (w : Nat) (x : Workgroup) : (s.setWg w x).agenda = s.agenda := rfl
@[simp] theorem State.setWg_pace (s : State) (w : Nat) (x : Workgroup) : (s.setWg w x).pace = s.pace := rfl
@[simp] theorem State.setWg_seq (s : State) (w : Nat) (x : Workgroup) : (s.setWg w x).seq = s.seq := rfl
@[simp] theorem State.setWg_free (s : State) (w : Nat) (x : Workgroup) : (s.setWg w x).free = s.free := rfl
@[simp] theorem State.draw_clock (s : State) : s.draw.clock = s.clock := rfl
@[simp] theorem State.draw_cycles (s : State) : s.draw.cycles = s.cycles := rfl
@[simp] theorem State.draw_mem (s : State) : s.draw.mem = s.mem := rfl
@[simp] theorem State.draw_groups (s : State) : s.draw.groups = s.groups := rfl
@[simp] theorem State.draw_cores (s : State) : s.draw.cores = s.cores := rfl
@[simp] theorem State.draw_dies (s : State) : s.draw.dies = s.dies := rfl
@[simp] theorem State.draw_ios (s : State) : s.draw.ios = s.ios := rfl
@[simp] theorem State.draw_spaces (s : State) : s.draw.spaces = s.spaces := rfl
@[simp] theorem State.draw_reqs (s : State) : s.draw.reqs = s.reqs := rfl
@[simp] theorem State.draw_passes (s : State) : s.draw.passes = s.passes := rfl
@[simp] theorem State.draw_rings (s : State) : s.draw.rings = s.rings := rfl
@[simp] theorem State.draw_launches (s : State) : s.draw.launches = s.launches := rfl
@[simp] theorem State.draw_gangs (s : State) : s.draw.gangs = s.gangs := rfl
@[simp] theorem State.draw_wgs (s : State) : s.draw.wgs = s.wgs := rfl
@[simp] theorem State.draw_saved (s : State) : s.draw.saved = s.saved := rfl
@[simp] theorem State.draw_steals (s : State) : s.draw.steals = s.steals := rfl
@[simp] theorem State.draw_worlds (s : State) : s.draw.worlds = s.worlds := rfl
@[simp] theorem State.draw_mr0 (s : State) : s.draw.mr0 = s.mr0 := rfl
@[simp] theorem State.draw_mr1 (s : State) : s.draw.mr1 = s.mr1 := rfl
@[simp] theorem State.draw_reductions (s : State) : s.draw.reductions = s.reductions := rfl
@[simp] theorem State.draw_hosts (s : State) : s.draw.hosts = s.hosts := rfl
@[simp] theorem State.draw_drift (s : State) : s.draw.drift = s.drift := rfl
@[simp] theorem State.draw_off (s : State) : s.draw.off = s.off := rfl
@[simp] theorem State.draw_tripped (s : State) : s.draw.tripped = s.tripped := rfl
@[simp] theorem State.draw_contexts (s : State) : s.draw.contexts = s.contexts := rfl
@[simp] theorem State.draw_launched (s : State) : s.draw.launched = s.launched := rfl
@[simp] theorem State.draw_boot (s : State) : s.draw.boot = s.boot := rfl
@[simp] theorem State.draw_version (s : State) : s.draw.version = s.version := rfl
@[simp] theorem State.draw_cur (s : State) : s.draw.cur = s.cur := rfl
@[simp] theorem State.draw_agenda (s : State) : s.draw.agenda = s.agenda := rfl
@[simp] theorem State.draw_pace (s : State) : s.draw.pace = s.pace := rfl
@[simp] theorem State.draw_seq (s : State) : s.draw.seq = s.seq := rfl
@[simp] theorem State.draw_free (s : State) : s.draw.free = s.free + 1 := rfl

/-! Reading what was written, and what was not. -/

theorem State.group_setGroup (s : State) (i : Nat) (x : Group) (j : Nat) : (s.setGroup i x).group j = if j = i then x else s.group j := Tab.get_put _ _ i x j
@[simp] theorem State.group_setGroup_self (s : State) (i : Nat) (x : Group) : (s.setGroup i x).group i = x := Tab.get_put_self _ _ i x
@[simp] theorem State.core_setGroup (s : State) (i : Nat) (x : Group) (j : Nat) : (s.setGroup i x).core j = s.core j := rfl
@[simp] theorem State.die_setGroup (s : State) (i : Nat) (x : Group) (j : Nat) : (s.setGroup i x).die j = s.die j := rfl
@[simp] theorem State.io_setGroup (s : State) (i : Nat) (x : Group) (j : Nat) : (s.setGroup i x).io j = s.io j := rfl
@[simp] theorem State.space_setGroup (s : State) (i : Nat) (x : Group) (j : Nat) : (s.setGroup i x).space j = s.space j := rfl
@[simp] theorem State.world_setGroup (s : State) (i : Nat) (x : Group) (j : Nat) : (s.setGroup i x).world j = s.world j := rfl
@[simp] theorem State.wg_setGroup (s : State) (i : Nat) (x : Group) (j : Nat) : (s.setGroup i x).wg j = s.wg j := rfl
theorem State.core_setCore (s : State) (i : Nat) (x : Core) (j : Nat) : (s.setCore i x).core j = if j = i then x else s.core j := Tab.get_put _ _ i x j
@[simp] theorem State.core_setCore_self (s : State) (i : Nat) (x : Core) : (s.setCore i x).core i = x := Tab.get_put_self _ _ i x
@[simp] theorem State.group_setCore (s : State) (i : Nat) (x : Core) (j : Nat) : (s.setCore i x).group j = s.group j := rfl
@[simp] theorem State.die_setCore (s : State) (i : Nat) (x : Core) (j : Nat) : (s.setCore i x).die j = s.die j := rfl
@[simp] theorem State.io_setCore (s : State) (i : Nat) (x : Core) (j : Nat) : (s.setCore i x).io j = s.io j := rfl
@[simp] theorem State.space_setCore (s : State) (i : Nat) (x : Core) (j : Nat) : (s.setCore i x).space j = s.space j := rfl
@[simp] theorem State.world_setCore (s : State) (i : Nat) (x : Core) (j : Nat) : (s.setCore i x).world j = s.world j := rfl
@[simp] theorem State.wg_setCore (s : State) (i : Nat) (x : Core) (j : Nat) : (s.setCore i x).wg j = s.wg j := rfl
theorem State.die_setDie (s : State) (i : Nat) (x : Die) (j : Nat) : (s.setDie i x).die j = if j = i then x else s.die j := Tab.get_put _ _ i x j
@[simp] theorem State.die_setDie_self (s : State) (i : Nat) (x : Die) : (s.setDie i x).die i = x := Tab.get_put_self _ _ i x
@[simp] theorem State.group_setDie (s : State) (i : Nat) (x : Die) (j : Nat) : (s.setDie i x).group j = s.group j := rfl
@[simp] theorem State.core_setDie (s : State) (i : Nat) (x : Die) (j : Nat) : (s.setDie i x).core j = s.core j := rfl
@[simp] theorem State.io_setDie (s : State) (i : Nat) (x : Die) (j : Nat) : (s.setDie i x).io j = s.io j := rfl
@[simp] theorem State.space_setDie (s : State) (i : Nat) (x : Die) (j : Nat) : (s.setDie i x).space j = s.space j := rfl
@[simp] theorem State.world_setDie (s : State) (i : Nat) (x : Die) (j : Nat) : (s.setDie i x).world j = s.world j := rfl
@[simp] theorem State.wg_setDie (s : State) (i : Nat) (x : Die) (j : Nat) : (s.setDie i x).wg j = s.wg j := rfl
theorem State.io_setIo (s : State) (i : Nat) (x : IoDie) (j : Nat) : (s.setIo i x).io j = if j = i then x else s.io j := Tab.get_put _ _ i x j
@[simp] theorem State.io_setIo_self (s : State) (i : Nat) (x : IoDie) : (s.setIo i x).io i = x := Tab.get_put_self _ _ i x
@[simp] theorem State.group_setIo (s : State) (i : Nat) (x : IoDie) (j : Nat) : (s.setIo i x).group j = s.group j := rfl
@[simp] theorem State.core_setIo (s : State) (i : Nat) (x : IoDie) (j : Nat) : (s.setIo i x).core j = s.core j := rfl
@[simp] theorem State.die_setIo (s : State) (i : Nat) (x : IoDie) (j : Nat) : (s.setIo i x).die j = s.die j := rfl
@[simp] theorem State.space_setIo (s : State) (i : Nat) (x : IoDie) (j : Nat) : (s.setIo i x).space j = s.space j := rfl
@[simp] theorem State.world_setIo (s : State) (i : Nat) (x : IoDie) (j : Nat) : (s.setIo i x).world j = s.world j := rfl
@[simp] theorem State.wg_setIo (s : State) (i : Nat) (x : IoDie) (j : Nat) : (s.setIo i x).wg j = s.wg j := rfl
theorem State.space_setSpace (s : State) (i : Nat) (x : Space) (j : Nat) : (s.setSpace i x).space j = if j = i then x else s.space j := Tab.get_put _ _ i x j
@[simp] theorem State.space_setSpace_self (s : State) (i : Nat) (x : Space) : (s.setSpace i x).space i = x := Tab.get_put_self _ _ i x
@[simp] theorem State.group_setSpace (s : State) (i : Nat) (x : Space) (j : Nat) : (s.setSpace i x).group j = s.group j := rfl
@[simp] theorem State.core_setSpace (s : State) (i : Nat) (x : Space) (j : Nat) : (s.setSpace i x).core j = s.core j := rfl
@[simp] theorem State.die_setSpace (s : State) (i : Nat) (x : Space) (j : Nat) : (s.setSpace i x).die j = s.die j := rfl
@[simp] theorem State.io_setSpace (s : State) (i : Nat) (x : Space) (j : Nat) : (s.setSpace i x).io j = s.io j := rfl
@[simp] theorem State.world_setSpace (s : State) (i : Nat) (x : Space) (j : Nat) : (s.setSpace i x).world j = s.world j := rfl
@[simp] theorem State.wg_setSpace (s : State) (i : Nat) (x : Space) (j : Nat) : (s.setSpace i x).wg j = s.wg j := rfl
theorem State.world_setWorld (s : State) (i : Nat) (x : World) (j : Nat) : (s.setWorld i x).world j = if j = i then x else s.world j := Tab.get_put _ _ i x j
@[simp] theorem State.world_setWorld_self (s : State) (i : Nat) (x : World) : (s.setWorld i x).world i = x := Tab.get_put_self _ _ i x
@[simp] theorem State.group_setWorld (s : State) (i : Nat) (x : World) (j : Nat) : (s.setWorld i x).group j = s.group j := rfl
@[simp] theorem State.core_setWorld (s : State) (i : Nat) (x : World) (j : Nat) : (s.setWorld i x).core j = s.core j := rfl
@[simp] theorem State.die_setWorld (s : State) (i : Nat) (x : World) (j : Nat) : (s.setWorld i x).die j = s.die j := rfl
@[simp] theorem State.io_setWorld (s : State) (i : Nat) (x : World) (j : Nat) : (s.setWorld i x).io j = s.io j := rfl
@[simp] theorem State.space_setWorld (s : State) (i : Nat) (x : World) (j : Nat) : (s.setWorld i x).space j = s.space j := rfl
@[simp] theorem State.wg_setWorld (s : State) (i : Nat) (x : World) (j : Nat) : (s.setWorld i x).wg j = s.wg j := rfl
theorem State.wg_setWg (s : State) (i : Nat) (x : Workgroup) (j : Nat) : (s.setWg i x).wg j = if j = i then x else s.wg j := Tab.get_put _ _ i x j
@[simp] theorem State.wg_setWg_self (s : State) (i : Nat) (x : Workgroup) : (s.setWg i x).wg i = x := Tab.get_put_self _ _ i x
@[simp] theorem State.group_setWg (s : State) (i : Nat) (x : Workgroup) (j : Nat) : (s.setWg i x).group j = s.group j := rfl
@[simp] theorem State.core_setWg (s : State) (i : Nat) (x : Workgroup) (j : Nat) : (s.setWg i x).core j = s.core j := rfl
@[simp] theorem State.die_setWg (s : State) (i : Nat) (x : Workgroup) (j : Nat) : (s.setWg i x).die j = s.die j := rfl
@[simp] theorem State.io_setWg (s : State) (i : Nat) (x : Workgroup) (j : Nat) : (s.setWg i x).io j = s.io j := rfl
@[simp] theorem State.space_setWg (s : State) (i : Nat) (x : Workgroup) (j : Nat) : (s.setWg i x).space j = s.space j := rfl
@[simp] theorem State.world_setWg (s : State) (i : Nat) (x : Workgroup) (j : Nat) : (s.setWg i x).world j = s.world j := rfl

/-- The last of two writes of one group stays. -/
theorem State.setGroup_setGroup (s : State) (i : Nat) (g h : Group) : (s.setGroup i g).setGroup i h = s.setGroup i h := by
  simp only [State.setGroup, Tab.put_put]

/-! A group. -/

@[simp] theorem Group.setLane_status (g : Group) (l : Nat) (x : Lane) : (g.setLane l x).status = g.status := by unfold Group.setLane; rfl
@[simp] theorem Group.setLane_v (g : Group) (l : Nat) (x : Lane) : (g.setLane l x).v = g.v := by unfold Group.setLane; rfl
@[simp] theorem Group.setLane_tag (g : Group) (l : Nat) (x : Lane) : (g.setLane l x).tag = g.tag := by unfold Group.setLane; rfl
@[simp] theorem Group.setLane_empt (g : Group) (l : Nat) (x : Lane) : (g.setLane l x).empt = g.empt := by unfold Group.setLane; rfl
@[simp] theorem Group.setLane_dead (g : Group) (l : Nat) (x : Lane) : (g.setLane l x).dead = g.dead := by unfold Group.setLane; rfl
@[simp] theorem Group.setLane_oc (g : Group) (l : Nat) (x : Lane) : (g.setLane l x).oc = g.oc := by unfold Group.setLane; rfl
@[simp] theorem Group.setLane_gsw (g : Group) (l : Nat) (x : Lane) : (g.setLane l x).gsw = g.gsw := by unfold Group.setLane; rfl
@[simp] theorem Group.setLane_ext (g : Group) (l : Nat) (x : Lane) : (g.setLane l x).ext = g.ext := by unfold Group.setLane; rfl
@[simp] theorem Group.setLane_trap (g : Group) (l : Nat) (x : Lane) : (g.setLane l x).trap = g.trap := by unfold Group.setLane; rfl
@[simp] theorem Group.setLane_dc (g : Group) (l : Nat) (x : Lane) : (g.setLane l x).dc = g.dc := by unfold Group.setLane; rfl
@[simp] theorem Group.setLane_dcScope (g : Group) (l : Nat) (x : Lane) : (g.setLane l x).dcScope = g.dcScope := by unfold Group.setLane; rfl
@[simp] theorem Group.setLane_arr (g : Group) (l : Nat) (x : Lane) : (g.setLane l x).arr = g.arr := by unfold Group.setLane; rfl
@[simp] theorem Group.setLane_ctxid (g : Group) (l : Nat) (x : Lane) : (g.setLane l x).ctxid = g.ctxid := by unfold Group.setLane; rfl
@[simp] theorem Group.setLane_ac0 (g : Group) (l : Nat) (x : Lane) : (g.setLane l x).ac0 = g.ac0 := by unfold Group.setLane; rfl
@[simp] theorem Group.setLane_ac1 (g : Group) (l : Nat) (x : Lane) : (g.setLane l x).ac1 = g.ac1 := by unfold Group.setLane; rfl
@[simp] theorem Group.setLane_accslot0 (g : Group) (l : Nat) (x : Lane) : (g.setLane l x).accslot0 = g.accslot0 := by unfold Group.setLane; rfl
@[simp] theorem Group.setLane_accslot1 (g : Group) (l : Nat) (x : Lane) : (g.setLane l x).accslot1 = g.accslot1 := by unfold Group.setLane; rfl
@[simp] theorem Group.setLane_lutsrc (g : Group) (l : Nat) (x : Lane) : (g.setLane l x).lutsrc = g.lutsrc := by unfold Group.setLane; rfl
@[simp] theorem Group.setLane_world (g : Group) (l : Nat) (x : Lane) : (g.setLane l x).world = g.world := by unfold Group.setLane; rfl
@[simp] theorem Group.setLane_asid (g : Group) (l : Nat) (x : Lane) : (g.setLane l x).asid = g.asid := by unfold Group.setLane; rfl
@[simp] theorem Group.setLane_cgen (g : Group) (l : Nat) (x : Lane) : (g.setLane l x).cgen = g.cgen := by unfold Group.setLane; rfl
@[simp] theorem Group.setLane_vdev (g : Group) (l : Nat) (x : Lane) : (g.setLane l x).vdev = g.vdev := by unfold Group.setLane; rfl
@[simp] theorem Group.setLane_k (g : Group) (l : Nat) (x : Lane) : (g.setLane l x).k = g.k := by unfold Group.setLane; rfl
@[simp] theorem Group.setLane_launch (g : Group) (l : Nat) (x : Lane) : (g.setLane l x).launch = g.launch := by unfold Group.setLane; rfl
@[simp] theorem Group.setLane_gang (g : Group) (l : Nat) (x : Lane) : (g.setLane l x).gang = g.gang := by unfold Group.setLane; rfl
@[simp] theorem Group.setLane_wg (g : Group) (l : Nat) (x : Lane) : (g.setLane l x).wg = g.wg := by unfold Group.setLane; rfl
@[simp] theorem Group.setLane_wgIdx (g : Group) (l : Nat) (x : Lane) : (g.setLane l x).wgIdx = g.wgIdx := by unfold Group.setLane; rfl
@[simp] theorem Group.setLane_gangIdx (g : Group) (l : Nat) (x : Lane) : (g.setLane l x).gangIdx = g.gangIdx := by unfold Group.setLane; rfl
@[simp] theorem Group.setLane_member (g : Group) (l : Nat) (x : Lane) : (g.setLane l x).member = g.member := by unfold Group.setLane; rfl
@[simp] theorem Group.setLane_spbase (g : Group) (l : Nat) (x : Lane) : (g.setLane l x).spbase = g.spbase := by unfold Group.setLane; rfl
@[simp] theorem Group.setLane_wait (g : Group) (l : Nat) (x : Lane) : (g.setLane l x).wait = g.wait := by unfold Group.setLane; rfl
@[simp] theorem Group.setLane_waitLen (g : Group) (l : Nat) (x : Lane) : (g.setLane l x).waitLen = g.waitLen := by unfold Group.setLane; rfl
@[simp] theorem Group.setLane_looksAgain (g : Group) (l : Nat) (x : Lane) : (g.setLane l x).looksAgain = g.looksAgain := by unfold Group.setLane; rfl
@[simp] theorem Group.setLane_blocked (g : Group) (l : Nat) (x : Lane) : (g.setLane l x).blocked = g.blocked := by unfold Group.setLane; rfl
@[simp] theorem Group.setLane_badReg (g : Group) (l : Nat) (x : Lane) : (g.setLane l x).badReg = g.badReg := by unfold Group.setLane; rfl
@[simp] theorem Group.setLane_held (g : Group) (l : Nat) (x : Lane) : (g.setLane l x).held = g.held := by unfold Group.setLane; rfl
@[simp] theorem Group.setLane_satisfied (g : Group) (l : Nat) (x : Lane) : (g.setLane l x).satisfied = g.satisfied := by unfold Group.setLane; rfl
@[simp] theorem Group.setLane_owed (g : Group) (l : Nat) (x : Lane) : (g.setLane l x).owed = g.owed := by unfold Group.setLane; rfl
@[simp] theorem Group.setLane_stopAt (g : Group) (l : Nat) (x : Lane) : (g.setLane l x).stopAt = g.stopAt := by unfold Group.setLane; rfl
@[simp] theorem Group.setLane_pend (g : Group) (l : Nat) (x : Lane) : (g.setLane l x).pend = g.pend := by unfold Group.setLane; rfl
@[simp] theorem Group.setLane_resume (g : Group) (l : Nat) (x : Lane) : (g.setLane l x).resume = g.resume := by unfold Group.setLane; rfl
@[simp] theorem Group.setLane_lastIssue (g : Group) (l : Nat) (x : Lane) : (g.setLane l x).lastIssue = g.lastIssue := by unfold Group.setLane; rfl
@[simp] theorem Group.setLane_readySince (g : Group) (l : Nat) (x : Lane) : (g.setLane l x).readySince = g.readySince := by unfold Group.setLane; rfl
@[simp] theorem Group.setLane_issueNo (g : Group) (l : Nat) (x : Lane) : (g.setLane l x).issueNo = g.issueNo := by unfold Group.setLane; rfl
@[simp] theorem Group.setLane_faulted (g : Group) (l : Nat) (x : Lane) : (g.setLane l x).faulted = g.faulted := by unfold Group.setLane; rfl
@[simp] theorem Group.setLane_relBound (g : Group) (l : Nat) (x : Lane) : (g.setLane l x).relBound = g.relBound := by unfold Group.setLane; rfl
@[simp] theorem Group.setLane_walkFaults (g : Group) (l : Nat) (x : Lane) : (g.setLane l x).walkFaults = g.walkFaults := by unfold Group.setLane; rfl
@[simp] theorem Group.setLane_prior (g : Group) (l : Nat) (x : Lane) : (g.setLane l x).prior = g.prior := by unfold Group.setLane; rfl
@[simp] theorem Group.setTr_status (g : Group) (m : Nat) (t : TrapRegs) : (g.setTr m t).status = g.status := by unfold Group.setTr; rfl
@[simp] theorem Group.setTr_lanes (g : Group) (m : Nat) (t : TrapRegs) : (g.setTr m t).lanes = g.lanes := by unfold Group.setTr; rfl
@[simp] theorem Group.setTr_v (g : Group) (m : Nat) (t : TrapRegs) : (g.setTr m t).v = g.v := by unfold Group.setTr; rfl
@[simp] theorem Group.setTr_tag (g : Group) (m : Nat) (t : TrapRegs) : (g.setTr m t).tag = g.tag := by unfold Group.setTr; rfl
@[simp] theorem Group.setTr_empt (g : Group) (m : Nat) (t : TrapRegs) : (g.setTr m t).empt = g.empt := by unfold Group.setTr; rfl
@[simp] theorem Group.setTr_dead (g : Group) (m : Nat) (t : TrapRegs) : (g.setTr m t).dead = g.dead := by unfold Group.setTr; rfl
@[simp] theorem Group.setTr_oc (g : Group) (m : Nat) (t : TrapRegs) : (g.setTr m t).oc = g.oc := by unfold Group.setTr; rfl
@[simp] theorem Group.setTr_gsw (g : Group) (m : Nat) (t : TrapRegs) : (g.setTr m t).gsw = g.gsw := by unfold Group.setTr; rfl
@[simp] theorem Group.setTr_ext (g : Group) (m : Nat) (t : TrapRegs) : (g.setTr m t).ext = g.ext := by unfold Group.setTr; rfl
@[simp] theorem Group.setTr_dc (g : Group) (m : Nat) (t : TrapRegs) : (g.setTr m t).dc = g.dc := by unfold Group.setTr; rfl
@[simp] theorem Group.setTr_dcScope (g : Group) (m : Nat) (t : TrapRegs) : (g.setTr m t).dcScope = g.dcScope := by unfold Group.setTr; rfl
@[simp] theorem Group.setTr_arr (g : Group) (m : Nat) (t : TrapRegs) : (g.setTr m t).arr = g.arr := by unfold Group.setTr; rfl
@[simp] theorem Group.setTr_ctxid (g : Group) (m : Nat) (t : TrapRegs) : (g.setTr m t).ctxid = g.ctxid := by unfold Group.setTr; rfl
@[simp] theorem Group.setTr_ac0 (g : Group) (m : Nat) (t : TrapRegs) : (g.setTr m t).ac0 = g.ac0 := by unfold Group.setTr; rfl
@[simp] theorem Group.setTr_ac1 (g : Group) (m : Nat) (t : TrapRegs) : (g.setTr m t).ac1 = g.ac1 := by unfold Group.setTr; rfl
@[simp] theorem Group.setTr_accslot0 (g : Group) (m : Nat) (t : TrapRegs) : (g.setTr m t).accslot0 = g.accslot0 := by unfold Group.setTr; rfl
@[simp] theorem Group.setTr_accslot1 (g : Group) (m : Nat) (t : TrapRegs) : (g.setTr m t).accslot1 = g.accslot1 := by unfold Group.setTr; rfl
@[simp] theorem Group.setTr_lutsrc (g : Group) (m : Nat) (t : TrapRegs) : (g.setTr m t).lutsrc = g.lutsrc := by unfold Group.setTr; rfl
@[simp] theorem Group.setTr_world (g : Group) (m : Nat) (t : TrapRegs) : (g.setTr m t).world = g.world := by unfold Group.setTr; rfl
@[simp] theorem Group.setTr_asid (g : Group) (m : Nat) (t : TrapRegs) : (g.setTr m t).asid = g.asid := by unfold Group.setTr; rfl
@[simp] theorem Group.setTr_cgen (g : Group) (m : Nat) (t : TrapRegs) : (g.setTr m t).cgen = g.cgen := by unfold Group.setTr; rfl
@[simp] theorem Group.setTr_vdev (g : Group) (m : Nat) (t : TrapRegs) : (g.setTr m t).vdev = g.vdev := by unfold Group.setTr; rfl
@[simp] theorem Group.setTr_k (g : Group) (m : Nat) (t : TrapRegs) : (g.setTr m t).k = g.k := by unfold Group.setTr; rfl
@[simp] theorem Group.setTr_launch (g : Group) (m : Nat) (t : TrapRegs) : (g.setTr m t).launch = g.launch := by unfold Group.setTr; rfl
@[simp] theorem Group.setTr_gang (g : Group) (m : Nat) (t : TrapRegs) : (g.setTr m t).gang = g.gang := by unfold Group.setTr; rfl
@[simp] theorem Group.setTr_wg (g : Group) (m : Nat) (t : TrapRegs) : (g.setTr m t).wg = g.wg := by unfold Group.setTr; rfl
@[simp] theorem Group.setTr_wgIdx (g : Group) (m : Nat) (t : TrapRegs) : (g.setTr m t).wgIdx = g.wgIdx := by unfold Group.setTr; rfl
@[simp] theorem Group.setTr_gangIdx (g : Group) (m : Nat) (t : TrapRegs) : (g.setTr m t).gangIdx = g.gangIdx := by unfold Group.setTr; rfl
@[simp] theorem Group.setTr_member (g : Group) (m : Nat) (t : TrapRegs) : (g.setTr m t).member = g.member := by unfold Group.setTr; rfl
@[simp] theorem Group.setTr_spbase (g : Group) (m : Nat) (t : TrapRegs) : (g.setTr m t).spbase = g.spbase := by unfold Group.setTr; rfl
@[simp] theorem Group.setTr_wait (g : Group) (m : Nat) (t : TrapRegs) : (g.setTr m t).wait = g.wait := by unfold Group.setTr; rfl
@[simp] theorem Group.setTr_waitLen (g : Group) (m : Nat) (t : TrapRegs) : (g.setTr m t).waitLen = g.waitLen := by unfold Group.setTr; rfl
@[simp] theorem Group.setTr_looksAgain (g : Group) (m : Nat) (t : TrapRegs) : (g.setTr m t).looksAgain = g.looksAgain := by unfold Group.setTr; rfl
@[simp] theorem Group.setTr_blocked (g : Group) (m : Nat) (t : TrapRegs) : (g.setTr m t).blocked = g.blocked := by unfold Group.setTr; rfl
@[simp] theorem Group.setTr_badReg (g : Group) (m : Nat) (t : TrapRegs) : (g.setTr m t).badReg = g.badReg := by unfold Group.setTr; rfl
@[simp] theorem Group.setTr_held (g : Group) (m : Nat) (t : TrapRegs) : (g.setTr m t).held = g.held := by unfold Group.setTr; rfl
@[simp] theorem Group.setTr_satisfied (g : Group) (m : Nat) (t : TrapRegs) : (g.setTr m t).satisfied = g.satisfied := by unfold Group.setTr; rfl
@[simp] theorem Group.setTr_owed (g : Group) (m : Nat) (t : TrapRegs) : (g.setTr m t).owed = g.owed := by unfold Group.setTr; rfl
@[simp] theorem Group.setTr_stopAt (g : Group) (m : Nat) (t : TrapRegs) : (g.setTr m t).stopAt = g.stopAt := by unfold Group.setTr; rfl
@[simp] theorem Group.setTr_pend (g : Group) (m : Nat) (t : TrapRegs) : (g.setTr m t).pend = g.pend := by unfold Group.setTr; rfl
@[simp] theorem Group.setTr_resume (g : Group) (m : Nat) (t : TrapRegs) : (g.setTr m t).resume = g.resume := by unfold Group.setTr; rfl
@[simp] theorem Group.setTr_lastIssue (g : Group) (m : Nat) (t : TrapRegs) : (g.setTr m t).lastIssue = g.lastIssue := by unfold Group.setTr; rfl
@[simp] theorem Group.setTr_readySince (g : Group) (m : Nat) (t : TrapRegs) : (g.setTr m t).readySince = g.readySince := by unfold Group.setTr; rfl
@[simp] theorem Group.setTr_issueNo (g : Group) (m : Nat) (t : TrapRegs) : (g.setTr m t).issueNo = g.issueNo := by unfold Group.setTr; rfl
@[simp] theorem Group.setTr_faulted (g : Group) (m : Nat) (t : TrapRegs) : (g.setTr m t).faulted = g.faulted := by unfold Group.setTr; rfl
@[simp] theorem Group.setTr_relBound (g : Group) (m : Nat) (t : TrapRegs) : (g.setTr m t).relBound = g.relBound := by unfold Group.setTr; rfl
@[simp] theorem Group.setTr_walkFaults (g : Group) (m : Nat) (t : TrapRegs) : (g.setTr m t).walkFaults = g.walkFaults := by unfold Group.setTr; rfl
@[simp] theorem Group.setTr_prior (g : Group) (m : Nat) (t : TrapRegs) : (g.setTr m t).prior = g.prior := by unfold Group.setTr; rfl
@[simp] theorem Group.setPriv_status (g : Group) (m : Nat) : (g.setPriv m).status = g.status := by unfold Group.setPriv; rfl
@[simp] theorem Group.setPriv_lanes (g : Group) (m : Nat) : (g.setPriv m).lanes = g.lanes := by unfold Group.setPriv; rfl
@[simp] theorem Group.setPriv_v (g : Group) (m : Nat) : (g.setPriv m).v = g.v := by unfold Group.setPriv; rfl
@[simp] theorem Group.setPriv_tag (g : Group) (m : Nat) : (g.setPriv m).tag = g.tag := by unfold Group.setPriv; rfl
@[simp] theorem Group.setPriv_empt (g : Group) (m : Nat) : (g.setPriv m).empt = g.empt := by unfold Group.setPriv; rfl
@[simp] theorem Group.setPriv_dead (g : Group) (m : Nat) : (g.setPriv m).dead = g.dead := by unfold Group.setPriv; rfl
@[simp] theorem Group.setPriv_oc (g : Group) (m : Nat) : (g.setPriv m).oc = g.oc := by unfold Group.setPriv; rfl
@[simp] theorem Group.setPriv_ext (g : Group) (m : Nat) : (g.setPriv m).ext = g.ext := by unfold Group.setPriv; rfl
@[simp] theorem Group.setPriv_trap (g : Group) (m : Nat) : (g.setPriv m).trap = g.trap := by unfold Group.setPriv; rfl
@[simp] theorem Group.setPriv_dc (g : Group) (m : Nat) : (g.setPriv m).dc = g.dc := by unfold Group.setPriv; rfl
@[simp] theorem Group.setPriv_dcScope (g : Group) (m : Nat) : (g.setPriv m).dcScope = g.dcScope := by unfold Group.setPriv; rfl
@[simp] theorem Group.setPriv_arr (g : Group) (m : Nat) : (g.setPriv m).arr = g.arr := by unfold Group.setPriv; rfl
@[simp] theorem Group.setPriv_ctxid (g : Group) (m : Nat) : (g.setPriv m).ctxid = g.ctxid := by unfold Group.setPriv; rfl
@[simp] theorem Group.setPriv_ac0 (g : Group) (m : Nat) : (g.setPriv m).ac0 = g.ac0 := by unfold Group.setPriv; rfl
@[simp] theorem Group.setPriv_ac1 (g : Group) (m : Nat) : (g.setPriv m).ac1 = g.ac1 := by unfold Group.setPriv; rfl
@[simp] theorem Group.setPriv_accslot0 (g : Group) (m : Nat) : (g.setPriv m).accslot0 = g.accslot0 := by unfold Group.setPriv; rfl
@[simp] theorem Group.setPriv_accslot1 (g : Group) (m : Nat) : (g.setPriv m).accslot1 = g.accslot1 := by unfold Group.setPriv; rfl
@[simp] theorem Group.setPriv_lutsrc (g : Group) (m : Nat) : (g.setPriv m).lutsrc = g.lutsrc := by unfold Group.setPriv; rfl
@[simp] theorem Group.setPriv_world (g : Group) (m : Nat) : (g.setPriv m).world = g.world := by unfold Group.setPriv; rfl
@[simp] theorem Group.setPriv_asid (g : Group) (m : Nat) : (g.setPriv m).asid = g.asid := by unfold Group.setPriv; rfl
@[simp] theorem Group.setPriv_cgen (g : Group) (m : Nat) : (g.setPriv m).cgen = g.cgen := by unfold Group.setPriv; rfl
@[simp] theorem Group.setPriv_vdev (g : Group) (m : Nat) : (g.setPriv m).vdev = g.vdev := by unfold Group.setPriv; rfl
@[simp] theorem Group.setPriv_k (g : Group) (m : Nat) : (g.setPriv m).k = g.k := by unfold Group.setPriv; rfl
@[simp] theorem Group.setPriv_launch (g : Group) (m : Nat) : (g.setPriv m).launch = g.launch := by unfold Group.setPriv; rfl
@[simp] theorem Group.setPriv_gang (g : Group) (m : Nat) : (g.setPriv m).gang = g.gang := by unfold Group.setPriv; rfl
@[simp] theorem Group.setPriv_wg (g : Group) (m : Nat) : (g.setPriv m).wg = g.wg := by unfold Group.setPriv; rfl
@[simp] theorem Group.setPriv_wgIdx (g : Group) (m : Nat) : (g.setPriv m).wgIdx = g.wgIdx := by unfold Group.setPriv; rfl
@[simp] theorem Group.setPriv_gangIdx (g : Group) (m : Nat) : (g.setPriv m).gangIdx = g.gangIdx := by unfold Group.setPriv; rfl
@[simp] theorem Group.setPriv_member (g : Group) (m : Nat) : (g.setPriv m).member = g.member := by unfold Group.setPriv; rfl
@[simp] theorem Group.setPriv_spbase (g : Group) (m : Nat) : (g.setPriv m).spbase = g.spbase := by unfold Group.setPriv; rfl
@[simp] theorem Group.setPriv_wait (g : Group) (m : Nat) : (g.setPriv m).wait = g.wait := by unfold Group.setPriv; rfl
@[simp] theorem Group.setPriv_waitLen (g : Group) (m : Nat) : (g.setPriv m).waitLen = g.waitLen := by unfold Group.setPriv; rfl
@[simp] theorem Group.setPriv_looksAgain (g : Group) (m : Nat) : (g.setPriv m).looksAgain = g.looksAgain := by unfold Group.setPriv; rfl
@[simp] theorem Group.setPriv_blocked (g : Group) (m : Nat) : (g.setPriv m).blocked = g.blocked := by unfold Group.setPriv; rfl
@[simp] theorem Group.setPriv_badReg (g : Group) (m : Nat) : (g.setPriv m).badReg = g.badReg := by unfold Group.setPriv; rfl
@[simp] theorem Group.setPriv_held (g : Group) (m : Nat) : (g.setPriv m).held = g.held := by unfold Group.setPriv; rfl
@[simp] theorem Group.setPriv_satisfied (g : Group) (m : Nat) : (g.setPriv m).satisfied = g.satisfied := by unfold Group.setPriv; rfl
@[simp] theorem Group.setPriv_owed (g : Group) (m : Nat) : (g.setPriv m).owed = g.owed := by unfold Group.setPriv; rfl
@[simp] theorem Group.setPriv_stopAt (g : Group) (m : Nat) : (g.setPriv m).stopAt = g.stopAt := by unfold Group.setPriv; rfl
@[simp] theorem Group.setPriv_pend (g : Group) (m : Nat) : (g.setPriv m).pend = g.pend := by unfold Group.setPriv; rfl
@[simp] theorem Group.setPriv_resume (g : Group) (m : Nat) : (g.setPriv m).resume = g.resume := by unfold Group.setPriv; rfl
@[simp] theorem Group.setPriv_lastIssue (g : Group) (m : Nat) : (g.setPriv m).lastIssue = g.lastIssue := by unfold Group.setPriv; rfl
@[simp] theorem Group.setPriv_readySince (g : Group) (m : Nat) : (g.setPriv m).readySince = g.readySince := by unfold Group.setPriv; rfl
@[simp] theorem Group.setPriv_issueNo (g : Group) (m : Nat) : (g.setPriv m).issueNo = g.issueNo := by unfold Group.setPriv; rfl
@[simp] theorem Group.setPriv_faulted (g : Group) (m : Nat) : (g.setPriv m).faulted = g.faulted := by unfold Group.setPriv; rfl
@[simp] theorem Group.setPriv_relBound (g : Group) (m : Nat) : (g.setPriv m).relBound = g.relBound := by unfold Group.setPriv; rfl
@[simp] theorem Group.setPriv_walkFaults (g : Group) (m : Nat) : (g.setPriv m).walkFaults = g.walkFaults := by unfold Group.setPriv; rfl
@[simp] theorem Group.setPriv_prior (g : Group) (m : Nat) : (g.setPriv m).prior = g.prior := by unfold Group.setPriv; rfl
@[simp] theorem Group.setStep_status (g : Group) (b : Bool) : (g.setStep b).status = g.status := by unfold Group.setStep; rfl
@[simp] theorem Group.setStep_lanes (g : Group) (b : Bool) : (g.setStep b).lanes = g.lanes := by unfold Group.setStep; rfl
@[simp] theorem Group.setStep_v (g : Group) (b : Bool) : (g.setStep b).v = g.v := by unfold Group.setStep; rfl
@[simp] theorem Group.setStep_tag (g : Group) (b : Bool) : (g.setStep b).tag = g.tag := by unfold Group.setStep; rfl
@[simp] theorem Group.setStep_empt (g : Group) (b : Bool) : (g.setStep b).empt = g.empt := by unfold Group.setStep; rfl
@[simp] theorem Group.setStep_dead (g : Group) (b : Bool) : (g.setStep b).dead = g.dead := by unfold Group.setStep; rfl
@[simp] theorem Group.setStep_oc (g : Group) (b : Bool) : (g.setStep b).oc = g.oc := by unfold Group.setStep; rfl
@[simp] theorem Group.setStep_ext (g : Group) (b : Bool) : (g.setStep b).ext = g.ext := by unfold Group.setStep; rfl
@[simp] theorem Group.setStep_trap (g : Group) (b : Bool) : (g.setStep b).trap = g.trap := by unfold Group.setStep; rfl
@[simp] theorem Group.setStep_dc (g : Group) (b : Bool) : (g.setStep b).dc = g.dc := by unfold Group.setStep; rfl
@[simp] theorem Group.setStep_dcScope (g : Group) (b : Bool) : (g.setStep b).dcScope = g.dcScope := by unfold Group.setStep; rfl
@[simp] theorem Group.setStep_arr (g : Group) (b : Bool) : (g.setStep b).arr = g.arr := by unfold Group.setStep; rfl
@[simp] theorem Group.setStep_ctxid (g : Group) (b : Bool) : (g.setStep b).ctxid = g.ctxid := by unfold Group.setStep; rfl
@[simp] theorem Group.setStep_ac0 (g : Group) (b : Bool) : (g.setStep b).ac0 = g.ac0 := by unfold Group.setStep; rfl
@[simp] theorem Group.setStep_ac1 (g : Group) (b : Bool) : (g.setStep b).ac1 = g.ac1 := by unfold Group.setStep; rfl
@[simp] theorem Group.setStep_accslot0 (g : Group) (b : Bool) : (g.setStep b).accslot0 = g.accslot0 := by unfold Group.setStep; rfl
@[simp] theorem Group.setStep_accslot1 (g : Group) (b : Bool) : (g.setStep b).accslot1 = g.accslot1 := by unfold Group.setStep; rfl
@[simp] theorem Group.setStep_lutsrc (g : Group) (b : Bool) : (g.setStep b).lutsrc = g.lutsrc := by unfold Group.setStep; rfl
@[simp] theorem Group.setStep_world (g : Group) (b : Bool) : (g.setStep b).world = g.world := by unfold Group.setStep; rfl
@[simp] theorem Group.setStep_asid (g : Group) (b : Bool) : (g.setStep b).asid = g.asid := by unfold Group.setStep; rfl
@[simp] theorem Group.setStep_cgen (g : Group) (b : Bool) : (g.setStep b).cgen = g.cgen := by unfold Group.setStep; rfl
@[simp] theorem Group.setStep_vdev (g : Group) (b : Bool) : (g.setStep b).vdev = g.vdev := by unfold Group.setStep; rfl
@[simp] theorem Group.setStep_k (g : Group) (b : Bool) : (g.setStep b).k = g.k := by unfold Group.setStep; rfl
@[simp] theorem Group.setStep_launch (g : Group) (b : Bool) : (g.setStep b).launch = g.launch := by unfold Group.setStep; rfl
@[simp] theorem Group.setStep_gang (g : Group) (b : Bool) : (g.setStep b).gang = g.gang := by unfold Group.setStep; rfl
@[simp] theorem Group.setStep_wg (g : Group) (b : Bool) : (g.setStep b).wg = g.wg := by unfold Group.setStep; rfl
@[simp] theorem Group.setStep_wgIdx (g : Group) (b : Bool) : (g.setStep b).wgIdx = g.wgIdx := by unfold Group.setStep; rfl
@[simp] theorem Group.setStep_gangIdx (g : Group) (b : Bool) : (g.setStep b).gangIdx = g.gangIdx := by unfold Group.setStep; rfl
@[simp] theorem Group.setStep_member (g : Group) (b : Bool) : (g.setStep b).member = g.member := by unfold Group.setStep; rfl
@[simp] theorem Group.setStep_spbase (g : Group) (b : Bool) : (g.setStep b).spbase = g.spbase := by unfold Group.setStep; rfl
@[simp] theorem Group.setStep_wait (g : Group) (b : Bool) : (g.setStep b).wait = g.wait := by unfold Group.setStep; rfl
@[simp] theorem Group.setStep_waitLen (g : Group) (b : Bool) : (g.setStep b).waitLen = g.waitLen := by unfold Group.setStep; rfl
@[simp] theorem Group.setStep_looksAgain (g : Group) (b : Bool) : (g.setStep b).looksAgain = g.looksAgain := by unfold Group.setStep; rfl
@[simp] theorem Group.setStep_blocked (g : Group) (b : Bool) : (g.setStep b).blocked = g.blocked := by unfold Group.setStep; rfl
@[simp] theorem Group.setStep_badReg (g : Group) (b : Bool) : (g.setStep b).badReg = g.badReg := by unfold Group.setStep; rfl
@[simp] theorem Group.setStep_held (g : Group) (b : Bool) : (g.setStep b).held = g.held := by unfold Group.setStep; rfl
@[simp] theorem Group.setStep_satisfied (g : Group) (b : Bool) : (g.setStep b).satisfied = g.satisfied := by unfold Group.setStep; rfl
@[simp] theorem Group.setStep_owed (g : Group) (b : Bool) : (g.setStep b).owed = g.owed := by unfold Group.setStep; rfl
@[simp] theorem Group.setStep_stopAt (g : Group) (b : Bool) : (g.setStep b).stopAt = g.stopAt := by unfold Group.setStep; rfl
@[simp] theorem Group.setStep_pend (g : Group) (b : Bool) : (g.setStep b).pend = g.pend := by unfold Group.setStep; rfl
@[simp] theorem Group.setStep_resume (g : Group) (b : Bool) : (g.setStep b).resume = g.resume := by unfold Group.setStep; rfl
@[simp] theorem Group.setStep_lastIssue (g : Group) (b : Bool) : (g.setStep b).lastIssue = g.lastIssue := by unfold Group.setStep; rfl
@[simp] theorem Group.setStep_readySince (g : Group) (b : Bool) : (g.setStep b).readySince = g.readySince := by unfold Group.setStep; rfl
@[simp] theorem Group.setStep_issueNo (g : Group) (b : Bool) : (g.setStep b).issueNo = g.issueNo := by unfold Group.setStep; rfl
@[simp] theorem Group.setStep_faulted (g : Group) (b : Bool) : (g.setStep b).faulted = g.faulted := by unfold Group.setStep; rfl
@[simp] theorem Group.setStep_relBound (g : Group) (b : Bool) : (g.setStep b).relBound = g.relBound := by unfold Group.setStep; rfl
@[simp] theorem Group.setStep_walkFaults (g : Group) (b : Bool) : (g.setStep b).walkFaults = g.walkFaults := by unfold Group.setStep; rfl
@[simp] theorem Group.setStep_prior (g : Group) (b : Bool) : (g.setStep b).prior = g.prior := by unfold Group.setStep; rfl
@[simp] theorem Group.setEmpty_status (g : Group) (r : Nat) (b : Bool) : (g.setEmpty r b).status = g.status := by unfold Group.setEmpty; rfl
@[simp] theorem Group.setEmpty_lanes (g : Group) (r : Nat) (b : Bool) : (g.setEmpty r b).lanes = g.lanes := by unfold Group.setEmpty; rfl
@[simp] theorem Group.setEmpty_v (g : Group) (r : Nat) (b : Bool) : (g.setEmpty r b).v = g.v := by unfold Group.setEmpty; rfl
@[simp] theorem Group.setEmpty_tag (g : Group) (r : Nat) (b : Bool) : (g.setEmpty r b).tag = g.tag := by unfold Group.setEmpty; rfl
@[simp] theorem Group.setEmpty_dead (g : Group) (r : Nat) (b : Bool) : (g.setEmpty r b).dead = g.dead := by unfold Group.setEmpty; rfl
@[simp] theorem Group.setEmpty_oc (g : Group) (r : Nat) (b : Bool) : (g.setEmpty r b).oc = g.oc := by unfold Group.setEmpty; rfl
@[simp] theorem Group.setEmpty_gsw (g : Group) (r : Nat) (b : Bool) : (g.setEmpty r b).gsw = g.gsw := by unfold Group.setEmpty; rfl
@[simp] theorem Group.setEmpty_ext (g : Group) (r : Nat) (b : Bool) : (g.setEmpty r b).ext = g.ext := by unfold Group.setEmpty; rfl
@[simp] theorem Group.setEmpty_trap (g : Group) (r : Nat) (b : Bool) : (g.setEmpty r b).trap = g.trap := by unfold Group.setEmpty; rfl
@[simp] theorem Group.setEmpty_dc (g : Group) (r : Nat) (b : Bool) : (g.setEmpty r b).dc = g.dc := by unfold Group.setEmpty; rfl
@[simp] theorem Group.setEmpty_dcScope (g : Group) (r : Nat) (b : Bool) : (g.setEmpty r b).dcScope = g.dcScope := by unfold Group.setEmpty; rfl
@[simp] theorem Group.setEmpty_arr (g : Group) (r : Nat) (b : Bool) : (g.setEmpty r b).arr = g.arr := by unfold Group.setEmpty; rfl
@[simp] theorem Group.setEmpty_ctxid (g : Group) (r : Nat) (b : Bool) : (g.setEmpty r b).ctxid = g.ctxid := by unfold Group.setEmpty; rfl
@[simp] theorem Group.setEmpty_ac0 (g : Group) (r : Nat) (b : Bool) : (g.setEmpty r b).ac0 = g.ac0 := by unfold Group.setEmpty; rfl
@[simp] theorem Group.setEmpty_ac1 (g : Group) (r : Nat) (b : Bool) : (g.setEmpty r b).ac1 = g.ac1 := by unfold Group.setEmpty; rfl
@[simp] theorem Group.setEmpty_accslot0 (g : Group) (r : Nat) (b : Bool) : (g.setEmpty r b).accslot0 = g.accslot0 := by unfold Group.setEmpty; rfl
@[simp] theorem Group.setEmpty_accslot1 (g : Group) (r : Nat) (b : Bool) : (g.setEmpty r b).accslot1 = g.accslot1 := by unfold Group.setEmpty; rfl
@[simp] theorem Group.setEmpty_lutsrc (g : Group) (r : Nat) (b : Bool) : (g.setEmpty r b).lutsrc = g.lutsrc := by unfold Group.setEmpty; rfl
@[simp] theorem Group.setEmpty_world (g : Group) (r : Nat) (b : Bool) : (g.setEmpty r b).world = g.world := by unfold Group.setEmpty; rfl
@[simp] theorem Group.setEmpty_asid (g : Group) (r : Nat) (b : Bool) : (g.setEmpty r b).asid = g.asid := by unfold Group.setEmpty; rfl
@[simp] theorem Group.setEmpty_cgen (g : Group) (r : Nat) (b : Bool) : (g.setEmpty r b).cgen = g.cgen := by unfold Group.setEmpty; rfl
@[simp] theorem Group.setEmpty_vdev (g : Group) (r : Nat) (b : Bool) : (g.setEmpty r b).vdev = g.vdev := by unfold Group.setEmpty; rfl
@[simp] theorem Group.setEmpty_k (g : Group) (r : Nat) (b : Bool) : (g.setEmpty r b).k = g.k := by unfold Group.setEmpty; rfl
@[simp] theorem Group.setEmpty_launch (g : Group) (r : Nat) (b : Bool) : (g.setEmpty r b).launch = g.launch := by unfold Group.setEmpty; rfl
@[simp] theorem Group.setEmpty_gang (g : Group) (r : Nat) (b : Bool) : (g.setEmpty r b).gang = g.gang := by unfold Group.setEmpty; rfl
@[simp] theorem Group.setEmpty_wg (g : Group) (r : Nat) (b : Bool) : (g.setEmpty r b).wg = g.wg := by unfold Group.setEmpty; rfl
@[simp] theorem Group.setEmpty_wgIdx (g : Group) (r : Nat) (b : Bool) : (g.setEmpty r b).wgIdx = g.wgIdx := by unfold Group.setEmpty; rfl
@[simp] theorem Group.setEmpty_gangIdx (g : Group) (r : Nat) (b : Bool) : (g.setEmpty r b).gangIdx = g.gangIdx := by unfold Group.setEmpty; rfl
@[simp] theorem Group.setEmpty_member (g : Group) (r : Nat) (b : Bool) : (g.setEmpty r b).member = g.member := by unfold Group.setEmpty; rfl
@[simp] theorem Group.setEmpty_spbase (g : Group) (r : Nat) (b : Bool) : (g.setEmpty r b).spbase = g.spbase := by unfold Group.setEmpty; rfl
@[simp] theorem Group.setEmpty_wait (g : Group) (r : Nat) (b : Bool) : (g.setEmpty r b).wait = g.wait := by unfold Group.setEmpty; rfl
@[simp] theorem Group.setEmpty_waitLen (g : Group) (r : Nat) (b : Bool) : (g.setEmpty r b).waitLen = g.waitLen := by unfold Group.setEmpty; rfl
@[simp] theorem Group.setEmpty_looksAgain (g : Group) (r : Nat) (b : Bool) : (g.setEmpty r b).looksAgain = g.looksAgain := by unfold Group.setEmpty; rfl
@[simp] theorem Group.setEmpty_blocked (g : Group) (r : Nat) (b : Bool) : (g.setEmpty r b).blocked = g.blocked := by unfold Group.setEmpty; rfl
@[simp] theorem Group.setEmpty_badReg (g : Group) (r : Nat) (b : Bool) : (g.setEmpty r b).badReg = g.badReg := by unfold Group.setEmpty; rfl
@[simp] theorem Group.setEmpty_held (g : Group) (r : Nat) (b : Bool) : (g.setEmpty r b).held = g.held := by unfold Group.setEmpty; rfl
@[simp] theorem Group.setEmpty_satisfied (g : Group) (r : Nat) (b : Bool) : (g.setEmpty r b).satisfied = g.satisfied := by unfold Group.setEmpty; rfl
@[simp] theorem Group.setEmpty_owed (g : Group) (r : Nat) (b : Bool) : (g.setEmpty r b).owed = g.owed := by unfold Group.setEmpty; rfl
@[simp] theorem Group.setEmpty_stopAt (g : Group) (r : Nat) (b : Bool) : (g.setEmpty r b).stopAt = g.stopAt := by unfold Group.setEmpty; rfl
@[simp] theorem Group.setEmpty_pend (g : Group) (r : Nat) (b : Bool) : (g.setEmpty r b).pend = g.pend := by unfold Group.setEmpty; rfl
@[simp] theorem Group.setEmpty_resume (g : Group) (r : Nat) (b : Bool) : (g.setEmpty r b).resume = g.resume := by unfold Group.setEmpty; rfl
@[simp] theorem Group.setEmpty_lastIssue (g : Group) (r : Nat) (b : Bool) : (g.setEmpty r b).lastIssue = g.lastIssue := by unfold Group.setEmpty; rfl
@[simp] theorem Group.setEmpty_readySince (g : Group) (r : Nat) (b : Bool) : (g.setEmpty r b).readySince = g.readySince := by unfold Group.setEmpty; rfl
@[simp] theorem Group.setEmpty_issueNo (g : Group) (r : Nat) (b : Bool) : (g.setEmpty r b).issueNo = g.issueNo := by unfold Group.setEmpty; rfl
@[simp] theorem Group.setEmpty_faulted (g : Group) (r : Nat) (b : Bool) : (g.setEmpty r b).faulted = g.faulted := by unfold Group.setEmpty; rfl
@[simp] theorem Group.setEmpty_relBound (g : Group) (r : Nat) (b : Bool) : (g.setEmpty r b).relBound = g.relBound := by unfold Group.setEmpty; rfl
@[simp] theorem Group.setEmpty_walkFaults (g : Group) (r : Nat) (b : Bool) : (g.setEmpty r b).walkFaults = g.walkFaults := by unfold Group.setEmpty; rfl
@[simp] theorem Group.setEmpty_prior (g : Group) (r : Nat) (b : Bool) : (g.setEmpty r b).prior = g.prior := by unfold Group.setEmpty; rfl
@[simp] theorem Group.setSlot_status (g : Group) (n : Nat) (x : OcSlot) : (g.setSlot n x).status = g.status := by unfold Group.setSlot; rfl
@[simp] theorem Group.setSlot_lanes (g : Group) (n : Nat) (x : OcSlot) : (g.setSlot n x).lanes = g.lanes := by unfold Group.setSlot; rfl
@[simp] theorem Group.setSlot_v (g : Group) (n : Nat) (x : OcSlot) : (g.setSlot n x).v = g.v := by unfold Group.setSlot; rfl
@[simp] theorem Group.setSlot_tag (g : Group) (n : Nat) (x : OcSlot) : (g.setSlot n x).tag = g.tag := by unfold Group.setSlot; rfl
@[simp] theorem Group.setSlot_empt (g : Group) (n : Nat) (x : OcSlot) : (g.setSlot n x).empt = g.empt := by unfold Group.setSlot; rfl
@[simp] theorem Group.setSlot_dead (g : Group) (n : Nat) (x : OcSlot) : (g.setSlot n x).dead = g.dead := by unfold Group.setSlot; rfl
@[simp] theorem Group.setSlot_gsw (g : Group) (n : Nat) (x : OcSlot) : (g.setSlot n x).gsw = g.gsw := by unfold Group.setSlot; rfl
@[simp] theorem Group.setSlot_ext (g : Group) (n : Nat) (x : OcSlot) : (g.setSlot n x).ext = g.ext := by unfold Group.setSlot; rfl
@[simp] theorem Group.setSlot_trap (g : Group) (n : Nat) (x : OcSlot) : (g.setSlot n x).trap = g.trap := by unfold Group.setSlot; rfl
@[simp] theorem Group.setSlot_dc (g : Group) (n : Nat) (x : OcSlot) : (g.setSlot n x).dc = g.dc := by unfold Group.setSlot; rfl
@[simp] theorem Group.setSlot_dcScope (g : Group) (n : Nat) (x : OcSlot) : (g.setSlot n x).dcScope = g.dcScope := by unfold Group.setSlot; rfl
@[simp] theorem Group.setSlot_arr (g : Group) (n : Nat) (x : OcSlot) : (g.setSlot n x).arr = g.arr := by unfold Group.setSlot; rfl
@[simp] theorem Group.setSlot_ctxid (g : Group) (n : Nat) (x : OcSlot) : (g.setSlot n x).ctxid = g.ctxid := by unfold Group.setSlot; rfl
@[simp] theorem Group.setSlot_ac0 (g : Group) (n : Nat) (x : OcSlot) : (g.setSlot n x).ac0 = g.ac0 := by unfold Group.setSlot; rfl
@[simp] theorem Group.setSlot_ac1 (g : Group) (n : Nat) (x : OcSlot) : (g.setSlot n x).ac1 = g.ac1 := by unfold Group.setSlot; rfl
@[simp] theorem Group.setSlot_accslot0 (g : Group) (n : Nat) (x : OcSlot) : (g.setSlot n x).accslot0 = g.accslot0 := by unfold Group.setSlot; rfl
@[simp] theorem Group.setSlot_accslot1 (g : Group) (n : Nat) (x : OcSlot) : (g.setSlot n x).accslot1 = g.accslot1 := by unfold Group.setSlot; rfl
@[simp] theorem Group.setSlot_lutsrc (g : Group) (n : Nat) (x : OcSlot) : (g.setSlot n x).lutsrc = g.lutsrc := by unfold Group.setSlot; rfl
@[simp] theorem Group.setSlot_world (g : Group) (n : Nat) (x : OcSlot) : (g.setSlot n x).world = g.world := by unfold Group.setSlot; rfl
@[simp] theorem Group.setSlot_asid (g : Group) (n : Nat) (x : OcSlot) : (g.setSlot n x).asid = g.asid := by unfold Group.setSlot; rfl
@[simp] theorem Group.setSlot_cgen (g : Group) (n : Nat) (x : OcSlot) : (g.setSlot n x).cgen = g.cgen := by unfold Group.setSlot; rfl
@[simp] theorem Group.setSlot_vdev (g : Group) (n : Nat) (x : OcSlot) : (g.setSlot n x).vdev = g.vdev := by unfold Group.setSlot; rfl
@[simp] theorem Group.setSlot_k (g : Group) (n : Nat) (x : OcSlot) : (g.setSlot n x).k = g.k := by unfold Group.setSlot; rfl
@[simp] theorem Group.setSlot_launch (g : Group) (n : Nat) (x : OcSlot) : (g.setSlot n x).launch = g.launch := by unfold Group.setSlot; rfl
@[simp] theorem Group.setSlot_gang (g : Group) (n : Nat) (x : OcSlot) : (g.setSlot n x).gang = g.gang := by unfold Group.setSlot; rfl
@[simp] theorem Group.setSlot_wg (g : Group) (n : Nat) (x : OcSlot) : (g.setSlot n x).wg = g.wg := by unfold Group.setSlot; rfl
@[simp] theorem Group.setSlot_wgIdx (g : Group) (n : Nat) (x : OcSlot) : (g.setSlot n x).wgIdx = g.wgIdx := by unfold Group.setSlot; rfl
@[simp] theorem Group.setSlot_gangIdx (g : Group) (n : Nat) (x : OcSlot) : (g.setSlot n x).gangIdx = g.gangIdx := by unfold Group.setSlot; rfl
@[simp] theorem Group.setSlot_member (g : Group) (n : Nat) (x : OcSlot) : (g.setSlot n x).member = g.member := by unfold Group.setSlot; rfl
@[simp] theorem Group.setSlot_spbase (g : Group) (n : Nat) (x : OcSlot) : (g.setSlot n x).spbase = g.spbase := by unfold Group.setSlot; rfl
@[simp] theorem Group.setSlot_wait (g : Group) (n : Nat) (x : OcSlot) : (g.setSlot n x).wait = g.wait := by unfold Group.setSlot; rfl
@[simp] theorem Group.setSlot_waitLen (g : Group) (n : Nat) (x : OcSlot) : (g.setSlot n x).waitLen = g.waitLen := by unfold Group.setSlot; rfl
@[simp] theorem Group.setSlot_looksAgain (g : Group) (n : Nat) (x : OcSlot) : (g.setSlot n x).looksAgain = g.looksAgain := by unfold Group.setSlot; rfl
@[simp] theorem Group.setSlot_blocked (g : Group) (n : Nat) (x : OcSlot) : (g.setSlot n x).blocked = g.blocked := by unfold Group.setSlot; rfl
@[simp] theorem Group.setSlot_badReg (g : Group) (n : Nat) (x : OcSlot) : (g.setSlot n x).badReg = g.badReg := by unfold Group.setSlot; rfl
@[simp] theorem Group.setSlot_held (g : Group) (n : Nat) (x : OcSlot) : (g.setSlot n x).held = g.held := by unfold Group.setSlot; rfl
@[simp] theorem Group.setSlot_satisfied (g : Group) (n : Nat) (x : OcSlot) : (g.setSlot n x).satisfied = g.satisfied := by unfold Group.setSlot; rfl
@[simp] theorem Group.setSlot_owed (g : Group) (n : Nat) (x : OcSlot) : (g.setSlot n x).owed = g.owed := by unfold Group.setSlot; rfl
@[simp] theorem Group.setSlot_stopAt (g : Group) (n : Nat) (x : OcSlot) : (g.setSlot n x).stopAt = g.stopAt := by unfold Group.setSlot; rfl
@[simp] theorem Group.setSlot_pend (g : Group) (n : Nat) (x : OcSlot) : (g.setSlot n x).pend = g.pend := by unfold Group.setSlot; rfl
@[simp] theorem Group.setSlot_resume (g : Group) (n : Nat) (x : OcSlot) : (g.setSlot n x).resume = g.resume := by unfold Group.setSlot; rfl
@[simp] theorem Group.setSlot_lastIssue (g : Group) (n : Nat) (x : OcSlot) : (g.setSlot n x).lastIssue = g.lastIssue := by unfold Group.setSlot; rfl
@[simp] theorem Group.setSlot_readySince (g : Group) (n : Nat) (x : OcSlot) : (g.setSlot n x).readySince = g.readySince := by unfold Group.setSlot; rfl
@[simp] theorem Group.setSlot_issueNo (g : Group) (n : Nat) (x : OcSlot) : (g.setSlot n x).issueNo = g.issueNo := by unfold Group.setSlot; rfl
@[simp] theorem Group.setSlot_faulted (g : Group) (n : Nat) (x : OcSlot) : (g.setSlot n x).faulted = g.faulted := by unfold Group.setSlot; rfl
@[simp] theorem Group.setSlot_relBound (g : Group) (n : Nat) (x : OcSlot) : (g.setSlot n x).relBound = g.relBound := by unfold Group.setSlot; rfl
@[simp] theorem Group.setSlot_walkFaults (g : Group) (n : Nat) (x : OcSlot) : (g.setSlot n x).walkFaults = g.walkFaults := by unfold Group.setSlot; rfl
@[simp] theorem Group.setSlot_prior (g : Group) (n : Nat) (x : OcSlot) : (g.setSlot n x).prior = g.prior := by unfold Group.setSlot; rfl
@[simp] theorem Group.wrReg_status (g : Group) (l r : Nat) (x : Word) : (g.wrReg l r x).status = g.status := by unfold Group.wrReg; rfl
@[simp] theorem Group.wrReg_lanes (g : Group) (l r : Nat) (x : Word) : (g.wrReg l r x).lanes = g.lanes := by unfold Group.wrReg; rfl
@[simp] theorem Group.wrReg_empt (g : Group) (l r : Nat) (x : Word) : (g.wrReg l r x).empt = g.empt := by unfold Group.wrReg; rfl
@[simp] theorem Group.wrReg_gsw (g : Group) (l r : Nat) (x : Word) : (g.wrReg l r x).gsw = g.gsw := by unfold Group.wrReg; rfl
@[simp] theorem Group.wrReg_ext (g : Group) (l r : Nat) (x : Word) : (g.wrReg l r x).ext = g.ext := by unfold Group.wrReg; rfl
@[simp] theorem Group.wrReg_trap (g : Group) (l r : Nat) (x : Word) : (g.wrReg l r x).trap = g.trap := by unfold Group.wrReg; rfl
@[simp] theorem Group.wrReg_dc (g : Group) (l r : Nat) (x : Word) : (g.wrReg l r x).dc = g.dc := by unfold Group.wrReg; rfl
@[simp] theorem Group.wrReg_dcScope (g : Group) (l r : Nat) (x : Word) : (g.wrReg l r x).dcScope = g.dcScope := by unfold Group.wrReg; rfl
@[simp] theorem Group.wrReg_arr (g : Group) (l r : Nat) (x : Word) : (g.wrReg l r x).arr = g.arr := by unfold Group.wrReg; rfl
@[simp] theorem Group.wrReg_ctxid (g : Group) (l r : Nat) (x : Word) : (g.wrReg l r x).ctxid = g.ctxid := by unfold Group.wrReg; rfl
@[simp] theorem Group.wrReg_ac0 (g : Group) (l r : Nat) (x : Word) : (g.wrReg l r x).ac0 = g.ac0 := by unfold Group.wrReg; rfl
@[simp] theorem Group.wrReg_ac1 (g : Group) (l r : Nat) (x : Word) : (g.wrReg l r x).ac1 = g.ac1 := by unfold Group.wrReg; rfl
@[simp] theorem Group.wrReg_accslot0 (g : Group) (l r : Nat) (x : Word) : (g.wrReg l r x).accslot0 = g.accslot0 := by unfold Group.wrReg; rfl
@[simp] theorem Group.wrReg_accslot1 (g : Group) (l r : Nat) (x : Word) : (g.wrReg l r x).accslot1 = g.accslot1 := by unfold Group.wrReg; rfl
@[simp] theorem Group.wrReg_lutsrc (g : Group) (l r : Nat) (x : Word) : (g.wrReg l r x).lutsrc = g.lutsrc := by unfold Group.wrReg; rfl
@[simp] theorem Group.wrReg_world (g : Group) (l r : Nat) (x : Word) : (g.wrReg l r x).world = g.world := by unfold Group.wrReg; rfl
@[simp] theorem Group.wrReg_asid (g : Group) (l r : Nat) (x : Word) : (g.wrReg l r x).asid = g.asid := by unfold Group.wrReg; rfl
@[simp] theorem Group.wrReg_cgen (g : Group) (l r : Nat) (x : Word) : (g.wrReg l r x).cgen = g.cgen := by unfold Group.wrReg; rfl
@[simp] theorem Group.wrReg_vdev (g : Group) (l r : Nat) (x : Word) : (g.wrReg l r x).vdev = g.vdev := by unfold Group.wrReg; rfl
@[simp] theorem Group.wrReg_k (g : Group) (l r : Nat) (x : Word) : (g.wrReg l r x).k = g.k := by unfold Group.wrReg; rfl
@[simp] theorem Group.wrReg_launch (g : Group) (l r : Nat) (x : Word) : (g.wrReg l r x).launch = g.launch := by unfold Group.wrReg; rfl
@[simp] theorem Group.wrReg_gang (g : Group) (l r : Nat) (x : Word) : (g.wrReg l r x).gang = g.gang := by unfold Group.wrReg; rfl
@[simp] theorem Group.wrReg_wg (g : Group) (l r : Nat) (x : Word) : (g.wrReg l r x).wg = g.wg := by unfold Group.wrReg; rfl
@[simp] theorem Group.wrReg_wgIdx (g : Group) (l r : Nat) (x : Word) : (g.wrReg l r x).wgIdx = g.wgIdx := by unfold Group.wrReg; rfl
@[simp] theorem Group.wrReg_gangIdx (g : Group) (l r : Nat) (x : Word) : (g.wrReg l r x).gangIdx = g.gangIdx := by unfold Group.wrReg; rfl
@[simp] theorem Group.wrReg_member (g : Group) (l r : Nat) (x : Word) : (g.wrReg l r x).member = g.member := by unfold Group.wrReg; rfl
@[simp] theorem Group.wrReg_spbase (g : Group) (l r : Nat) (x : Word) : (g.wrReg l r x).spbase = g.spbase := by unfold Group.wrReg; rfl
@[simp] theorem Group.wrReg_wait (g : Group) (l r : Nat) (x : Word) : (g.wrReg l r x).wait = g.wait := by unfold Group.wrReg; rfl
@[simp] theorem Group.wrReg_waitLen (g : Group) (l r : Nat) (x : Word) : (g.wrReg l r x).waitLen = g.waitLen := by unfold Group.wrReg; rfl
@[simp] theorem Group.wrReg_looksAgain (g : Group) (l r : Nat) (x : Word) : (g.wrReg l r x).looksAgain = g.looksAgain := by unfold Group.wrReg; rfl
@[simp] theorem Group.wrReg_blocked (g : Group) (l r : Nat) (x : Word) : (g.wrReg l r x).blocked = g.blocked := by unfold Group.wrReg; rfl
@[simp] theorem Group.wrReg_held (g : Group) (l r : Nat) (x : Word) : (g.wrReg l r x).held = g.held := by unfold Group.wrReg; rfl
@[simp] theorem Group.wrReg_satisfied (g : Group) (l r : Nat) (x : Word) : (g.wrReg l r x).satisfied = g.satisfied := by unfold Group.wrReg; rfl
@[simp] theorem Group.wrReg_owed (g : Group) (l r : Nat) (x : Word) : (g.wrReg l r x).owed = g.owed := by unfold Group.wrReg; rfl
@[simp] theorem Group.wrReg_stopAt (g : Group) (l r : Nat) (x : Word) : (g.wrReg l r x).stopAt = g.stopAt := by unfold Group.wrReg; rfl
@[simp] theorem Group.wrReg_pend (g : Group) (l r : Nat) (x : Word) : (g.wrReg l r x).pend = g.pend := by unfold Group.wrReg; rfl
@[simp] theorem Group.wrReg_resume (g : Group) (l r : Nat) (x : Word) : (g.wrReg l r x).resume = g.resume := by unfold Group.wrReg; rfl
@[simp] theorem Group.wrReg_lastIssue (g : Group) (l r : Nat) (x : Word) : (g.wrReg l r x).lastIssue = g.lastIssue := by unfold Group.wrReg; rfl
@[simp] theorem Group.wrReg_readySince (g : Group) (l r : Nat) (x : Word) : (g.wrReg l r x).readySince = g.readySince := by unfold Group.wrReg; rfl
@[simp] theorem Group.wrReg_issueNo (g : Group) (l r : Nat) (x : Word) : (g.wrReg l r x).issueNo = g.issueNo := by unfold Group.wrReg; rfl
@[simp] theorem Group.wrReg_faulted (g : Group) (l r : Nat) (x : Word) : (g.wrReg l r x).faulted = g.faulted := by unfold Group.wrReg; rfl
@[simp] theorem Group.wrReg_relBound (g : Group) (l r : Nat) (x : Word) : (g.wrReg l r x).relBound = g.relBound := by unfold Group.wrReg; rfl
@[simp] theorem Group.wrReg_walkFaults (g : Group) (l r : Nat) (x : Word) : (g.wrReg l r x).walkFaults = g.walkFaults := by unfold Group.wrReg; rfl
@[simp] theorem Group.wrReg_prior (g : Group) (l r : Nat) (x : Word) : (g.wrReg l r x).prior = g.prior := by unfold Group.wrReg; rfl
@[simp] theorem Group.kill_status (g : Group) (r : Nat) : (g.kill r).status = g.status := by unfold Group.kill; rfl
@[simp] theorem Group.kill_lanes (g : Group) (r : Nat) : (g.kill r).lanes = g.lanes := by unfold Group.kill; rfl
@[simp] theorem Group.kill_empt (g : Group) (r : Nat) : (g.kill r).empt = g.empt := by unfold Group.kill; rfl
@[simp] theorem Group.kill_oc (g : Group) (r : Nat) : (g.kill r).oc = g.oc := by unfold Group.kill; rfl
@[simp] theorem Group.kill_gsw (g : Group) (r : Nat) : (g.kill r).gsw = g.gsw := by unfold Group.kill; rfl
@[simp] theorem Group.kill_ext (g : Group) (r : Nat) : (g.kill r).ext = g.ext := by unfold Group.kill; rfl
@[simp] theorem Group.kill_trap (g : Group) (r : Nat) : (g.kill r).trap = g.trap := by unfold Group.kill; rfl
@[simp] theorem Group.kill_dc (g : Group) (r : Nat) : (g.kill r).dc = g.dc := by unfold Group.kill; rfl
@[simp] theorem Group.kill_dcScope (g : Group) (r : Nat) : (g.kill r).dcScope = g.dcScope := by unfold Group.kill; rfl
@[simp] theorem Group.kill_arr (g : Group) (r : Nat) : (g.kill r).arr = g.arr := by unfold Group.kill; rfl
@[simp] theorem Group.kill_ctxid (g : Group) (r : Nat) : (g.kill r).ctxid = g.ctxid := by unfold Group.kill; rfl
@[simp] theorem Group.kill_ac0 (g : Group) (r : Nat) : (g.kill r).ac0 = g.ac0 := by unfold Group.kill; rfl
@[simp] theorem Group.kill_ac1 (g : Group) (r : Nat) : (g.kill r).ac1 = g.ac1 := by unfold Group.kill; rfl
@[simp] theorem Group.kill_accslot0 (g : Group) (r : Nat) : (g.kill r).accslot0 = g.accslot0 := by unfold Group.kill; rfl
@[simp] theorem Group.kill_accslot1 (g : Group) (r : Nat) : (g.kill r).accslot1 = g.accslot1 := by unfold Group.kill; rfl
@[simp] theorem Group.kill_lutsrc (g : Group) (r : Nat) : (g.kill r).lutsrc = g.lutsrc := by unfold Group.kill; rfl
@[simp] theorem Group.kill_world (g : Group) (r : Nat) : (g.kill r).world = g.world := by unfold Group.kill; rfl
@[simp] theorem Group.kill_asid (g : Group) (r : Nat) : (g.kill r).asid = g.asid := by unfold Group.kill; rfl
@[simp] theorem Group.kill_cgen (g : Group) (r : Nat) : (g.kill r).cgen = g.cgen := by unfold Group.kill; rfl
@[simp] theorem Group.kill_vdev (g : Group) (r : Nat) : (g.kill r).vdev = g.vdev := by unfold Group.kill; rfl
@[simp] theorem Group.kill_k (g : Group) (r : Nat) : (g.kill r).k = g.k := by unfold Group.kill; rfl
@[simp] theorem Group.kill_launch (g : Group) (r : Nat) : (g.kill r).launch = g.launch := by unfold Group.kill; rfl
@[simp] theorem Group.kill_gang (g : Group) (r : Nat) : (g.kill r).gang = g.gang := by unfold Group.kill; rfl
@[simp] theorem Group.kill_wg (g : Group) (r : Nat) : (g.kill r).wg = g.wg := by unfold Group.kill; rfl
@[simp] theorem Group.kill_wgIdx (g : Group) (r : Nat) : (g.kill r).wgIdx = g.wgIdx := by unfold Group.kill; rfl
@[simp] theorem Group.kill_gangIdx (g : Group) (r : Nat) : (g.kill r).gangIdx = g.gangIdx := by unfold Group.kill; rfl
@[simp] theorem Group.kill_member (g : Group) (r : Nat) : (g.kill r).member = g.member := by unfold Group.kill; rfl
@[simp] theorem Group.kill_spbase (g : Group) (r : Nat) : (g.kill r).spbase = g.spbase := by unfold Group.kill; rfl
@[simp] theorem Group.kill_wait (g : Group) (r : Nat) : (g.kill r).wait = g.wait := by unfold Group.kill; rfl
@[simp] theorem Group.kill_waitLen (g : Group) (r : Nat) : (g.kill r).waitLen = g.waitLen := by unfold Group.kill; rfl
@[simp] theorem Group.kill_looksAgain (g : Group) (r : Nat) : (g.kill r).looksAgain = g.looksAgain := by unfold Group.kill; rfl
@[simp] theorem Group.kill_blocked (g : Group) (r : Nat) : (g.kill r).blocked = g.blocked := by unfold Group.kill; rfl
@[simp] theorem Group.kill_badReg (g : Group) (r : Nat) : (g.kill r).badReg = g.badReg := by unfold Group.kill; rfl
@[simp] theorem Group.kill_held (g : Group) (r : Nat) : (g.kill r).held = g.held := by unfold Group.kill; rfl
@[simp] theorem Group.kill_satisfied (g : Group) (r : Nat) : (g.kill r).satisfied = g.satisfied := by unfold Group.kill; rfl
@[simp] theorem Group.kill_owed (g : Group) (r : Nat) : (g.kill r).owed = g.owed := by unfold Group.kill; rfl
@[simp] theorem Group.kill_stopAt (g : Group) (r : Nat) : (g.kill r).stopAt = g.stopAt := by unfold Group.kill; rfl
@[simp] theorem Group.kill_pend (g : Group) (r : Nat) : (g.kill r).pend = g.pend := by unfold Group.kill; rfl
@[simp] theorem Group.kill_resume (g : Group) (r : Nat) : (g.kill r).resume = g.resume := by unfold Group.kill; rfl
@[simp] theorem Group.kill_lastIssue (g : Group) (r : Nat) : (g.kill r).lastIssue = g.lastIssue := by unfold Group.kill; rfl
@[simp] theorem Group.kill_readySince (g : Group) (r : Nat) : (g.kill r).readySince = g.readySince := by unfold Group.kill; rfl
@[simp] theorem Group.kill_issueNo (g : Group) (r : Nat) : (g.kill r).issueNo = g.issueNo := by unfold Group.kill; rfl
@[simp] theorem Group.kill_faulted (g : Group) (r : Nat) : (g.kill r).faulted = g.faulted := by unfold Group.kill; rfl
@[simp] theorem Group.kill_relBound (g : Group) (r : Nat) : (g.kill r).relBound = g.relBound := by unfold Group.kill; rfl
@[simp] theorem Group.kill_walkFaults (g : Group) (r : Nat) : (g.kill r).walkFaults = g.walkFaults := by unfold Group.kill; rfl
@[simp] theorem Group.kill_prior (g : Group) (r : Nat) : (g.kill r).prior = g.prior := by unfold Group.kill; rfl
@[simp] theorem Group.desched_status (g : Group) : (g.desched).status = g.status := by unfold Group.desched; rfl
@[simp] theorem Group.desched_v (g : Group) : (g.desched).v = g.v := by unfold Group.desched; rfl
@[simp] theorem Group.desched_tag (g : Group) : (g.desched).tag = g.tag := by unfold Group.desched; rfl
@[simp] theorem Group.desched_empt (g : Group) : (g.desched).empt = g.empt := by unfold Group.desched; rfl
@[simp] theorem Group.desched_dead (g : Group) : (g.desched).dead = g.dead := by unfold Group.desched; rfl
@[simp] theorem Group.desched_gsw (g : Group) : (g.desched).gsw = g.gsw := by unfold Group.desched; rfl
@[simp] theorem Group.desched_ext (g : Group) : (g.desched).ext = g.ext := by unfold Group.desched; rfl
@[simp] theorem Group.desched_trap (g : Group) : (g.desched).trap = g.trap := by unfold Group.desched; rfl
@[simp] theorem Group.desched_dc (g : Group) : (g.desched).dc = g.dc := by unfold Group.desched; rfl
@[simp] theorem Group.desched_dcScope (g : Group) : (g.desched).dcScope = g.dcScope := by unfold Group.desched; rfl
@[simp] theorem Group.desched_arr (g : Group) : (g.desched).arr = g.arr := by unfold Group.desched; rfl
@[simp] theorem Group.desched_ctxid (g : Group) : (g.desched).ctxid = g.ctxid := by unfold Group.desched; rfl
@[simp] theorem Group.desched_ac0 (g : Group) : (g.desched).ac0 = g.ac0 := by unfold Group.desched; rfl
@[simp] theorem Group.desched_ac1 (g : Group) : (g.desched).ac1 = g.ac1 := by unfold Group.desched; rfl
@[simp] theorem Group.desched_accslot0 (g : Group) : (g.desched).accslot0 = g.accslot0 := by unfold Group.desched; rfl
@[simp] theorem Group.desched_accslot1 (g : Group) : (g.desched).accslot1 = g.accslot1 := by unfold Group.desched; rfl
@[simp] theorem Group.desched_lutsrc (g : Group) : (g.desched).lutsrc = g.lutsrc := by unfold Group.desched; rfl
@[simp] theorem Group.desched_world (g : Group) : (g.desched).world = g.world := by unfold Group.desched; rfl
@[simp] theorem Group.desched_asid (g : Group) : (g.desched).asid = g.asid := by unfold Group.desched; rfl
@[simp] theorem Group.desched_cgen (g : Group) : (g.desched).cgen = g.cgen := by unfold Group.desched; rfl
@[simp] theorem Group.desched_vdev (g : Group) : (g.desched).vdev = g.vdev := by unfold Group.desched; rfl
@[simp] theorem Group.desched_k (g : Group) : (g.desched).k = g.k := by unfold Group.desched; rfl
@[simp] theorem Group.desched_launch (g : Group) : (g.desched).launch = g.launch := by unfold Group.desched; rfl
@[simp] theorem Group.desched_gang (g : Group) : (g.desched).gang = g.gang := by unfold Group.desched; rfl
@[simp] theorem Group.desched_wg (g : Group) : (g.desched).wg = g.wg := by unfold Group.desched; rfl
@[simp] theorem Group.desched_wgIdx (g : Group) : (g.desched).wgIdx = g.wgIdx := by unfold Group.desched; rfl
@[simp] theorem Group.desched_gangIdx (g : Group) : (g.desched).gangIdx = g.gangIdx := by unfold Group.desched; rfl
@[simp] theorem Group.desched_member (g : Group) : (g.desched).member = g.member := by unfold Group.desched; rfl
@[simp] theorem Group.desched_spbase (g : Group) : (g.desched).spbase = g.spbase := by unfold Group.desched; rfl
@[simp] theorem Group.desched_wait (g : Group) : (g.desched).wait = g.wait := by unfold Group.desched; rfl
@[simp] theorem Group.desched_waitLen (g : Group) : (g.desched).waitLen = g.waitLen := by unfold Group.desched; rfl
@[simp] theorem Group.desched_looksAgain (g : Group) : (g.desched).looksAgain = g.looksAgain := by unfold Group.desched; rfl
@[simp] theorem Group.desched_blocked (g : Group) : (g.desched).blocked = g.blocked := by unfold Group.desched; rfl
@[simp] theorem Group.desched_badReg (g : Group) : (g.desched).badReg = g.badReg := by unfold Group.desched; rfl
@[simp] theorem Group.desched_held (g : Group) : (g.desched).held = g.held := by unfold Group.desched; rfl
@[simp] theorem Group.desched_satisfied (g : Group) : (g.desched).satisfied = g.satisfied := by unfold Group.desched; rfl
@[simp] theorem Group.desched_owed (g : Group) : (g.desched).owed = g.owed := by unfold Group.desched; rfl
@[simp] theorem Group.desched_stopAt (g : Group) : (g.desched).stopAt = g.stopAt := by unfold Group.desched; rfl
@[simp] theorem Group.desched_pend (g : Group) : (g.desched).pend = g.pend := by unfold Group.desched; rfl
@[simp] theorem Group.desched_resume (g : Group) : (g.desched).resume = g.resume := by unfold Group.desched; rfl
@[simp] theorem Group.desched_lastIssue (g : Group) : (g.desched).lastIssue = g.lastIssue := by unfold Group.desched; rfl
@[simp] theorem Group.desched_readySince (g : Group) : (g.desched).readySince = g.readySince := by unfold Group.desched; rfl
@[simp] theorem Group.desched_issueNo (g : Group) : (g.desched).issueNo = g.issueNo := by unfold Group.desched; rfl
@[simp] theorem Group.desched_faulted (g : Group) : (g.desched).faulted = g.faulted := by unfold Group.desched; rfl
@[simp] theorem Group.desched_relBound (g : Group) : (g.desched).relBound = g.relBound := by unfold Group.desched; rfl
@[simp] theorem Group.desched_walkFaults (g : Group) : (g.desched).walkFaults = g.walkFaults := by unfold Group.desched; rfl
@[simp] theorem Group.desched_prior (g : Group) : (g.desched).prior = g.prior := by unfold Group.desched; rfl

theorem Group.lane_setLane (g : Group) (l : Nat) (x : Lane) (k : Nat) : (g.setLane l x).lane k = if k = l then x else g.lane k :=
  Tab.get_put _ _ l x k
@[simp] theorem Group.lane_setLane_self (g : Group) (l : Nat) (x : Lane) : (g.setLane l x).lane l = x := Tab.get_put_self _ _ l x
@[simp] theorem Group.lane_wrReg (g : Group) (l r : Nat) (x : Word) (k : Nat) : (g.wrReg l r x).lane k = g.lane k := by simp only [Group.lane, Group.wrReg_lanes]
@[simp] theorem Group.lane_kill (g : Group) (r k : Nat) : (g.kill r).lane k = g.lane k := by simp only [Group.lane, Group.kill_lanes]
theorem Group.tr_setTr (g : Group) (m : Nat) (t : TrapRegs) (k : Nat) : (g.setTr m t).tr k = if k = m then t else g.tr k :=
  Tab.get_put _ _ m t k
theorem Group.isEmpty_setEmpty (g : Group) (r : Nat) (b : Bool) (q : Nat) : (g.setEmpty r b).isEmpty q = if q = r then b else g.isEmpty q :=
  Tab.get_set _ _ r b q
@[simp] theorem Group.reg_setLane_gen (g : Group) (l : Nat) (x : Lane) (k r : Nat) (h : x.gen = (g.lane l).gen) : (g.setLane l x).reg k r = g.reg k r := by
  have e : ((g.setLane l x).lane k).gen = (g.lane k).gen := by
    rw [Group.lane_setLane]; split
    · next hk => rw [hk, h]
    · rfl
  simp only [Group.reg, e, Group.setLane_tag, Group.setLane_v]

end Sys2Proof.Machine
end

