-- ==== Sys2Proof/Laws/Memory.lean ====
section
/-!
SUPPORT. What the operations on memory do: a byte reads as it was last written, every other byte as before, nothing but memory and the clearing
bits changes, and the canonical form stays.
-/

namespace Sys2Proof.Machine

/-! The canonical form. -/

theorem State.wf_reset : Memory.wf State.reset.mem = true := rfl
theorem State.wf_unclear (s : State) (pa : Nat) (h : Memory.wf s.mem = true) : Memory.wf (s.unclear pa).mem = true := by
  unfold State.unclear
  split
  · exact Tab.wf_keep _ _ _ h
  · exact h
theorem State.wf_storeByte (s : State) (pa : Nat) (b : Byte) (h : Memory.wf s.mem = true) : Memory.wf (s.storeByte pa b).mem = true :=
  Tab.wf_set _ _ _ _ (s.wf_unclear pa h)
theorem State.wf_storeBytes (s : State) (pa : Nat) (bs : List Byte) (h : Memory.wf s.mem = true) : Memory.wf (s.storeBytes pa bs).mem = true := by
  induction bs generalizing s pa with
  | nil => exact h
  | cons b r ih => exact ih _ _ (s.wf_storeByte pa b h)

/-! What a write reads back as. -/

/-- The line of an address, as its die and its number there. -/
theorem line_eq {a b : Nat} (h1 : a / 2 ^ 36 = b / 2 ^ 36) (h2 : a % 2 ^ 36 / 1024 = b % 2 ^ 36 / 1024) : a / 1024 * 1024 = b / 1024 * 1024 := by omega
theorem line_of_eq {a b : Nat} (h : a / 1024 * 1024 = b / 1024 * 1024) : a / 2 ^ 36 = b / 2 ^ 36 ∧ a % 2 ^ 36 / 1024 = b % 2 ^ 36 / 1024 := by omega

theorem State.clearingAt_unclear (s : State) (pa a : Nat) :
    (s.unclear pa).clearingAt a = (s.clearingAt a && decide (a / 1024 * 1024 ≠ pa / 1024 * 1024)) := by
  unfold State.unclear
  split
  · next hc =>
    simp only [State.clearingAt, State.die, State.setDie, Tab.get_put, Bool.and_eq_true, decide_eq_true_eq] at hc ⊢
    by_cases h1 : a / 2 ^ 36 = pa / 2 ^ 36
    · by_cases h2 : a % 2 ^ 36 / 1024 = pa % 2 ^ 36 / 1024
      · simp only [h1, if_true, Tab.get_set, h2, ne_eq, line_eq h1 h2, not_true_eq_false, decide_false, Bool.and_false]
      · have : a / 1024 * 1024 ≠ pa / 1024 * 1024 := fun h => h2 (line_of_eq h).2
        simp only [h1, if_true, Tab.get_set, h2, if_false, ne_eq, this, not_false_eq_true, decide_true, Bool.and_true]
    · have : a / 1024 * 1024 ≠ pa / 1024 * 1024 := fun h => h1 (line_of_eq h).1
      simp only [h1, if_false, ne_eq, this, not_false_eq_true, decide_true, Bool.and_true]
  · next hc =>
    by_cases h : a / 1024 * 1024 = pa / 1024 * 1024
    · have hl := line_of_eq h
      have hb : s.clearingAt a = s.clearingAt pa := by
        have : (a < 0x020000000000) = (pa < 0x020000000000) := by
          have := hl.1; apply propext; omega
        simp only [State.clearingAt, hl.1, hl.2, this]
      simp [h, hb, hc]
    · simp [h]

/-- Bringing a line out of its clearing state changes no byte that anyone reads (11 R225). -/
theorem State.byteAt_unclear (s : State) (pa a : Nat) : (s.unclear pa).byteAt a = s.byteAt a := by
  unfold State.byteAt
  rw [State.clearingAt_unclear]
  by_cases hc : s.clearingAt pa = true
  · by_cases h : a / 1024 * 1024 = pa / 1024 * 1024
    · have hl := line_of_eq h
      have hb : s.clearingAt a = true := by
        rw [← hc]
        have : (a < 0x020000000000) = (pa < 0x020000000000) := by
          have := hl.1; apply propext; omega
        simp only [State.clearingAt, hl.1, hl.2, this]
      have hm : Tab.get Memory.fill (s.unclear pa).mem a = 0 := by
        simp only [State.unclear, hc, if_true, Tab.get_keep]
        have : outside (pa / 1024 * 1024) 1024 a = false := by simp [outside]; omega
        simp [this, Memory.fill]
      simp [h, hb, hm]
    · have hm : Tab.get Memory.fill (s.unclear pa).mem a = Tab.get Memory.fill s.mem a := by
        simp only [State.unclear, hc, if_true, Tab.get_keep]
        have : outside (pa / 1024 * 1024) 1024 a = true := by simp [outside]; omega
        simp [this]
      simp [h, hm]
  · have hu : s.unclear pa = s := by simp [State.unclear, hc]
    rw [hu]
    by_cases h : a / 1024 * 1024 = pa / 1024 * 1024
    · have hl := line_of_eq h
      have hb : s.clearingAt a = s.clearingAt pa := by
        have : (a < 0x020000000000) = (pa < 0x020000000000) := by
          have := hl.1; apply propext; omega
        simp only [State.clearingAt, hl.1, hl.2, this]
      simp [hb, hc]
    · simp [h]

/-- A byte reads as it was written, every other byte as before. -/
theorem State.byteAt_storeByte (s : State) (pa : Nat) (b : Byte) (a : Nat) : (s.storeByte pa b).byteAt a = if a = pa then b else s.byteAt a := by
  rw [← s.byteAt_unclear pa a]
  have hcl : (s.storeByte pa b).clearingAt a = (s.unclear pa).clearingAt a := rfl
  unfold State.byteAt
  rw [hcl]
  have hm : Tab.get Memory.fill (s.storeByte pa b).mem a = if a = pa then b else Tab.get Memory.fill (s.unclear pa).mem a := Tab.get_set _ _ _ _ _
  rw [hm]
  by_cases h : a = pa
  · subst h
    rw [State.clearingAt_unclear]
    simp
  · simp [h]

/-- Written bytes read back in order, every other byte as before. -/
theorem State.byteAt_storeBytes (s : State) (pa : Nat) (bs : List Byte) (a : Nat) :
    (s.storeBytes pa bs).byteAt a = if pa ≤ a ∧ a < pa + bs.length then bs.getD (a - pa) 0 else s.byteAt a := by
  induction bs generalizing s pa with
  | nil =>
    have : ¬ (pa ≤ a ∧ a < pa + ([] : List Byte).length) := by simp only [List.length_nil]; omega
    rw [if_neg this]; rfl
  | cons b r ih =>
    simp only [State.storeBytes, ih, State.byteAt_storeByte, List.length_cons]
    by_cases h1 : pa + 1 ≤ a ∧ a < pa + 1 + r.length
    · have h2 : pa ≤ a ∧ a < pa + (r.length + 1) := by omega
      have h3 : a - pa = (a - (pa + 1)) + 1 := by omega
      rw [if_pos h1, if_pos h2, h3]
      simp
    · by_cases h4 : a = pa
      · subst h4
        have h2 : a ≤ a ∧ a < a + (r.length + 1) := by omega
        rw [if_neg h1, if_pos h2]
        simp
      · have h2 : ¬ (pa ≤ a ∧ a < pa + (r.length + 1)) := by omega
        rw [if_neg h1, if_neg h2]
        simp [h4]

/-! What a write leaves alone: all but the memory and the clearing bits of one die. -/

theorem State.unclear_frame (s : State) (pa : Nat) : s.unclear pa = { s with mem := (s.unclear pa).mem, dies := (s.unclear pa).dies } := by
  unfold State.unclear; split <;> rfl
theorem State.storeByte_frame (s : State) (pa : Nat) (b : Byte) :
    s.storeByte pa b = { s with mem := (s.storeByte pa b).mem, dies := (s.storeByte pa b).dies } := by
  unfold State.storeByte; simp only; rw [s.unclear_frame pa]
theorem State.storeBytes_frame (s : State) (pa : Nat) (bs : List Byte) :
    s.storeBytes pa bs = { s with mem := (s.storeBytes pa bs).mem, dies := (s.storeBytes pa bs).dies } := by
  induction bs generalizing s pa with
  | nil => rfl
  | cons b r ih =>
    simp only [State.storeBytes]
    rw [ih (s.storeByte pa b) (pa + 1), s.storeByte_frame pa b]

@[simp] theorem State.storeBytes_groups (s : State) (pa : Nat) (bs : List Byte) : (s.storeBytes pa bs).groups = s.groups := by
  rw [s.storeBytes_frame pa bs]
@[simp] theorem State.storeBytes_cores (s : State) (pa : Nat) (bs : List Byte) : (s.storeBytes pa bs).cores = s.cores := by
  rw [s.storeBytes_frame pa bs]
@[simp] theorem State.storeBytes_ios (s : State) (pa : Nat) (bs : List Byte) : (s.storeBytes pa bs).ios = s.ios := by
  rw [s.storeBytes_frame pa bs]
@[simp] theorem State.storeBytes_reqs (s : State) (pa : Nat) (bs : List Byte) : (s.storeBytes pa bs).reqs = s.reqs := by
  rw [s.storeBytes_frame pa bs]
@[simp] theorem State.storeBytes_spaces (s : State) (pa : Nat) (bs : List Byte) : (s.storeBytes pa bs).spaces = s.spaces := by
  rw [s.storeBytes_frame pa bs]
@[simp] theorem State.storeBytes_worlds (s : State) (pa : Nat) (bs : List Byte) : (s.storeBytes pa bs).worlds = s.worlds := by
  rw [s.storeBytes_frame pa bs]
@[simp] theorem State.storeBytes_passes (s : State) (pa : Nat) (bs : List Byte) : (s.storeBytes pa bs).passes = s.passes := by
  rw [s.storeBytes_frame pa bs]
@[simp] theorem State.storeBytes_launches (s : State) (pa : Nat) (bs : List Byte) : (s.storeBytes pa bs).launches = s.launches := by
  rw [s.storeBytes_frame pa bs]
@[simp] theorem State.storeBytes_gangs (s : State) (pa : Nat) (bs : List Byte) : (s.storeBytes pa bs).gangs = s.gangs := by
  rw [s.storeBytes_frame pa bs]

/-! Traps change no memory. -/

@[simp] theorem State.mclog_mem (s : State) (cid kind addr : Nat) : (s.mclog cid kind addr).mem = s.mem := by
  unfold State.mclog; rfl
@[simp] theorem State.signetStops_mem (s : State) (gid cause n : Nat) : (s.signetStops gid cause n).mem = s.mem := by
  unfold State.signetStops
  split <;> simp [State.setIpend, State.stopGroup]
@[simp] theorem State.trap_mem (s : State) (gid : Nat) (t : TrapInfo) : (s.trap gid t).mem = s.mem := by
  unfold State.trap
  simp only
  repeat' split
  all_goals simp [State.setIpend, State.stopGroup]
@[simp] theorem State.trapPr_mem (s : State) (c : Ctx) (cause : Nat) (lanes : Mask) (addr : DWord) (pr : Bool) : (s.trapPr c cause lanes addr pr).mem = s.mem := by
  simp [State.trapPr]
@[simp] theorem State.trapAt_mem (s : State) (c : Ctx) (cause : Nat) (lanes : Mask) (addr : DWord) : (s.trapAt c cause lanes addr).mem = s.mem := by
  simp [State.trapAt]
@[simp] theorem State.stall_mem (s : State) (gid : Nat) : (s.stall gid).mem = s.mem := rfl
@[simp] theorem State.commit_mem (s : State) (c : Ctx) (g : Group) : (s.commit c g).mem = s.mem := rfl

@[simp] theorem State.regError_mem (s : State) (c : Ctx) (addr : Nat) : (s.regError c addr).mem = s.mem := by simp [State.regError]

/-- The gate leads to one of three states: a stall, a trap, or the one that the form makes. -/
theorem State.gate_next (s : State) (c : Ctx) (k : Chk) (ok t : State) (h : s.gate c k ok = .next t) :
    (k = .wait ∧ t = s.stall c.gid) ∨ (∃ cause addr, k = .trap cause addr ∧ 
      t = if cause = cMachineCheck then s.regError c addr else s.trapAt c cause c.en (BitVec.ofNat 64 addr)) ∨ (k = .ok ∧ t = ok) := by
  unfold State.gate at h
  split at h <;> (injection h with h; subst h)
  · exact .inl ⟨rfl, rfl⟩
  · exact .inr (.inl ⟨_, _, rfl, rfl⟩)
  · exact .inr (.inr ⟨rfl, rfl⟩)

end Sys2Proof.Machine
end

