-- ==== Sys2Proof/Laws/Caches.lean ====
section
/-!
SUPPORT. What a read through the caches can change: bytes of tags, cores, dies, I/O dies and the next free value; never a group, a request, a space, a
launch, the clock or the agenda. Fetches and walks are such reads (03 R53, 11 R204, R226).
-/

namespace Sys2Proof.Machine

/-- Nothing outside memory, cores, dies, I/O dies and free values differs. -/
def State.Caching (s t : State) : Prop := t = { s with mem := t.mem, cores := t.cores, dies := t.dies, ios := t.ios, free := t.free }

namespace State.Caching
theorem refl (s : State) : s.Caching s := rfl
theorem trans {a b c : State} (h : a.Caching b) (k : b.Caching c) : a.Caching c := by unfold State.Caching at *; rw [k, h]
theorem ite {s a b : State} {p : Prop} [Decidable p] (h : s.Caching a) (k : s.Caching b) : s.Caching (if p then a else b) := by split <;> assumption
theorem foldl {α : Type} (f : State → α → State) (h : ∀ (s : State) (a : α), s.Caching (f s a)) (L : List α) (s : State) : s.Caching (L.foldl f s) := by
  induction L generalizing s with
  | nil => exact refl s
  | cons a r ih => exact (h s a).trans (ih (f s a))
theorem groups {s t : State} (h : s.Caching t) : t.groups = s.groups := by rw [h]
theorem group {s t : State} (h : s.Caching t) (gid : Nat) : t.group gid = s.group gid := by unfold State.group; rw [h.groups]
theorem reqs {s t : State} (h : s.Caching t) : t.reqs = s.reqs := by rw [h]
theorem passes {s t : State} (h : s.Caching t) : t.passes = s.passes := by rw [h]
theorem spaces {s t : State} (h : s.Caching t) : t.spaces = s.spaces := by rw [h]
theorem worlds {s t : State} (h : s.Caching t) : t.worlds = s.worlds := by rw [h]
theorem launches {s t : State} (h : s.Caching t) : t.launches = s.launches := by rw [h]
theorem clock {s t : State} (h : s.Caching t) : t.clock = s.clock := by rw [h]
theorem agenda {s t : State} (h : s.Caching t) : t.agenda = s.agenda := by rw [h]
end State.Caching

theorem State.caching_setDie (s : State) (d : Nat) (x : Die) : s.Caching (s.setDie d x) := rfl
theorem State.caching_setCore (s : State) (c : Nat) (x : Core) : s.Caching (s.setCore c x) := rfl
theorem State.caching_setIo (s : State) (d : Nat) (x : IoDie) : s.Caching (s.setIo d x) := rfl
theorem State.caching_draw (s : State) : s.Caching s.draw := rfl
theorem State.caching_storeBytes (s : State) (pa : Nat) (bs : List Byte) : s.Caching (s.storeBytes pa bs) := by
  unfold State.Caching; rw [s.storeBytes_frame pa bs]

/-! Sealing, and the memory-side cache. -/

theorem State.caching_sealSector (s : State) (lpa : Nat) : s.Caching (s.sealSector lpa) := by
  unfold State.sealSector
  split
  · exact .ite (.refl _) (s.caching_storeBytes _ _)
  · exact .refl s
theorem State.caching_activate (s : State) (d lpa : Nat) : s.Caching (s.activate d lpa) := rfl
theorem State.caching_locketHit (s : State) (d lpa : Nat) : s.Caching (s.locketHit d lpa) := rfl
theorem State.caching_mclog (s : State) (cid src wh : Nat) : s.Caching (s.mclog cid src wh) := rfl
theorem State.caching_movedBad (s : State) (d sec src : Nat) (moved : Bool) : s.Caching (s.movedBad d sec src moved) := .ite rfl (.refl s)
theorem State.caching_evictMsc (s : State) (d sec : Nat) : s.Caching (s.evictMsc d sec) := by
  unfold State.evictMsc
  exact .ite (((s.caching_setDie _ _).trans (State.caching_movedBad _ _ _ _ _)).trans (State.caching_activate _ _ _)) (s.caching_setDie _ _)
theorem State.caching_takeMsc (s : State) (d sec : Nat) : s.Caching (s.takeMsc d sec) := by
  unfold State.takeMsc
  refine .ite (.refl s) (.trans ?_ (State.caching_setDie _ _ _))
  exact .ite (.refl s) (s.caching_draw.trans (State.caching_evictMsc _ _ _))
theorem State.caching_reachMsc (s : State) (d lpa : Nat) (alloc write : Bool) : s.Caching (s.reachMsc d lpa alloc write) := by
  unfold State.reachMsc
  refine .ite (.refl s) (.ite (s.caching_locketHit d lpa) ?_)
  have h : s.Caching (if alloc then (s.locketHit d lpa).takeMsc d (lpa / 256) else s.locketHit d lpa) :=
    .ite ((s.caching_locketHit d lpa).trans (State.caching_takeMsc _ _ _)) (s.caching_locketHit d lpa)
  exact .ite (h.trans (State.caching_activate _ _ _)) h

theorem State.caching_reads (s : State) (d : Nat) (files : Bool) (place : Nat) : s.Caching (s.reads d files place) := (s.caching_setDie _ _).trans (State.caching_draw _)

/-! The L2. -/

theorem State.caching_evictSector (s : State) (d sec : Nat) : s.Caching (s.evictSector d sec) := by
  unfold State.evictSector
  refine .ite (s.caching_setDie _ _) (.trans ?_ (State.caching_setDie _ _ _))
  exact .ite ((((s.caching_setDie _ _).trans (State.caching_sealSector _ _)).trans (State.caching_movedBad _ _ _ _ _)).trans
      ((State.caching_locketHit _ _ _).trans (State.caching_takeMsc _ _ _)))
    (((s.caching_setDie _ _).trans (State.caching_sealSector _ _)).trans (State.caching_movedBad _ _ _ _ _))
theorem State.caching_roomL2 (s : State) (d sec : Nat) (w : BitVec 12) : s.Caching (s.roomL2 d sec w) := by
  unfold State.roomL2
  exact .ite (.refl s) (s.caching_draw.trans (.foldl _ (fun s k => s.caching_evictSector d k) _ _))
theorem State.caching_fillL2 (s : State) (d sec : Nat) (x : Sector) : s.Caching (s.fillL2 d sec x) :=
  (s.caching_roomL2 d sec _).trans (State.caching_setDie _ _ _)
theorem State.caching_touchHome (s : State) (h lpa : Nat) (grain write : Bool) : s.Caching (s.touchHome h lpa grain write) := by
  unfold State.touchHome
  extract_lets sec here s0
  have h0 : s.Caching s0 := s.caching_reads h false lpa
  refine .ite (h0.trans ?_) (h0.trans ?_)
  · extract_lets
    exact .trans (.ite (.refl s0) (.ite ((s0.caching_reachMsc _ _ _ _).trans (State.caching_roomL2 _ _ _ _))
      (((s0.caching_reachMsc _ _ _ _).trans (State.caching_roomL2 _ _ _ _)).trans (State.caching_setDie _ _ _)))) (State.caching_setDie _ _ _)
  · exact .ite ((s0.caching_reachMsc _ _ _ _).trans (State.caching_setDie _ _ _)) (s0.caching_reachMsc _ _ _ _)
theorem State.caching_homeStore (s : State) (h lpa : Nat) (bs : List Byte) (grain : Bool) : s.Caching (s.homeStore h lpa bs grain) :=
  ((s.caching_touchHome h lpa grain true).trans (State.caching_storeBytes _ _ _)).trans (State.caching_sealSector _ _)

/-! Messages and stamps. -/

theorem State.caching_rperr (s : State) (port reason data : Nat) : s.Caching (s.rperr port reason data) := rfl
theorem State.caching_logHole (s : State) (pa : Nat) : s.Caching (s.logHole pa) := by
  unfold State.logHole; exact .ite (s.caching_rperr _ _ _) (.refl s)
theorem State.caching_crossed (s : State) (l : Nat × Nat) : s.Caching (s.crossed l) := by
  unfold State.crossed; exact .ite (s.caching_setDie _ _) (s.caching_setIo _ _)
theorem State.caching_travels (s : State) (src dst : Nat) : s.Caching (s.travels src dst) := by
  unfold State.travels; exact .ite (.refl s) (.foldl _ State.caching_crossed _ _)
theorem State.caching_carried (s : State) (src dst : Nat) (k : Tab (BitVec 24)) : s.Caching (s.carried src dst k) := by
  unfold State.carried
  refine .ite (.refl s) ?_
  have h := s.caching_travels src dst
  exact .ite (h.trans (State.caching_setDie _ _ _)) (h.trans (State.caching_setIo _ _ _))
theorem State.caching_mergeStamp (s : State) (d : Nat) (m : Tab (BitVec 24)) : s.Caching (s.mergeStamp d m) := by
  unfold State.mergeStamp State.raiseK
  exact .ite (.refl s) (.ite (s.caching_setDie _ _) (s.caching_setIo _ _))
theorem State.caching_placeOf (s : State) (pool pa : Nat) : s.Caching (s.placeOf pool pa).2.2 := by
  unfold State.placeOf
  split
  · exact s.caching_draw
  · exact .refl s

/-! Reads of a die's agents, walks and fetches. -/

/-- The state after a read through an L2 differs from the one before in caches alone. -/
theorem State.l2Read_caching {s t : State} {r : Reader} {pa n : Nat} {bs : List Byte} (h : s.l2Read r pa n = .ok bs t) : s.Caching t := by
  unfold State.l2Read at h
  simp only at h
  have hp := s.caching_placeOf (s.pool r.src) pa
  repeat' split at h
  all_goals first | (cases h; done) | skip
  all_goals (injection h with _ h; subst h)
  · exact s.caching_logHole pa
  · exact s.caching_reads _ _ _
  · exact (hp.trans ((((State.caching_carried _ _ _ _).trans (State.caching_touchHome _ _ _ _ _)).trans (State.caching_carried _ _ _ _)).trans
      (State.caching_mergeStamp _ _ _))).trans (State.caching_fillL2 _ _ _ _)
  · exact hp.trans ((((State.caching_carried _ _ _ _).trans (State.caching_touchHome _ _ _ _ _)).trans (State.caching_carried _ _ _ _)).trans
      (State.caching_mergeStamp _ _ _))

theorem State.walkFrom_caching (s : State) (r : Reader) (va lvl table : Nat) : s.Caching (s.walkFrom r va lvl table).2.2 := by
  induction lvl generalizing s table with
  | zero => exact .refl s
  | succ n ih =>
    unfold State.walkFrom
    simp only
    split
    · exact .refl s
    · split
      · exact .refl s
      · exact .refl s
      · next h =>
        have k := State.l2Read_caching h
        repeat' split
        all_goals first | exact k | exact k.trans (ih _ _)
theorem State.walk_caching (s : State) (die : Nat) (w : Walk) : s.Caching (s.walk die w).2.2 := by
  unfold State.walk; simp only; split <;> exact s.walkFrom_caching _ _ _ _

theorem State.caching_fillL2i (s : State) (d q sec : Nat) (x : Sector) : s.Caching (s.fillL2i d q sec x) := by
  unfold State.fillL2i
  exact .ite (s.caching_setDie _ _) (s.caching_draw.trans (State.caching_setDie _ _ _))
theorem State.caching_fillL1i (s : State) (cid sec : Nat) (x : Sector) : s.Caching (s.fillL1i cid sec x) := by
  exact .trans (.ite s.caching_draw (.refl s)) (State.caching_setCore _ _ _)
theorem State.caching_keepL1i (s : State) (cid : Nat) (r : Reader) (pa : Nat) (bs : List Byte) : s.Caching (s.keepL1i cid r pa bs) := by
  unfold State.keepL1i
  exact .ite (s.caching_fillL1i _ _ _) (.refl s)
theorem State.caching_l2iSound (s : State) (cid : Nat) (r : Reader) (pa : Nat) : s.Caching (s.l2iSound cid r pa) := by
  unfold State.l2iSound
  exact .ite rfl (.refl s)
theorem State.caching_l1iSound (s : State) (cid : Nat) (r : Reader) (pa : Nat) : s.Caching (s.l1iSound cid r pa) := by
  unfold State.l1iSound
  exact .ite rfl (.refl s)
theorem State.fetchSector_caching {s t : State} {cid pa : Nat} {r : Reader} {bs : List Byte} (h : s.fetchSector cid r pa = .ok bs t) : s.Caching t := by
  unfold State.fetchSector at h
  split at h
  · injection h with _ h; subst h; exact .refl s
  · split at h
    · next k =>
      injection h with _ h; subst h
      exact (s.caching_l2iSound cid r pa).trans ((State.l2Read_caching k).trans (.ite (State.caching_fillL2i _ _ _ _ _) (.refl _)))
    · next hq => exact absurd h (hq _ _)
theorem State.fetchMiss_caching {s t : State} {cid pa w : Nat} {r : Reader} (h : s.fetchMiss cid r pa = .ok w t) : s.Caching t := by
  unfold State.fetchMiss at h
  split at h
  · next k => injection h with _ h; subst h; exact (State.fetchSector_caching k).trans (State.caching_keepL1i _ _ _ _ _)
  · cases h
  · cases h
/-- A fetched word leaves everything but caches as it was. -/
theorem State.fetchWord_caching {s t : State} {gid w priv : Nat} {va : DWord} (h : s.fetchWord gid va priv = .ok w t) : s.Caching t := by
  unfold State.fetchWord at h
  simp only at h
  repeat' split at h
  all_goals first | (cases h; done) | skip
  · injection h with _ h; subst h; exact .refl s
  · exact (State.caching_l1iSound _ _ _ _).trans (State.fetchMiss_caching h)
theorem State.fetchWords_caching {s t : State} {gid priv n : Nat} {va : DWord} {ws : List Nat} (h : s.fetchWords gid priv va n = .ok ws t) : s.Caching t := by
  induction n generalizing s va ws with
  | zero => injection h with _ h; subst h; exact .refl s
  | succ n ih =>
    unfold State.fetchWords at h
    split at h
    · cases h
    · cases h
    · cases h
    · next k =>
      split at h
      · next k2 => injection h with _ h; subst h; exact (State.fetchWord_caching k).trans (ih k2)
      · next hq => exact absurd h (hq _ _)
/-- So do the words of an instruction. -/
theorem State.fetchInstr_caching {s t : State} {gid priv : Nat} {va : DWord} {ws : List Nat} (h : s.fetchInstr gid priv va = .ok ws t) : s.Caching t := by
  unfold State.fetchInstr at h
  split at h
  · next k => exact (State.fetchWords_caching k).trans (State.fetchWords_caching h)
  · exact State.fetchWords_caching h

end Sys2Proof.Machine
end

