-- ==== Sys2Proof/Laws/Exec.lean ====
section
/-!
SUPPORT. What `exec` does with each constructor: one lemma per arm, by definition, so that no proof unfolds the whole match.
-/

namespace Sys2Proof.Machine

@[simp] theorem exec_nop (s : State) : exec .nop s = execNop s := rfl
@[simp] theorem exec_nopX x (s : State) : exec (.nopX x) s = execNopX x s := rfl
@[simp] theorem exec_yield x (s : State) : exec (.yield x) s = execYield x s := rfl
@[simp] theorem exec_mov d a (s : State) : exec (.mov d a) s = execMov d a s := rfl
@[simp] theorem exec_movX x (s : State) : exec (.movX x) s = execMovX x s := rfl
@[simp] theorem exec_sel x (s : State) : exec (.sel x) s = execSel x s := rfl
@[simp] theorem exec_mov64 x (s : State) : exec (.mov64 x) s = execMov64 x s := rfl
@[simp] theorem exec_movx x (s : State) : exec (.movx x) s = execMovx x s := rfl
@[simp] theorem exec_movxw x (s : State) : exec (.movxw x) s = execMovxw x s := rfl
@[simp] theorem exec_iadd d a b (s : State) : exec (.iadd d a b) s = execIadd d a b s := rfl
@[simp] theorem exec_iaddX x (s : State) : exec (.iaddX x) s = execIaddX x s := rfl
@[simp] theorem exec_iadd64 x (s : State) : exec (.iadd64 x) s = execIadd64 x s := rfl
@[simp] theorem exec_lea x (s : State) : exec (.lea x) s = execLea x s := rfl
@[simp] theorem exec_iaddc x (s : State) : exec (.iaddc x) s = execIaddc x s := rfl
@[simp] theorem exec_isubb x (s : State) : exec (.isubb x) s = execIsubb x s := rfl
@[simp] theorem exec_isub d a b (s : State) : exec (.isub d a b) s = execIsub d a b s := rfl
@[simp] theorem exec_isubX x (s : State) : exec (.isubX x) s = execIsubX x s := rfl
@[simp] theorem exec_isub64 x (s : State) : exec (.isub64 x) s = execIsub64 x s := rfl
@[simp] theorem exec_ineg x (s : State) : exec (.ineg x) s = execIneg x s := rfl
@[simp] theorem exec_iabs x (s : State) : exec (.iabs x) s = execIabs x s := rfl
@[simp] theorem exec_imul d a b (s : State) : exec (.imul d a b) s = execImul d a b s := rfl
@[simp] theorem exec_imulX x (s : State) : exec (.imulX x) s = execImulX x s := rfl
@[simp] theorem exec_imulh x (s : State) : exec (.imulh x) s = execImulh x s := rfl
@[simp] theorem exec_imulw x (s : State) : exec (.imulw x) s = execImulw x s := rfl
@[simp] theorem exec_imad x (s : State) : exec (.imad x) s = execImad x s := rfl
@[simp] theorem exec_imadw x (s : State) : exec (.imadw x) s = execImadw x s := rfl
@[simp] theorem exec_imad64 x (s : State) : exec (.imad64 x) s = execImad64 x s := rfl
@[simp] theorem exec_imin d a b (s : State) : exec (.imin d a b) s = execImin d a b s := rfl
@[simp] theorem exec_iminX x (s : State) : exec (.iminX x) s = execIminX x s := rfl
@[simp] theorem exec_imax x (s : State) : exec (.imax x) s = execImax x s := rfl
@[simp] theorem exec_and d a b (s : State) : exec (.and d a b) s = execAnd d a b s := rfl
@[simp] theorem exec_andX x (s : State) : exec (.andX x) s = execAndX x s := rfl
@[simp] theorem exec_andn x (s : State) : exec (.andn x) s = execAndn x s := rfl
@[simp] theorem exec_bfun x (s : State) : exec (.bfun x) s = execBfun x s := rfl
@[simp] theorem exec_or d a b (s : State) : exec (.or d a b) s = execOr d a b s := rfl
@[simp] theorem exec_orX x (s : State) : exec (.orX x) s = execOrX x s := rfl
@[simp] theorem exec_xor d a b (s : State) : exec (.xor d a b) s = execXor d a b s := rfl
@[simp] theorem exec_xorX x (s : State) : exec (.xorX x) s = execXorX x s := rfl
@[simp] theorem exec_not x (s : State) : exec (.not x) s = execNot x s := rfl
@[simp] theorem exec_shl d a b (s : State) : exec (.shl d a b) s = execShl d a b s := rfl
@[simp] theorem exec_shlX x (s : State) : exec (.shlX x) s = execShlX x s := rfl
@[simp] theorem exec_shl64 x (s : State) : exec (.shl64 x) s = execShl64 x s := rfl
@[simp] theorem exec_shr d a b (s : State) : exec (.shr d a b) s = execShr d a b s := rfl
@[simp] theorem exec_shrX x (s : State) : exec (.shrX x) s = execShrX x s := rfl
@[simp] theorem exec_sar x (s : State) : exec (.sar x) s = execSar x s := rfl
@[simp] theorem exec_shr64 x (s : State) : exec (.shr64 x) s = execShr64 x s := rfl
@[simp] theorem exec_sar64 x (s : State) : exec (.sar64 x) s = execSar64 x s := rfl
@[simp] theorem exec_rotl x (s : State) : exec (.rotl x) s = execRotl x s := rfl
@[simp] theorem exec_fshl x (s : State) : exec (.fshl x) s = execFshl x s := rfl
@[simp] theorem exec_fshr x (s : State) : exec (.fshr x) s = execFshr x s := rfl
@[simp] theorem exec_bfx d a b (s : State) : exec (.bfx d a b) s = execBfx d a b s := rfl
@[simp] theorem exec_bfxX x (s : State) : exec (.bfxX x) s = execBfxX x s := rfl
@[simp] theorem exec_bfi x (s : State) : exec (.bfi x) s = execBfi x s := rfl
@[simp] theorem exec_bmsk x (s : State) : exec (.bmsk x) s = execBmsk x s := rfl
@[simp] theorem exec_popc d a (s : State) : exec (.popc d a) s = execPopc d a s := rfl
@[simp] theorem exec_popcX x (s : State) : exec (.popcX x) s = execPopcX x s := rfl
@[simp] theorem exec_clz x (s : State) : exec (.clz x) s = execClz x s := rfl
@[simp] theorem exec_ctz x (s : State) : exec (.ctz x) s = execCtz x s := rfl
@[simp] theorem exec_brev x (s : State) : exec (.brev x) s = execBrev x s := rfl
@[simp] theorem exec_bytep x (s : State) : exec (.bytep x) s = execBytep x s := rfl
@[simp] theorem exec_icmp d a b (s : State) : exec (.icmp d a b) s = execIcmp d a b s := rfl
@[simp] theorem exec_icmpX x (s : State) : exec (.icmpX x) s = execIcmpX x s := rfl
@[simp] theorem exec_icmp64 x (s : State) : exec (.icmp64 x) s = execIcmp64 x s := rfl
@[simp] theorem exec_plop x (s : State) : exec (.plop x) s = execPlop x s := rfl
@[simp] theorem exec_cvti x (s : State) : exec (.cvti x) s = execCvti x s := rfl
@[simp] theorem exec_fadd d a b (s : State) : exec (.fadd d a b) s = execFadd d a b s := rfl
@[simp] theorem exec_faddX x (s : State) : exec (.faddX x) s = execFaddX x s := rfl
@[simp] theorem exec_fsub x (s : State) : exec (.fsub x) s = execFsub x s := rfl
@[simp] theorem exec_fmul d a b (s : State) : exec (.fmul d a b) s = execFmul d a b s := rfl
@[simp] theorem exec_fmulX x (s : State) : exec (.fmulX x) s = execFmulX x s := rfl
@[simp] theorem exec_ffma d a b (s : State) : exec (.ffma d a b) s = execFfma d a b s := rfl
@[simp] theorem exec_ffmaX x (s : State) : exec (.ffmaX x) s = execFfmaX x s := rfl
@[simp] theorem exec_fmin d a b (s : State) : exec (.fmin d a b) s = execFmin d a b s := rfl
@[simp] theorem exec_fminX x (s : State) : exec (.fminX x) s = execFminX x s := rfl
@[simp] theorem exec_fmax x (s : State) : exec (.fmax x) s = execFmax x s := rfl
@[simp] theorem exec_fminn x (s : State) : exec (.fminn x) s = execFminn x s := rfl
@[simp] theorem exec_fmaxn x (s : State) : exec (.fmaxn x) s = execFmaxn x s := rfl
@[simp] theorem exec_fcmp d a b (s : State) : exec (.fcmp d a b) s = execFcmp d a b s := rfl
@[simp] theorem exec_fcmpX x (s : State) : exec (.fcmpX x) s = execFcmpX x s := rfl
@[simp] theorem exec_fclass x (s : State) : exec (.fclass x) s = execFclass x s := rfl
@[simp] theorem exec_fcvt x (s : State) : exec (.fcvt x) s = execFcvt x s := rfl
@[simp] theorem exec_fcvti x (s : State) : exec (.fcvti x) s = execFcvti x s := rfl
@[simp] theorem exec_icvtf x (s : State) : exec (.icvtf x) s = execIcvtf x s := rfl
@[simp] theorem exec_frnd x (s : State) : exec (.frnd x) s = execFrnd x s := rfl
@[simp] theorem exec_fscale x (s : State) : exec (.fscale x) s = execFscale x s := rfl
@[simp] theorem exec_frcp d a (s : State) : exec (.frcp d a) s = execFrcp d a s := rfl
@[simp] theorem exec_frcpX x (s : State) : exec (.frcpX x) s = execFrcpX x s := rfl
@[simp] theorem exec_frsq x (s : State) : exec (.frsq x) s = execFrsq x s := rfl
@[simp] theorem exec_fsqrt x (s : State) : exec (.fsqrt x) s = execFsqrt x s := rfl
@[simp] theorem exec_fex2 x (s : State) : exec (.fex2 x) s = execFex2 x s := rfl
@[simp] theorem exec_flg2 x (s : State) : exec (.flg2 x) s = execFlg2 x s := rfl
@[simp] theorem exec_fsin x (s : State) : exec (.fsin x) s = execFsin x s := rfl
@[simp] theorem exec_fcos x (s : State) : exec (.fcos x) s = execFcos x s := rfl
@[simp] theorem exec_ftanh x (s : State) : exec (.ftanh x) s = execFtanh x s := rfl
@[simp] theorem exec_fdot2 x (s : State) : exec (.fdot2 x) s = execFdot2 x s := rfl
@[simp] theorem exec_fma2 x (s : State) : exec (.fma2 x) s = execFma2 x s := rfl
@[simp] theorem exec_fadd2 x (s : State) : exec (.fadd2 x) s = execFadd2 x s := rfl
@[simp] theorem exec_fmul2 x (s : State) : exec (.fmul2 x) s = execFmul2 x s := rfl
@[simp] theorem exec_dot4 x (s : State) : exec (.dot4 x) s = execDot4 x s := rfl
@[simp] theorem exec_bra off (s : State) : exec (.bra off) s = execBra off s := rfl
@[simp] theorem exec_braX x (s : State) : exec (.braX x) s = execBraX x s := rfl
@[simp] theorem exec_brc d off (s : State) : exec (.brc d off) s = execBrc d off s := rfl
@[simp] theorem exec_brcX x (s : State) : exec (.brcX x) s = execBrcX x s := rfl
@[simp] theorem exec_bru d off (s : State) : exec (.bru d off) s = execBru d off s := rfl
@[simp] theorem exec_bruX x (s : State) : exec (.bruX x) s = execBruX x s := rfl
@[simp] theorem exec_call d off (s : State) : exec (.call d off) s = execCall d off s := rfl
@[simp] theorem exec_callX x (s : State) : exec (.callX x) s = execCallX x s := rfl
@[simp] theorem exec_calli x (s : State) : exec (.calli x) s = execCalli x s := rfl
@[simp] theorem exec_ret x (s : State) : exec (.ret x) s = execRet x s := rfl
@[simp] theorem exec_jmpi x (s : State) : exec (.jmpi x) s = execJmpi x s := rfl
@[simp] theorem exec_loop x (s : State) : exec (.loop x) s = execLoop x s := rfl
@[simp] theorem exec_brkl x (s : State) : exec (.brkl x) s = execBrkl x s := rfl
@[simp] theorem exec_exit (s : State) : exec .exit s = execExit s := rfl
@[simp] theorem exec_exitX x (s : State) : exec (.exitX x) s = execExitX x s := rfl
@[simp] theorem exec_rfl x (s : State) : exec (.rfl x) s = execRfl x s := rfl
@[simp] theorem exec_sleep a (s : State) : exec (.sleep a) s = execSleep a s := rfl
@[simp] theorem exec_sleepX x (s : State) : exec (.sleepX x) s = execSleepX x s := rfl
@[simp] theorem exec_sleepd x (s : State) : exec (.sleepd x) s = execSleepd x s := rfl
@[simp] theorem exec_sleepWake gid (s : State) : exec (.sleepWake gid) s = execSleepWake gid s := rfl
@[simp] theorem exec_trap (s : State) : exec .trap s = execTrap s := rfl
@[simp] theorem exec_trapX x (s : State) : exec (.trapX x) s = execTrapX x s := rfl
@[simp] theorem exec_tfence x (s : State) : exec (.tfence x) s = execTfence x s := rfl
@[simp] theorem exec_bkpt x (s : State) : exec (.bkpt x) s = execBkpt x s := rfl
@[simp] theorem exec_rett x (s : State) : exec (.rett x) s = execRett x s := rfl
@[simp] theorem exec_mfs d (s : State) : exec (.mfs d) s = execMfs d s := rfl
@[simp] theorem exec_mfsX x (s : State) : exec (.mfsX x) s = execMfsX x s := rfl
@[simp] theorem exec_mts x (s : State) : exec (.mts x) s = execMts x s := rfl
@[simp] theorem exec_ipf a (s : State) : exec (.ipf a) s = execIpf a s := rfl
@[simp] theorem exec_ipfX x (s : State) : exec (.ipfX x) s = execIpfX x s := rfl
@[simp] theorem exec_fencei x (s : State) : exec (.fencei x) s = execFencei x s := rfl
@[simp] theorem exec_wfi a (s : State) : exec (.wfi a) s = execWfi a s := rfl
@[simp] theorem exec_wfiX x (s : State) : exec (.wfiX x) s = execWfiX x s := rfl
@[simp] theorem exec_wfiDeadline gid (s : State) : exec (.wfiDeadline gid) s = execWfiDeadline gid s := rfl
@[simp] theorem exec_tlbi a b (s : State) : exec (.tlbi a b) s = execTlbi a b s := rfl
@[simp] theorem exec_tlbiX x (s : State) : exec (.tlbiX x) s = execTlbiX x s := rfl
@[simp] theorem exec_genb x (s : State) : exec (.genb x) s = execGenb x s := rfl
@[simp] theorem exec_xacq d a (s : State) : exec (.xacq d a) s = execXacq d a s := rfl
@[simp] theorem exec_xacqX x (s : State) : exec (.xacqX x) s = execXacqX x s := rfl
@[simp] theorem exec_xacqGrant gid (s : State) : exec (.xacqGrant gid) s = execXacqGrant gid s := rfl
@[simp] theorem exec_xrel x (s : State) : exec (.xrel x) s = execXrel x s := rfl
@[simp] theorem exec_xshr x (s : State) : exec (.xshr x) s = execXshr x s := rfl
@[simp] theorem exec_ocld x (s : State) : exec (.ocld x) s = execOcld x s := rfl
@[simp] theorem exec_ocinv x (s : State) : exec (.ocinv x) s = execOcinv x s := rfl
@[simp] theorem exec_feset x (s : State) : exec (.feset x) s = execFeset x s := rfl
@[simp] theorem exec_feclr x (s : State) : exec (.feclr x) s = execFeclr x s := rfl
@[simp] theorem exec_fewait x (s : State) : exec (.fewait x) s = execFewait x s := rfl
@[simp] theorem exec_qxch d a (s : State) : exec (.qxch d a) s = execQxch d a s := rfl
@[simp] theorem exec_qxchX x (s : State) : exec (.qxchX x) s = execQxchX x s := rfl
@[simp] theorem exec_qbc x (s : State) : exec (.qbc x) s = execQbc x s := rfl
@[simp] theorem exec_gshf d a b (s : State) : exec (.gshf d a b) s = execGshf d a b s := rfl
@[simp] theorem exec_gshfX x (s : State) : exec (.gshfX x) s = execGshfX x s := rfl
@[simp] theorem exec_gshfx x (s : State) : exec (.gshfx x) s = execGshfx x s := rfl
@[simp] theorem exec_gshfup x (s : State) : exec (.gshfup x) s = execGshfup x s := rfl
@[simp] theorem exec_gshfdn x (s : State) : exec (.gshfdn x) s = execGshfdn x s := rfl
@[simp] theorem exec_gvote d a (s : State) : exec (.gvote d a) s = execGvote d a s := rfl
@[simp] theorem exec_gvoteX x (s : State) : exec (.gvoteX x) s = execGvoteX x s := rfl
@[simp] theorem exec_gmatch x (s : State) : exec (.gmatch x) s = execGmatch x s := rfl
@[simp] theorem exec_gbcast x (s : State) : exec (.gbcast x) s = execGbcast x s := rfl
@[simp] theorem exec_gred d a (s : State) : exec (.gred d a) s = execGred d a s := rfl
@[simp] theorem exec_gredX x (s : State) : exec (.gredX x) s = execGredX x s := rfl
@[simp] theorem exec_gscan x (s : State) : exec (.gscan x) s = execGscan x s := rfl
@[simp] theorem exec_gbar (s : State) : exec .gbar s = execGbar s := rfl
@[simp] theorem exec_gbarX x (s : State) : exec (.gbarX x) s = execGbarX x s := rfl
@[simp] theorem exec_gbara x (s : State) : exec (.gbara x) s = execGbara x s := rfl
@[simp] theorem exec_gbarw x (s : State) : exec (.gbarw x) s = execGbarw x s := rfl
@[simp] theorem exec_phaseComplete die w (s : State) : exec (.phaseComplete die w) s = execPhaseComplete die w s := rfl
@[simp] theorem exec_binit a b (s : State) : exec (.binit a b) s = execBinit a b s := rfl
@[simp] theorem exec_binitX x (s : State) : exec (.binitX x) s = execBinitX x s := rfl
@[simp] theorem exec_barv x (s : State) : exec (.barv x) s = execBarv x s := rfl
@[simp] theorem exec_bwait x (s : State) : exec (.bwait x) s = execBwait x s := rfl
@[simp] theorem exec_barw x (s : State) : exec (.barw x) s = execBarw x s := rfl
@[simp] theorem exec_btest x (s : State) : exec (.btest x) s = execBtest x s := rfl
@[simp] theorem exec_ld d a (s : State) : exec (.ld d a) s = execLd d a s := rfl
@[simp] theorem exec_ldX x (s : State) : exec (.ldX x) s = execLdX x s := rfl
@[simp] theorem exec_lds x (s : State) : exec (.lds x) s = execLds x s := rfl
@[simp] theorem exec_ldw x (s : State) : exec (.ldw x) s = execLdw x s := rfl
@[simp] theorem exec_st a b (s : State) : exec (.st a b) s = execSt a b s := rfl
@[simp] theorem exec_stX x (s : State) : exec (.stX x) s = execStX x s := rfl
@[simp] theorem exec_sts x (s : State) : exec (.sts x) s = execSts x s := rfl
@[simp] theorem exec_stw x (s : State) : exec (.stw x) s = execStw x s := rfl
@[simp] theorem exec_loadReturn id dev (s : State) : exec (.loadReturn id dev) s = execLoadReturn id dev s := rfl
@[simp] theorem exec_storeAck id (s : State) : exec (.storeAck id) s = execStoreAck id s := rfl
@[simp] theorem exec_aadd d a b (s : State) : exec (.aadd d a b) s = execAadd d a b s := rfl
@[simp] theorem exec_aaddX x (s : State) : exec (.aaddX x) s = execAaddX x s := rfl
@[simp] theorem exec_amin x (s : State) : exec (.amin x) s = execAmin x s := rfl
@[simp] theorem exec_amax x (s : State) : exec (.amax x) s = execAmax x s := rfl
@[simp] theorem exec_aand x (s : State) : exec (.aand x) s = execAand x s := rfl
@[simp] theorem exec_aor x (s : State) : exec (.aor x) s = execAor x s := rfl
@[simp] theorem exec_axor x (s : State) : exec (.axor x) s = execAxor x s := rfl
@[simp] theorem exec_axch x (s : State) : exec (.axch x) s = execAxch x s := rfl
@[simp] theorem exec_acas x (s : State) : exec (.acas x) s = execAcas x s := rfl
@[simp] theorem exec_ainc x (s : State) : exec (.ainc x) s = execAinc x s := rfl
@[simp] theorem exec_adec x (s : State) : exec (.adec x) s = execAdec x s := rfl
@[simp] theorem exec_afadd x (s : State) : exec (.afadd x) s = execAfadd x s := rfl
@[simp] theorem exec_afmin x (s : State) : exec (.afmin x) s = execAfmin x s := rfl
@[simp] theorem exec_afmax x (s : State) : exec (.afmax x) s = execAfmax x s := rfl
@[simp] theorem exec_atomicReturn id (s : State) : exec (.atomicReturn id) s = execAtomicReturn id s := rfl
@[simp] theorem exec_qntApply id (s : State) : exec (.qntApply id) s = execQntApply id s := rfl
@[simp] theorem exec_fence (s : State) : exec .fence s = execFence s := rfl
@[simp] theorem exec_fenceX x (s : State) : exec (.fenceX x) s = execFenceX x s := rfl
@[simp] theorem exec_pref x (s : State) : exec (.pref x) s = execPref x s := rfl
@[simp] theorem exec_cinv x (s : State) : exec (.cinv x) s = execCinv x s := rfl
@[simp] theorem exec_cwb x (s : State) : exec (.cwb x) s = execCwb x s := rfl
@[simp] theorem exec_cpin x (s : State) : exec (.cpin x) s = execCpin x s := rfl
@[simp] theorem exec_cunpin x (s : State) : exec (.cunpin x) s = execCunpin x s := rfl
@[simp] theorem exec_locketFade die w (s : State) : exec (.locketFade die w) s = execLocketFade die w s := rfl
@[simp] theorem exec_mma x (s : State) : exec (.mma x) s = execMma x s := rfl
@[simp] theorem exec_mmaq x (s : State) : exec (.mmaq x) s = execMmaq x s := rfl
@[simp] theorem exec_mmai x (s : State) : exec (.mmai x) s = execMmai x s := rfl
@[simp] theorem exec_passStart id (s : State) : exec (.passStart id) s = execPassStart id s := rfl
@[simp] theorem exec_acz x (s : State) : exec (.acz x) s = execAcz x s := rfl
@[simp] theorem exec_acld x (s : State) : exec (.acld x) s = execAcld x s := rfl
@[simp] theorem exec_acmov x (s : State) : exec (.acmov x) s = execAcmov x s := rfl
@[simp] theorem exec_acst x (s : State) : exec (.acst x) s = execAcst x s := rfl
@[simp] theorem exec_alut x (s : State) : exec (.alut x) s = execAlut x s := rfl
@[simp] theorem exec_osopen d a b (s : State) : exec (.osopen d a b) s = execOsopen d a b s := rfl
@[simp] theorem exec_osopenX x (s : State) : exec (.osopenX x) s = execOsopenX x s := rfl
@[simp] theorem exec_ossub x (s : State) : exec (.ossub x) s = execOssub x s := rfl
@[simp] theorem exec_osclose x (s : State) : exec (.osclose x) s = execOsclose x s := rfl
@[simp] theorem exec_streamTileRead die slot t (s : State) : exec (.streamTileRead die slot t) s = execStreamTileRead die slot t s := rfl
@[simp] theorem exec_aspill x (s : State) : exec (.aspill x) s = execAspill x s := rfl
@[simp] theorem exec_afill x (s : State) : exec (.afill x) s = execAfill x s := rfl
@[simp] theorem exec_aown x (s : State) : exec (.aown x) s = execAown x s := rfl
@[simp] theorem exec_cqadv d a b (s : State) : exec (.cqadv d a b) s = execCqadv d a b s := rfl
@[simp] theorem exec_cqadvX x (s : State) : exec (.cqadvX x) s = execCqadvX x s := rfl
@[simp] theorem exec_batchDecision cid q (s : State) : exec (.batchDecision cid q) s = execBatchDecision cid q s := rfl
@[simp] theorem exec_cqwait x (s : State) : exec (.cqwait x) s = execCqwait x s := rfl
@[simp] theorem exec_cqseq x (s : State) : exec (.cqseq x) s = execCqseq x s := rfl
@[simp] theorem exec_dcwait x (s : State) : exec (.dcwait x) s = execDcwait x s := rfl
@[simp] theorem exec_tready x (s : State) : exec (.tready x) s = execTready x s := rfl
@[simp] theorem exec_cqput x (s : State) : exec (.cqput x) s = execCqput x s := rfl
@[simp] theorem exec_entryBegin cid q (s : State) : exec (.entryBegin cid q) s = execEntryBegin cid q s := rfl
@[simp] theorem exec_entryComplete cid q (s : State) : exec (.entryComplete cid q) s = execEntryComplete cid q s := rfl
@[simp] theorem exec_engineWindowWrite cid q (s : State) : exec (.engineWindowWrite cid q) s = execEngineWindowWrite cid q s := rfl
@[simp] theorem exec_queueHalt cid q cause addr (s : State) : exec (.queueHalt cid q cause addr) s = execQueueHalt cid q cause addr s := rfl
@[simp] theorem exec_promiseMiss cid q (s : State) : exec (.promiseMiss cid q) s = execPromiseMiss cid q s := rfl
@[simp] theorem exec_qstatClrc cid q (s : State) : exec (.qstatClrc cid q) s = execQstatClrc cid q s := rfl
@[simp] theorem exec_qstatHaltClear cid q (s : State) : exec (.qstatHaltClear cid q) s = execQstatHaltClear cid q s := rfl
@[simp] theorem exec_deferredReport gid (s : State) : exec (.deferredReport gid) s = execDeferredReport gid s := rfl
@[simp] theorem exec_step gid (s : State) : exec (.step gid) s = execStep gid s := rfl
@[simp] theorem exec_promiseMissed gid (s : State) : exec (.promiseMissed gid) s = execPromiseMissed gid s := rfl
@[simp] theorem exec_watchdog gid (s : State) : exec (.watchdog gid) s = execWatchdog gid s := rfl
@[simp] theorem exec_preempt gid (s : State) : exec (.preempt gid) s = execPreempt gid s := rfl
@[simp] theorem exec_breakpoint gid (s : State) : exec (.breakpoint gid) s = execBreakpoint gid s := rfl
@[simp] theorem exec_integrity gid pa (s : State) : exec (.integrity gid pa) s = execIntegrity gid pa s := rfl
@[simp] theorem exec_walkResult die idx (s : State) : exec (.walkResult die idx) s = execWalkResult die idx s := rfl
@[simp] theorem exec_homePerform id (s : State) : exec (.homePerform id) s = execHomePerform id s := rfl
@[simp] theorem exec_stampAnnouncement src dst (s : State) : exec (.stampAnnouncement src dst) s = execStampAnnouncement src dst s := rfl
@[simp] theorem exec_refresh die ch act (s : State) : exec (.refresh die ch act) s = execRefresh die ch act s := rfl
@[simp] theorem exec_hotRowWindowEnd die (s : State) : exec (.hotRowWindowEnd die) s = execHotRowWindowEnd die s := rfl
@[simp] theorem exec_clearSweep die line (s : State) : exec (.clearSweep die line) s = execClearSweep die line s := rfl
@[simp] theorem exec_scrub die pa res (s : State) : exec (.scrub die pa res) s = execScrub die pa res s := rfl
@[simp] theorem exec_flitRetry die port (s : State) : exec (.flitRetry die port) s = execFlitRetry die port s := rfl
@[simp] theorem exec_linkFailover die port (s : State) : exec (.linkFailover die port) s = execLinkFailover die port s := rfl
@[simp] theorem exec_writeAck src home num (s : State) : exec (.writeAck src home num) s = execWriteAck src home num s := rfl
@[simp] theorem exec_inboundPostedWrite q data (s : State) : exec (.inboundPostedWrite q data) s = execInboundPostedWrite q data s := rfl
@[simp] theorem exec_inboundRead q len (s : State) : exec (.inboundRead q len) s = execInboundRead q len s := rfl
@[simp] theorem exec_atsTranslationRequest q (s : State) : exec (.atsTranslationRequest q) s = execAtsTranslationRequest q s := rfl
@[simp] theorem exec_atsInvalidationCompletion port rid (s : State) : exec (.atsInvalidationCompletion port rid) s = execAtsInvalidationCompletion port rid s := rfl
@[simp] theorem exec_atsInvalidationTimeout port rid (s : State) : exec (.atsInvalidationTimeout port rid) s = execAtsInvalidationTimeout port rid s := rfl
@[simp] theorem exec_pageRequest q rd wr last prg (s : State) : exec (.pageRequest q rd wr last prg) s = execPageRequest q rd wr last prg s := rfl
@[simp] theorem exec_prgrsp io v (s : State) : exec (.prgrsp io v) s = execPrgrsp io v s := rfl
@[simp] theorem exec_completionTimeout id (s : State) : exec (.completionTimeout id) s = execCompletionTimeout id s := rfl
@[simp] theorem exec_intxMessage port (s : State) : exec (.intxMessage port) s = execIntxMessage port s := rfl
@[simp] theorem exec_ptmRequest port (s : State) : exec (.ptmRequest port) s = execPtmRequest port s := rfl
@[simp] theorem exec_ideCheckFailure q (s : State) : exec (.ideCheckFailure q) s = execIdeCheckFailure q s := rfl
@[simp] theorem exec_surpriseRemoval port (s : State) : exec (.surpriseRemoval port) s = execSurpriseRemoval port s := rfl
@[simp] theorem exec_bezelStore id (s : State) : exec (.bezelStore id) s = execBezelStore id s := rfl
@[simp] theorem exec_claspBarrierArrival io (s : State) : exec (.claspBarrierArrival io) s = execClaspBarrierArrival io s := rfl
@[simp] theorem exec_claspCounterAdd io (s : State) : exec (.claspCounterAdd io) s = execClaspCounterAdd io s := rfl
@[simp] theorem exec_claspInterrupt io (s : State) : exec (.claspInterrupt io) s = execClaspInterrupt io s := rfl
@[simp] theorem exec_wake cid (s : State) : exec (.wake cid) s = execWake cid s := rfl
@[simp] theorem exec_remoteWrite r data (s : State) : exec (.remoteWrite r data) s = execRemoteWrite r data s := rfl
@[simp] theorem exec_remoteWriteAck id ok (s : State) : exec (.remoteWriteAck id ok) s = execRemoteWriteAck id ok s := rfl
@[simp] theorem exec_rwrev io w (s : State) : exec (.rwrev io w) s = execRwrev io w s := rfl
@[simp] theorem exec_reductionContribution r data (s : State) : exec (.reductionContribution r data) s = execReductionContribution r data s := rfl
@[simp] theorem exec_reductionTimeout idx (s : State) : exec (.reductionTimeout idx) s = execReductionTimeout idx s := rfl
@[simp] theorem exec_launch cid tail (s : State) : exec (.launch cid tail) s = execLaunch cid tail s := rfl
@[simp] theorem exec_launchCopy vdev (s : State) : exec (.launchCopy vdev) s = execLaunchCopy vdev s := rfl
@[simp] theorem exec_dependencePoll seq (s : State) : exec (.dependencePoll seq) s = execDependencePoll seq s := rfl
@[simp] theorem exec_placeGang die seq (s : State) : exec (.placeGang die seq) s = execPlaceGang die seq s := rfl
@[simp] theorem exec_chunkArrival wg (s : State) : exec (.chunkArrival wg) s = execChunkArrival wg s := rfl
@[simp] theorem exec_stealMessage seq asker (s : State) : exec (.stealMessage seq asker) s = execStealMessage seq asker s := rfl
@[simp] theorem exec_stealAnswer seq asker (s : State) : exec (.stealAnswer seq asker) s = execStealAnswer seq asker s := rfl
@[simp] theorem exec_groupRelease gid (s : State) : exec (.groupRelease gid) s = execGroupRelease gid s := rfl
@[simp] theorem exec_launchComplete seq (s : State) : exec (.launchComplete seq) s = execLaunchComplete seq s := rfl
@[simp] theorem exec_turnEnd die (s : State) : exec (.turnEnd die) s = execTurnEnd die s := rfl
@[simp] theorem exec_gangSave gang (s : State) : exec (.gangSave gang) s = execGangSave gang s := rfl
@[simp] theorem exec_gangRestore gang (s : State) : exec (.gangRestore gang) s = execGangRestore gang s := rfl
@[simp] theorem exec_vdreset die v (s : State) : exec (.vdreset die v) s = execVdreset die v s := rfl
@[simp] theorem exec_clrsize die size (s : State) : exec (.clrsize die size) s = execClrsize die size s := rfl
@[simp] theorem exec_cecntRead die off width (s : State) : exec (.cecntRead die off width) s = execCecntRead die off width s := rfl
@[simp] theorem exec_registerWrite addr width val level (s : State) : exec (.registerWrite addr width val level) s = execRegisterWrite addr width val level s := rfl
@[simp] theorem exec_create (s : State) : exec .create s = execCreate s := rfl
@[simp] theorem exec_admitCall (s : State) : exec .admitCall s = execAdmit s := rfl
@[simp] theorem exec_release (s : State) : exec .release s = execRelease s := rfl
@[simp] theorem exec_ways (s : State) : exec .ways s = execWays s := rfl
@[simp] theorem exec_attest (s : State) : exec .attest s = execAttest s := rfl
@[simp] theorem exec_destroy (s : State) : exec .destroy s = execDestroy s := rfl
@[simp] theorem exec_idekey (s : State) : exec .idekey s = execIdekey s := rfl
@[simp] theorem exec_enter (s : State) : exec .enter s = execEnter s := rfl
@[simp] theorem exec_coldReset r (s : State) : exec (.coldReset r) s = execColdReset r s := rfl
@[simp] theorem exec_warmReset r (s : State) : exec (.warmReset r) s = execWarmReset r s := rfl
@[simp] theorem exec_throttleCheck die power junction stack (s : State) : exec (.throttleCheck die power junction stack) s = execThrottleCheck die power junction stack s := rfl
@[simp] theorem exec_thermalTrip die (s : State) : exec (.thermalTrip die) s = execThermalTrip die s := rfl
@[simp] theorem exec_ptmCorrection ahead (s : State) : exec (.ptmCorrection ahead) s = execPtmCorrection ahead s := rfl
@[simp] theorem exec_standbySupplyApplied die (s : State) : exec (.standbySupplyApplied die) s = execStandbySupplyApplied die s := rfl
@[simp] theorem exec_genbCompletion gid (s : State) : exec (.genbCompletion gid) s = execGenbCompletion gid s := rfl
@[simp] theorem exec_distributorReply id (s : State) : exec (.distributorReply id) s = execDistributorReply id s := rfl

end Sys2Proof.Machine
end

