-- ==== Sys2Proof/Laws/Lanes.lean ====
section
/-!
SUPPORT. Sets of lanes, and walking over the lanes of a set.
-/

namespace Sys2Proof

theorem laneList_mem (l : Nat) : l ∈ laneList ↔ l < 32 := by simp [laneList]

theorem Mask.has_lt (m : Mask) (l : Nat) (h : m.has l = true) : l < 32 := by
  unfold Mask.has at h
  exact BitVec.lt_of_getLsbD h

/-- The lanes listed are those in the set. -/
theorem Mask.mem_lanes (m : Mask) (l : Nat) : l ∈ m.lanes ↔ m.has l = true := by
  simp only [Mask.lanes, List.mem_filter, laneList_mem]
  exact ⟨fun h => h.2, fun h => ⟨Mask.has_lt m l h, h⟩⟩

theorem Mask.lanes_nodup (m : Mask) : m.lanes.Nodup := by
  unfold Mask.lanes laneList
  exact List.Pairwise.filter _ List.nodup_range

theorem Mask.has_zero (l : Nat) : Mask.has (0 : Mask) l = false := by simp [Mask.has]

theorem Mask.ne_zero_of_has (m : Mask) (l : Nat) (h : m.has l = true) : m ≠ 0 := by
  intro e; subst e; simp [Mask.has] at h

/-- A set with a member has a lowest one, which belongs to it. -/
theorem Mask.first_some (m : Mask) (l : Nat) (h : m.has l = true) : ∃ k, m.first = some k ∧ m.has k = true := by
  unfold Mask.first
  cases e : laneList.find? (fun l => m.getLsbD l) with
  | none =>
    have := List.find?_eq_none.mp e l ((laneList_mem l).mpr (Mask.has_lt m l h))
    exact absurd h this
  | some k => exact ⟨k, rfl, List.find?_some e⟩

theorem Mask.first_none (m : Mask) (h : m.first = none) (l : Nat) : m.has l = false := by
  cases e : m.has l with
  | false => rfl
  | true => obtain ⟨k, hk, _⟩ := Mask.first_some m l e; rw [h] at hk; cases hk

theorem Mask.first_zero : Mask.first 0 = none := by decide

/-- A set without a member is empty. -/
theorem Mask.eq_zero (m : Mask) (h : ∀ l, m.has l = false) : m = 0 := by
  apply BitVec.eq_of_getLsbD_eq
  intro i _
  simpa [Mask.has] using h i


theorem maskOf_list (p : Nat → Bool) (L : List Nat) (hL : ∀ k ∈ L, k < 32) (l : Nat) :
    (L.foldr (fun l m => if p l then m ||| (1#32 <<< l) else m) 0#32).getLsbD l = (decide (l ∈ L) && p l) := by
  induction L with
  | nil => simp
  | cons k r ih =>
    have hk := hL k (by simp)
    have ih := ih (fun j hj => hL j (by simp [hj]))
    simp only [List.foldr]
    cases e : p k with
    | false =>
      rw [if_neg (by simp), ih]
      by_cases h : l = k
      · subst h; simp [e]
      · simp [h]
    | true =>
      simp only [if_true, BitVec.getLsbD_or, ih, BitVec.getLsbD_shiftLeft, BitVec.getLsbD_one]
      by_cases h : l = k
      · subst h; simp [hk, e]
      · by_cases h2 : l < k
        · simp [h, h2]
        · have : l - k ≠ 0 := by omega
          simp [h, this]

/-- A lane is in the set of the lanes that satisfy a test when it satisfies it. -/
theorem maskOf_has (p : Nat → Bool) (l : Nat) : (maskOf p).has l = (decide (l < 32) && p l) := by
  unfold maskOf Mask.has
  rw [maskOf_list p laneList (fun k hk => (laneList_mem k).mp hk) l]
  simp [laneList_mem]

namespace Machine

/-- Lane by lane changes of a set of lanes. -/
theorem Group.foldl_setLane (f : Nat → Lane → Lane) (L : List Nat) (hL : L.Nodup) (g : Group) (k : Nat) :
    (L.foldl (fun g l => g.setLane l (f l (g.lane l))) g).lane k = if k ∈ L then f k (g.lane k) else g.lane k := by
  induction L generalizing g with
  | nil => simp
  | cons a r ih =>
    simp only [List.foldl]
    rw [List.nodup_cons] at hL
    rw [ih hL.2]
    by_cases h : k = a
    · subst h; simp [hL.1]
    · simp [Group.lane_setLane, h]

/-- What a walk over lanes leaves alone when each of its steps does. -/
theorem foldl_const {α β γ : Type} (f : α → β → α) (p : α → γ) (h : ∀ a b, p (f a b) = p a) (L : List β) (a : α) : p (L.foldl f a) = p a := by
  induction L generalizing a with
  | nil => rfl
  | cons b r ih => simp only [List.foldl, ih, h]

/-- What a walk keeps true. -/
theorem foldl_keeps {α β : Type} (f : α → β → α) (p : α → Prop) (h : ∀ a b, p a → p (f a b)) (L : List β) (a : α) (ha : p a) : p (L.foldl f a) := by
  induction L generalizing a with
  | nil => exact ha
  | cons b r ih => exact ih (f a b) (h a b ha)

end Machine

end Sys2Proof
end

