-- ==== Sys2Proof/Laws/Issue.lean ====
section
/-!
SUPPORT. The shared operations of an issue, said once: advancing PCs, applying the results of the lanes, killing sources, committing.
`State.runLanes_computed` is what a form that computes lane by lane does.
-/

namespace Sys2Proof.Machine

/-! Frames. -/

theorem Group.Keeps.refl (g : Group) : g.Keeps g := rfl
theorem Group.Keeps.trans {a b c : Group} (h : a.Keeps b) (k : b.Keeps c) : a.Keeps c := Eq.trans k h

theorem Group.keeps_setLane (g : Group) (l : Nat) (x : Lane) : g.Keeps (g.setLane l x) := by unfold Group.Keeps Group.setLane; rfl
theorem Group.keeps_wrReg (g : Group) (l r : Nat) (x : Word) : g.Keeps (g.wrReg l r x) := by unfold Group.Keeps Group.wrReg Group.frame; rfl
theorem Group.keeps_kill (g : Group) (r : Nat) : g.Keeps (g.kill r) := by unfold Group.Keeps Group.kill Group.frame; rfl
theorem Group.keeps_issued (g : Group) (n : Nat) : g.Keeps (g.issued n) := by unfold Group.Keeps Group.issued Group.frame; rfl
theorem Group.keeps_foldl {α : Type} (f : Group → α → Group) (h : ∀ (g : Group) (a : α), g.Keeps (f g a)) (L : List α) (g : Group) : g.Keeps (L.foldl f g) := by
  induction L generalizing g with
  | nil => rfl
  | cons a r ih => exact (h g a).trans (ih (f g a))

theorem Lane.Same.refl (x : Lane) : x.Same x := ⟨rfl, rfl, rfl, rfl, rfl⟩
theorem Lane.Same.trans {a b c : Lane} (h : a.Same b) (k : b.Same c) : a.Same c :=
  ⟨k.1.trans h.1, k.2.1.trans h.2.1, k.2.2.1.trans h.2.2.1, k.2.2.2.1.trans h.2.2.2.1, k.2.2.2.2.trans h.2.2.2.2⟩

/-! Registers. -/

theorem key_inj (r l q k : Nat) (hl : l < 32) (hk : k < 32) : key r l = key q k ↔ r = q ∧ l = k := by unfold key; omega

/-- A read after a write of one lane of a register. -/
theorem Group.reg_wrReg (g : Group) (l r : Nat) (x : Word) (k q : Nat) (hl : l < 32) (hk : k < 32) :
    (g.wrReg l r x).reg k q = if k = l ∧ q = r then x else g.reg k q := by
  simp only [Group.reg, Group.lane_wrReg]
  unfold Group.wrReg
  simp only [Tab.get_set, key_inj q k r l hk hl]
  by_cases h : q = r ∧ k = l
  · obtain ⟨rfl, rfl⟩ := h; simp
  · have h2 : ¬ (k = l ∧ q = r) := fun e => h ⟨e.2, e.1⟩
    simp [h, h2]

theorem Tab.get_setAll {α : Type} [DecidableEq α] (d v : α) (L : List Nat) (t : Tab α) (j : Nat) :
    Tab.get d (Tab.setAll d v L t) j = if j ∈ L then v else Tab.get d t j := by
  induction L generalizing t with
  | nil => simp [Tab.setAll]
  | cons a r ih =>
    simp only [Tab.setAll, ih, Tab.get_set, List.mem_cons]
    by_cases h : j ∈ r <;> by_cases h2 : j = a <;> simp [h, h2]

theorem mem_keys (r q k : Nat) (hk : k < 32) : key q k ∈ laneList.map (key r) ↔ q = r := by
  simp only [List.mem_map, laneList_mem]
  constructor
  · rintro ⟨l, hl, e⟩; exact ((key_inj r l q k hl hk).mp e).1.symm
  · rintro rfl; exact ⟨k, hk, rfl⟩

/-- A killed register reads as zero, every other as before. -/
theorem Group.reg_kill (g : Group) (r k q : Nat) (hk : k < 32) : (g.kill r).reg k q = if q = r then 0 else g.reg k q := by
  simp only [Group.reg, Group.lane_kill]
  unfold Group.kill
  simp only [Tab.get_setAll, mem_keys r q k hk]
  by_cases h : q = r
  · simp [h]
  · simp [h]

theorem Group.reg_kills (g : Group) (r n k q : Nat) (hk : k < 32) :
    ((List.range n).foldl (fun g i => g.kill (r + i)) g).reg k q = if r ≤ q ∧ q < r + n then 0 else g.reg k q := by
  induction n with
  | zero => rw [if_neg (by omega)]; rfl
  | succ n ih =>
    rw [List.range_succ, List.foldl_append]
    simp only [List.foldl, Group.reg_kill _ _ _ _ hk, ih]
    by_cases h : q = r + n
    · subst h; simp
    · by_cases h2 : r ≤ q ∧ q < r + n
      · simp [h, h2]; omega
      · have : ¬ (r ≤ q ∧ q < r + (n + 1)) := by omega
        simp [h, h2, this]

theorem killedBy_cons (a : Src) (r : List Src) (q : Nat) : killedBy (a :: r) q = (a.dead && Opnd.names a.o a.n q || killedBy r q) := rfl

/-- Killing the dead sources of an issue. -/
theorem Group.reg_killSrcs (g : Group) (srcs : List Src) (k q : Nat) (hk : k < 32) :
    (g.killSrcs srcs).reg k q = if killedBy srcs q = true then 0 else g.reg k q := by
  unfold Group.killSrcs
  induction srcs generalizing g with
  | nil => rw [if_neg (by simp [killedBy])]; rfl
  | cons a r ih =>
    obtain ⟨o, n, pol, dead⟩ := a
    rw [List.foldl, ih, killedBy_cons]
    cases hb : killedBy r q
    · cases o <;> cases dead <;> simp [Opnd.names, Group.reg_kills _ _ _ _ _ hk]
    · simp

theorem Group.keeps_killSrcs (g : Group) (srcs : List Src) : g.Keeps (g.killSrcs srcs) := by
  unfold Group.killSrcs
  apply Group.keeps_foldl
  intro g a
  obtain ⟨o, n, pol, dead⟩ := a
  cases o <;> try rfl
  cases dead
  · rfl
  · exact Group.keeps_foldl _ (fun g i => g.keeps_kill _) _ g

theorem Group.lanes_killSrcs (g : Group) (srcs : List Src) : (g.killSrcs srcs).lanes = g.lanes := by
  unfold Group.killSrcs
  apply foldl_const _ Group.lanes
  intro g a
  obtain ⟨o, n, pol, dead⟩ := a
  cases o <;> try rfl
  cases dead
  · rfl
  · exact foldl_const _ Group.lanes (fun g _ => g.kill_lanes _) _ g
theorem Group.lane_killSrcs (g : Group) (srcs : List Src) (l : Nat) : (g.killSrcs srcs).lane l = g.lane l := by
  simp only [Group.lane, Group.lanes_killSrcs]

/-! The results of the lanes. -/

theorem Lane.setPred_same (x : Lane) (n : Nat) (b : Bool) : x.Same (x.setPred n b) := by
  unfold Lane.setPred; split <;> exact ⟨rfl, rfl, rfl, rfl, rfl⟩
theorem Lane.setPred_loops (x : Lane) (n : Nat) (b : Bool) : (x.setPred n b).loops = x.loops := by unfold Lane.setPred; split <;> rfl
theorem Lane.setPred_pc (x : Lane) (n : Nat) (b : Bool) : (x.setPred n b).pc = x.pc := by unfold Lane.setPred; split <;> rfl
theorem Lane.setPred_lc (x : Lane) (n : Nat) (b : Bool) : (x.setPred n b).lc = x.lc := by unfold Lane.setPred; split <;> rfl
theorem Lane.setPred_fflag (x : Lane) (n : Nat) (b : Bool) : (x.setPred n b).fflag = x.fflag := by unfold Lane.setPred; split <;> rfl

theorem Lane.setPred_la (x : Lane) (n : Nat) (b : Bool) : (x.setPred n b).la = x.la := by unfold Lane.setPred; split <;> rfl
theorem Lane.setPred_laOk (x : Lane) (n : Nat) (b : Bool) : (x.setPred n b).laOk = x.laOk := by unfold Lane.setPred; split <;> rfl

/-- What writing a list of predicates does to a lane. -/
def Lane.setPreds (x : Lane) (ps : List (Nat × Bool)) : Lane := ps.foldl (fun x p => Lane.setPred x p.1 p.2) x
theorem Lane.setPreds_same (x : Lane) (ps : List (Nat × Bool)) : x.Same (x.setPreds ps) := by
  unfold Lane.setPreds
  induction ps generalizing x with
  | nil => exact .refl x
  | cons a r ih => exact (x.setPred_same _ _).trans (ih _)
theorem Lane.setPreds_loops (x : Lane) (ps : List (Nat × Bool)) : (x.setPreds ps).loops = x.loops :=
  foldl_const _ Lane.loops (fun x _ => x.setPred_loops _ _) ps x
theorem Lane.setPreds_pc (x : Lane) (ps : List (Nat × Bool)) : (x.setPreds ps).pc = x.pc := foldl_const _ Lane.pc (fun x _ => x.setPred_pc _ _) ps x
theorem Lane.setPreds_lc (x : Lane) (ps : List (Nat × Bool)) : (x.setPreds ps).lc = x.lc := foldl_const _ Lane.lc (fun x _ => x.setPred_lc _ _) ps x
theorem Lane.setPreds_fflag (x : Lane) (ps : List (Nat × Bool)) : (x.setPreds ps).fflag = x.fflag :=
  foldl_const _ Lane.fflag (fun x _ => x.setPred_fflag _ _) ps x
theorem Lane.setPreds_la (x : Lane) (ps : List (Nat × Bool)) : (x.setPreds ps).la = x.la := foldl_const _ Lane.la (fun x _ => x.setPred_la _ _) ps x
theorem Lane.setPreds_laOk (x : Lane) (ps : List (Nat × Bool)) : (x.setPreds ps).laOk = x.laOk := foldl_const _ Lane.laOk (fun x _ => x.setPred_laOk _ _) ps x
/-- The predicates after depend on the predicates before alone. -/
theorem Lane.setPreds_pred (x y : Lane) (h : x.p = y.p) (ps : List (Nat × Bool)) (n : Nat) : (x.setPreds ps).pred n = (y.setPreds ps).pred n := by
  unfold Lane.setPreds
  induction ps generalizing x y with
  | nil => simp only [List.foldl, Lane.pred, h]
  | cons a r ih =>
    simp only [List.foldl]
    refine ih _ _ ?_
    unfold Lane.setPred
    split
    · simp only [h]
    · exact h

/-- The lane of a group after its result is written: its own lane with a loop counter, latches, predicates and flags changed. -/
structure Applied (x y : Lane) (dk : Dst) (d : Opnd) (e : Eff) (latch : Bool) : Prop where
  same : x.Same y
  loops : y.loops = x.loops
  pc : y.pc = x.pc
  preds : ∀ n, y.pred n = (x.setPreds e.preds).pred n
  flags : y.fflag = x.fflag ||| e.fl
  counter : ∀ k, dk = .w32 → d = .lc k → Tab.get 0 y.lc k.val = BitVec.ofNat 32 e.val
  counters : ∀ n, (dk = .w32 → ∀ k, d = .lc k → k.val ≠ n) → Tab.get 0 y.lc n = Tab.get 0 x.lc n
  latches : x.Latched y (if latch = true then some (dk.whole e.val) else none)

theorem Group.lane_wr32 (g : Group) (l : Nat) (d : Opnd) (x : Word) (k : Nat) :
    (g.wr32 l d x).lane k = if k = l then (match d with | .lc n => { g.lane l with lc := Tab.set 0 (g.lane l).lc n.val x } | _ => g.lane l) else g.lane k := by
  unfold Group.wr32
  cases d <;> (try (by_cases h : k = l <;> simp [h]; done))
  next n => rw [Group.lane_setLane]
theorem Group.lane_wr64 (g : Group) (l : Nat) (d : Opnd) (x : DWord) (k : Nat) : (g.wr64 l d x).lane k = g.lane k := by
  unfold Group.wr64; cases d <;> simp

theorem Group.keeps_wr32 (g : Group) (l : Nat) (d : Opnd) (x : Word) : g.Keeps (g.wr32 l d x) := by
  unfold Group.wr32; cases d <;> first | exact g.keeps_wrReg _ _ _ | exact g.keeps_setLane _ _ | rfl
theorem Group.keeps_wr64 (g : Group) (l : Nat) (d : Opnd) (x : DWord) : g.Keeps (g.wr64 l d x) := by
  unfold Group.wr64; cases d <;> first | exact (g.keeps_wrReg _ _ _).trans (Group.keeps_wrReg _ _ _ _) | rfl

theorem Group.reg_wr32 (g : Group) (l : Nat) (d : Opnd) (x : Word) (k q : Nat) (hl : l < 32) (hk : k < 32) :
    (g.wr32 l d x).reg k q = if k = l ∧ Opnd.names d 1 q = true then x else g.reg k q := by
  unfold Group.wr32 Opnd.names
  cases d <;> simp
  next n => 
    rw [Group.reg_wrReg _ _ _ _ _ _ hl hk]
    congr 1; simp only [eq_iff_iff]; omega

theorem Group.reg_wr64 (g : Group) (l : Nat) (d : Opnd) (x : DWord) (k q : Nat) (hl : l < 32) (hk : k < 32) :
    (g.wr64 l d x).reg k q = if k = l ∧ Opnd.names d 2 q = true then
      (match d with | .v n => if q = n.val then x.truncate 32 else (x >>> 32).truncate 32 | _ => 0) else g.reg k q := by
  unfold Group.wr64 Opnd.names
  cases d <;> simp
  next n =>
    rw [Group.reg_wrReg _ _ _ _ _ _ hl hk, Group.reg_wrReg _ _ _ _ _ _ hl hk]
    by_cases h : k = l
    · by_cases h1 : q = n.val + 1
      · simp [h, h1]
      · by_cases h2 : q = n.val
        · simp [h, h2]
        · have : ¬ (n.val ≤ q ∧ q < n.val + 2) := by omega
          simp [h1, h2, this]
    · simp [h]

/-- The value that a destination of n registers takes in register q. -/
def Dst.part (dk : Dst) (d : Opnd) (val q : Nat) : Word :=
  match dk, d with
  | .w64, .v n => if q = n.val then BitVec.ofNat 32 val else BitVec.ofNat 32 (val / 2 ^ 32)
  | _, _ => BitVec.ofNat 32 val

theorem BitVec.ofNat_low (v : Nat) : (BitVec.ofNat 64 v).truncate 32 = BitVec.ofNat 32 v := by
  apply BitVec.eq_of_toNat_eq; simp [BitVec.toNat_ofNat]
theorem BitVec.ofNat_high (v : Nat) : ((BitVec.ofNat 64 v) >>> 32).truncate 32 = BitVec.ofNat 32 (v / 2 ^ 32) := by
  apply BitVec.eq_of_toNat_eq
  simp [BitVec.toNat_ofNat, BitVec.toNat_setWidth, BitVec.toNat_ushiftRight, Nat.shiftRight_eq_div_pow]
  omega

theorem Lane.shift_same (x : Lane) (v : DWord) : x.Same (x.shift v) := ⟨rfl, rfl, rfl, rfl, rfl⟩
/-- A shift leaves the result in la0 and each latch's value in the next (02 R24). -/
theorem Lane.shift_latched (x : Lane) (v : DWord) : x.Latched (x.shift v) (some v) := by
  refine ⟨by simp [Lane.shift, Tab.get_set], fun n hn => ?_, rfl⟩
  rcases n with _ | _ | _ | n
  · simp [Lane.shift, Tab.get_set]
  · simp [Lane.shift, Tab.get_set]
  · simp [Lane.shift, Tab.get_set]
  · omega
theorem Lane.Latched.congr {x y z w : Lane} {v : Option DWord} (h : x.Latched y v) (hx : z.la = x.la ∧ z.laOk = x.laOk) (hy : w.la = y.la ∧ w.laOk = y.laOk) :
    z.Latched w v := by
  unfold Lane.Latched at *
  rw [hx.1, hx.2, hy.1, hy.2]
  exact h

/-- The lane whose result is written. -/
theorem Group.apply_lane (g : Group) (dk : Dst) (d : Opnd) (latch : Bool) (l : Nat) (e : Eff) :
    Applied (g.lane l) ((g.apply dk d latch l e).lane l) dk d e latch := by
  have key : ∀ (g1 : Group) (v : DWord), v = dk.whole e.val → (g.lane l).Same (g1.lane l) → (g1.lane l).loops = (g.lane l).loops →
      (g1.lane l).pc = (g.lane l).pc → (g1.lane l).p = (g.lane l).p → (g1.lane l).fflag = (g.lane l).fflag →
      ((g1.lane l).la = (g.lane l).la ∧ (g1.lane l).laOk = (g.lane l).laOk) →
      (∀ n, (dk = .w32 → ∀ k, d = .lc k → k.val ≠ n) → Tab.get 0 (g1.lane l).lc n = Tab.get 0 (g.lane l).lc n) →
      (∀ k, dk = .w32 → d = .lc k → Tab.get 0 (g1.lane l).lc k.val = BitVec.ofNat 32 e.val) →
      Applied (g.lane l) ((g1.setLane l { (if latch then (g1.lane l).shift v else g1.lane l).setPreds e.preds with
        fflag := ((if latch then (g1.lane l).shift v else g1.lane l).setPreds e.preds).fflag ||| e.fl }).lane l) dk d e latch := by
    intro g1 v hv hs hl hp hpr hf hla hcs hc
    rw [Group.lane_setLane_self]
    have hx : (g1.lane l).Same (if latch then (g1.lane l).shift v else g1.lane l) := by
      split
      · exact Lane.shift_same _ _
      · exact .refl _
    have hy := hx.trans (Lane.setPreds_same (if latch then (g1.lane l).shift v else g1.lane l) e.preds)
    constructor
    · exact hs.trans hy
    · show (Lane.setPreds _ _).loops = _
      rw [Lane.setPreds_loops]; split <;> simpa [Lane.shift] using hl
    · show (Lane.setPreds _ _).pc = _
      rw [Lane.setPreds_pc]; split <;> simpa [Lane.shift] using hp
    · intro n
      show (Lane.setPreds _ _).pred n = _
      apply Lane.setPreds_pred
      split <;> simpa [Lane.shift] using hpr
    · show (Lane.setPreds _ _).fflag ||| e.fl = _
      rw [Lane.setPreds_fflag]; split <;> simp [Lane.shift, hf]
    · intro k h1 h2
      show Tab.get 0 (Lane.setPreds _ _).lc k.val = _
      rw [Lane.setPreds_lc]; split <;> simpa [Lane.shift] using hc k h1 h2
    · intro n hn
      show Tab.get 0 (Lane.setPreds _ _).lc n = _
      rw [Lane.setPreds_lc]; split <;> simpa [Lane.shift] using hcs n hn
    · have h2 : ((if latch then (g1.lane l).shift v else g1.lane l).setPreds e.preds).la = (if latch then (g1.lane l).shift v else g1.lane l).la ∧
          ((if latch then (g1.lane l).shift v else g1.lane l).setPreds e.preds).laOk = (if latch then (g1.lane l).shift v else g1.lane l).laOk :=
        ⟨Lane.setPreds_la _ _, Lane.setPreds_laOk _ _⟩
      refine Lane.Latched.congr (x := g1.lane l) (y := if latch then (g1.lane l).shift v else g1.lane l) ?_ ⟨hla.1.symm, hla.2.symm⟩ h2
      cases latch
      · exact ⟨rfl, rfl⟩
      · rw [← hv]; exact Lane.shift_latched _ _
  unfold Group.apply
  cases dk with
  | none => exact key g _ rfl (.refl _) rfl rfl rfl rfl ⟨rfl, rfl⟩ (fun _ _ => rfl) (by intro k h; cases h)
  | w32 =>
    refine key (g.wr32 l d (BitVec.ofNat 32 e.val)) _ rfl ?_ ?_ ?_ ?_ ?_ ?_ ?_ ?_ <;> simp only [Group.lane_wr32, if_true]
    · cases d <;> exact ⟨rfl, rfl, rfl, rfl, rfl⟩
    · cases d <;> rfl
    · cases d <;> rfl
    · cases d <;> rfl
    · cases d <;> rfl
    · cases d <;> exact ⟨rfl, rfl⟩
    · intro n hn
      cases d <;> try rfl
      next k => simp only [Tab.get_set]; rw [if_neg]; rintro rfl; exact hn trivial k rfl rfl
    · intro k _ h; subst h; simp [Tab.get_set]
  | w64 =>
    refine key (g.wr64 l d (BitVec.ofNat 64 e.val)) _ rfl ?_ ?_ ?_ ?_ ?_ ?_ ?_ ?_ <;> simp only [Group.lane_wr64]
    · exact .refl _
    · exact ⟨trivial, trivial⟩
    · intro n _; trivial
    · intro k h; cases h

theorem Group.apply_lane_ne (g : Group) (dk : Dst) (d : Opnd) (latch : Bool) (l : Nat) (e : Eff) (k : Nat) (h : k ≠ l) :
    (g.apply dk d latch l e).lane k = g.lane k := by
  unfold Group.apply
  cases dk <;> simp [Group.lane_setLane, h, Group.lane_wr32, Group.lane_wr64]

theorem Group.keeps_apply (g : Group) (dk : Dst) (d : Opnd) (latch : Bool) (l : Nat) (e : Eff) : g.Keeps (g.apply dk d latch l e) := by
  unfold Group.apply
  cases dk
  · exact g.keeps_setLane _ _
  · exact (g.keeps_wr32 _ _ _).trans (Group.keeps_setLane _ _ _)
  · exact (g.keeps_wr64 _ _ _).trans (Group.keeps_setLane _ _ _)

theorem Group.apply_reg (g : Group) (dk : Dst) (d : Opnd) (latch : Bool) (l : Nat) (e : Eff) (k q : Nat) (hl : l < 32) (hk : k < 32) :
    (g.apply dk d latch l e).reg k q = if k = l ∧ Opnd.names d dk.n q = true then dk.part d e.val q else g.reg k q := by
  have key : ∀ (g1 : Group) (y : Lane), y.gen = (g1.lane l).gen → (g1.setLane l y).reg k q = g1.reg k q := fun g1 y h => g1.reg_setLane_gen l y k q h
  have hgen : ∀ (x : Lane) (v : DWord), ({ (if latch then x.shift v else x).setPreds e.preds with
      fflag := ((if latch then x.shift v else x).setPreds e.preds).fflag ||| e.fl } : Lane).gen = x.gen := by
    intro x v
    show (Lane.setPreds _ _).gen = _
    rw [(Lane.setPreds_same _ e.preds).2.1]
    split <;> rfl
  unfold Group.apply
  cases dk with
  | none =>
    refine (key g _ (hgen _ _)).trans ?_
    have : Opnd.names d 0 q = false := by cases d <;> simp [Opnd.names]
    simp [Dst.n, this]
  | w32 =>
    refine (key (g.wr32 l d (BitVec.ofNat 32 e.val)) _ (hgen _ _)).trans ?_
    rw [Group.reg_wr32 _ _ _ _ _ _ hl hk]; rfl
  | w64 =>
    refine (key (g.wr64 l d (BitVec.ofNat 64 e.val)) _ (hgen _ _)).trans ?_
    rw [Group.reg_wr64 _ _ _ _ _ _ hl hk]
    show _ = if k = l ∧ Opnd.names d 2 q = true then _ else _
    by_cases h : k = l ∧ Opnd.names d 2 q = true
    · rw [if_pos h, if_pos h]
      cases d <;> simp [Opnd.names] at h
      next n => simp only [Dst.part, BitVec.ofNat_low, BitVec.ofNat_high]
    · rw [if_neg h, if_neg h]

/-! Slots. -/

theorem Group.slot_setLane (g : Group) (l : Nat) (x : Lane) (n : Nat) : (g.setLane l x).slot n = g.slot n := by unfold Group.slot; rw [Group.setLane_oc]
/-- A slot that mirrors the register takes the lane's value. -/
theorem Group.slot_wrReg (g : Group) (l r : Nat) (x : Word) (n : Nat) :
    (g.wrReg l r x).slot n = if ((g.slot n).valid && (g.slot n).reg == r) = true then { g.slot n with vals := Tab.set 0 (g.slot n).vals l x } else g.slot n := by
  have h := Tab.get_map OcSlot.empty OcSlot.empty (fun _ (y : OcSlot) => if (y.valid && y.reg == r) = true then { y with vals := Tab.set 0 y.vals l x } else y) g.oc n rfl
  unfold Group.slot
  rw [← h]
  unfold Group.wrReg updateSlots
  simp only
  congr 1
  apply List.map_congr_left
  intro p _
  by_cases e : (p.2.valid && p.2.reg == r) = true <;> simp only [e, if_true, if_false, Bool.false_eq_true]

/-- The value of a slot in a lane after a result of that lane. -/
theorem Group.slot_apply (g : Group) (dk : Dst) (d : Opnd) (latch : Bool) (l : Nat) (e : Eff) (n : Nat) :
    ((g.apply dk d latch l e).slot n).valid = (g.slot n).valid ∧ ((g.apply dk d latch l e).slot n).reg = (g.slot n).reg ∧
    ∀ k, Tab.get 0 ((g.apply dk d latch l e).slot n).vals k =
      if ((g.slot n).valid && decide (k = l) && Opnd.names d dk.n (g.slot n).reg) = true then dk.part d e.val (g.slot n).reg else Tab.get 0 (g.slot n).vals k := by
  unfold Group.apply
  cases dk with
  | none =>
    refine ⟨by rw [Group.slot_setLane], by rw [Group.slot_setLane], fun k => ?_⟩
    rw [Group.slot_setLane, if_neg]
    cases d <;> simp [Opnd.names, Dst.n]
    all_goals (intro _ _ h; exact decide_eq_false (by omega))
  | w32 =>
    simp only [Group.slot_setLane]
    unfold Group.wr32
    cases d
    case v r =>
      simp only [Group.slot_wrReg]
      by_cases h : ((g.slot n).valid && (g.slot n).reg == r.val) = true
      · rw [if_pos h]
        simp only [Bool.and_eq_true, beq_iff_eq] at h
        refine ⟨rfl, rfl, fun k => ?_⟩
        simp only [Tab.get_set, Dst.part, Opnd.names, Dst.n, h]
        by_cases hk : k = l <;> simp [hk]
      · rw [if_neg h]
        refine ⟨rfl, rfl, fun k => ?_⟩
        rw [if_neg]
        simp only [Bool.and_eq_true, beq_iff_eq] at h
        simp only [Opnd.names, Dst.n, Bool.and_eq_true, decide_eq_true_eq]
        rintro ⟨⟨hv, _⟩, h1, h2⟩
        exact h ⟨hv, Nat.le_antisymm (Nat.lt_succ_iff.mp (of_decide_eq_true h2)) h1⟩
    all_goals
      refine ⟨?_, ?_, fun k => ?_⟩ <;> simp only [Group.slot_setLane, Opnd.names, Bool.and_false, Bool.false_eq_true, if_false]
  | w64 =>
    simp only [Group.slot_setLane]
    unfold Group.wr64
    cases d
    case v r =>
      simp only [Group.slot_wrReg]
      generalize hs : g.slot n = y
      obtain ⟨va, re, vs⟩ := y
      cases va
      · simp
      · by_cases h1 : re = r.val
        · have h2 : re ≠ r.val + 1 := by omega
          subst h1
          refine ⟨by simp, by simp, fun k => ?_⟩
          by_cases hk : k = l <;> simp [Tab.get_set, Opnd.names, Dst.n, Dst.part, hk]
        · by_cases h2 : re = r.val + 1
          · subst h2
            refine ⟨by simp, by simp, fun k => ?_⟩
            by_cases hk : k = l <;> simp [Tab.get_set, Opnd.names, Dst.n, Dst.part, hk, BitVec.ofNat_high]
          · have h3 : ¬ (r.val ≤ re ∧ re < r.val + 2) := by omega
            refine ⟨by simp [h1, h2], by simp [h1, h2], fun k => ?_⟩
            have h4 : Opnd.names (.v r) Dst.w64.n re = false := by
              have : (decide (r.val ≤ re) && decide (re < r.val + 2)) = false := by rw [Bool.and_eq_false_iff, decide_eq_false_iff_not, decide_eq_false_iff_not]; omega
              exact this
            simp [h1, h2, h4]
    all_goals
      refine ⟨?_, ?_, fun k => ?_⟩ <;> simp only [Opnd.names, Bool.and_false, Bool.false_eq_true, if_false]

/-- The results of a set of lanes. -/
structure AppliedAll (g h : Group) (L : List Nat) (dk : Dst) (d : Opnd) (f : Nat → Eff) (latch : Bool) : Prop where
  keeps : g.Keeps h
  inside : ∀ k, k ∈ L → Applied (g.lane k) (h.lane k) dk d (f k) latch
  outside : ∀ k, k ∉ L → h.lane k = g.lane k
  regs : ∀ k q, k < 32 → h.reg k q = if k ∈ L ∧ Opnd.names d dk.n q = true then dk.part d (f k).val q else g.reg k q
  slots : ∀ n, (h.slot n).valid = (g.slot n).valid ∧ (h.slot n).reg = (g.slot n).reg ∧ ∀ k, Tab.get 0 (h.slot n).vals k =
    if (g.slot n).valid = true ∧ k ∈ L ∧ Opnd.names d dk.n (g.slot n).reg = true then dk.part d (f k).val (g.slot n).reg else Tab.get 0 (g.slot n).vals k

theorem Group.apply_all (dk : Dst) (d : Opnd) (latch : Bool) (f : Nat → Eff) (L : List Nat) (hL : L.Nodup) (h32 : ∀ k ∈ L, k < 32) (g : Group) :
    AppliedAll g (L.foldl (fun g l => g.apply dk d latch l (f l)) g) L dk d f latch := by
  induction L generalizing g with
  | nil => exact ⟨rfl, by simp, by simp, by simp, by simp⟩
  | cons a r ih =>
    rw [List.nodup_cons] at hL
    have i := ih hL.2 (fun k hk => h32 k (by simp [hk])) (g.apply dk d latch a (f a))
    have ha := h32 a (by simp)
    simp only [List.foldl]
    refine ⟨(g.keeps_apply _ _ _ _ _).trans i.keeps, ?_, ?_, ?_, ?_⟩
    · intro k hk
      by_cases e : k = a
      · subst e
        rw [i.outside k hL.1]
        exact g.apply_lane _ _ _ _ _
      · have := i.inside k (by simpa [e] using hk)
        rwa [Group.apply_lane_ne _ _ _ _ _ _ _ e] at this
    · intro k hk
      simp only [List.mem_cons, not_or] at hk
      rw [i.outside k hk.2, Group.apply_lane_ne _ _ _ _ _ _ _ hk.1]
    · intro k q h
      rw [i.regs k q h, Group.apply_reg _ _ _ _ _ _ _ _ ha h]
      by_cases e : k = a
      · subst e; simp [hL.1]
      · simp [e]
    · intro n
      have s1 := i.slots n
      have s2 := g.slot_apply dk d latch a (f a) n
      refine ⟨s1.1.trans s2.1, s1.2.1.trans s2.2.1, fun k => ?_⟩
      rw [s1.2.2 k, s2.1, s2.2.1, s2.2.2 k]
      by_cases e : k = a
      · subst e
        cases hv : (g.slot n).valid <;> cases hn : Opnd.names d dk.n (g.slot n).reg <;> simp [hL.1]
      · cases hv : (g.slot n).valid <;> cases hn : Opnd.names d dk.n (g.slot n).reg <;> simp [e]

/-! The end of an issue. -/

theorem Lane.advance_same (x : Lane) (pc nxt : DWord) : x.Same (x.advance pc nxt) ∧ (x.advance pc nxt).p = x.p ∧ (x.advance pc nxt).fflag = x.fflag := by
  unfold Lane.advance
  generalize x.loops = L
  induction L generalizing x with
  | nil => exact ⟨⟨rfl, rfl, rfl, rfl, rfl⟩, rfl, rfl⟩
  | cons e r ih =>
    unfold loopEnd
    split
    · dsimp only
      generalize (if Tab.get 0 x.lc e.ctr = 0 then (0 : Word) else Tab.get 0 x.lc e.ctr - 1) = v
      split
      · have := ih (x := { x with lc := Tab.set 0 x.lc e.ctr v })
        exact ⟨⟨this.1.1, this.1.2.1, this.1.2.2.1, this.1.2.2.2.1, this.1.2.2.2.2⟩, this.2.1, this.2.2⟩
      · exact ⟨⟨rfl, rfl, rfl, rfl, rfl⟩, rfl, rfl⟩
    · exact ⟨⟨rfl, rfl, rfl, rfl, rfl⟩, rfl, rfl⟩

theorem Lane.advance_latch (x : Lane) (pc nxt : DWord) : (x.advance pc nxt).la = x.la ∧ (x.advance pc nxt).laOk = x.laOk := by
  unfold Lane.advance
  generalize x.loops = L
  induction L generalizing x with
  | nil => exact ⟨rfl, rfl⟩
  | cons e r ih =>
    unfold loopEnd
    split
    · dsimp only
      generalize (if Tab.get 0 x.lc e.ctr = 0 then (0 : Word) else Tab.get 0 x.lc e.ctr - 1) = v
      split
      · exact ih (x := { x with lc := Tab.set 0 x.lc e.ctr v })
      · exact ⟨rfl, rfl⟩
    · exact ⟨rfl, rfl⟩

/-- Outside every loop, a lane goes to the next instruction. -/
theorem Lane.advance_nil (x : Lane) (pc nxt : DWord) (h : x.loops = []) : x.advance pc nxt = { x with loops := [], pc := nxt } := by
  unfold Lane.advance; rw [h]; rfl

theorem Group.lane_advance (g : Group) (m : Mask) (pc nxt : DWord) (l : Nat) :
    (g.advance m pc nxt).lane l = if m.has l = true then (g.lane l).advance pc nxt else g.lane l := by
  unfold Group.advance
  rw [Group.foldl_setLane (fun _ x => x.advance pc nxt) m.lanes m.lanes_nodup g l]
  simp only [Mask.mem_lanes]

theorem Group.keeps_advance (g : Group) (m : Mask) (pc nxt : DWord) : g.Keeps (g.advance m pc nxt) :=
  Group.keeps_foldl _ (fun g _ => g.keeps_setLane _ _) _ g

theorem Group.advance_v (g : Group) (m : Mask) (pc nxt : DWord) : (g.advance m pc nxt).v = g.v :=
  foldl_const _ Group.v (fun g _ => g.setLane_v _ _) _ g
theorem Group.advance_tag (g : Group) (m : Mask) (pc nxt : DWord) : (g.advance m pc nxt).tag = g.tag :=
  foldl_const _ Group.tag (fun g _ => g.setLane_tag _ _) _ g
theorem Group.advance_issueNo (g : Group) (m : Mask) (pc nxt : DWord) : (g.advance m pc nxt).issueNo = g.issueNo :=
  foldl_const _ Group.issueNo (fun g _ => g.setLane_issueNo _ _) _ g

theorem Group.reg_advance (g : Group) (m : Mask) (pc nxt : DWord) (k q : Nat) : (g.advance m pc nxt).reg k q = g.reg k q := by
  have e : ((g.advance m pc nxt).lane k).gen = (g.lane k).gen := by
    rw [Group.lane_advance]; split
    · exact (Lane.advance_same _ pc nxt).1.2.1
    · rfl
  simp only [Group.reg, e, Group.advance_v, Group.advance_tag]

theorem Group.slot_advance (g : Group) (m : Mask) (pc nxt : DWord) (n : Nat) : (g.advance m pc nxt).slot n = g.slot n := by
  have e : (g.advance m pc nxt).oc = g.oc := foldl_const _ Group.oc (fun g _ => g.setLane_oc _ _) _ g
  unfold Group.slot; rw [e]
theorem Group.slot_issued (g : Group) (c n : Nat) : (g.issued c).slot n = g.slot n := by unfold Group.issued Group.slot; rfl
theorem Group.slot_killSrcs (g : Group) (srcs : List Src) (n : Nat) : (g.killSrcs srcs).slot n = g.slot n := by
  have e : (g.killSrcs srcs).oc = g.oc := by
    unfold Group.killSrcs
    apply foldl_const _ Group.oc
    intro g a; obtain ⟨o, n, pol, dead⟩ := a
    cases o <;> try rfl
    cases dead
    · rfl
    · exact foldl_const _ Group.oc (fun g _ => g.kill_oc _) _ g
  unfold Group.slot; rw [e]
theorem Group.lane_issued (g : Group) (n l : Nat) : (g.issued n).lane l = g.lane l := by unfold Group.issued Group.lane; rfl
theorem Group.reg_issued (g : Group) (n k q : Nat) : (g.issued n).reg k q = g.reg k q := by
  simp only [Group.reg, Group.lane_issued]; unfold Group.issued; rfl

/-- A committed issue touches its group alone. -/
theorem State.commit_only (s : State) (c : Ctx) (g : Group) : s.OnlyGroup (s.commit c g) c.gid := by
  unfold State.OnlyGroup State.commit; simp
theorem State.commit_group (s : State) (c : Ctx) (g : Group) : (s.commit c g).group c.gid = (g.advance c.at_ c.pc c.next).issued s.clock := by
  unfold State.commit; simp
theorem State.commit_keeps (s : State) (c : Ctx) (g : Group) : g.Keeps ((s.commit c g).group c.gid) := by
  rw [State.commit_group]; exact (g.keeps_advance _ _ _).trans (Group.keeps_issued _ _)

/-- What a form that computes lane by lane leaves behind. -/
theorem Ctx.computedOn (s : State) (c : Ctx) (p : Mask) (hp : c.en = 0 → p = 0) (srcs : List Src) (dk : Dst) (d : Opnd) (latch : Bool) (f : Nat → Eff) :
    Computed s (s.commit c (c.afterOn p srcs dk d latch f)) c p srcs dk d f latch := by
  have hn : (c.afterOn p srcs dk d latch f).issueNo = c.g.issueNo := by
    unfold Ctx.afterOn; split
    · rfl
    · rw [foldl_const _ Group.issueNo (fun g l => ?_)]
      · unfold Group.killSrcs
        apply foldl_const _ Group.issueNo
        intro g a; obtain ⟨o, n, pol, dead⟩ := a
        cases o <;> try rfl
        cases dead
        · rfl
        · exact foldl_const _ Group.issueNo (fun g _ => g.kill_issueNo _) _ g
      · unfold Group.apply; cases dk <;> simp only [Group.setLane_issueNo]
        · unfold Group.wr32; cases d <;> simp
        · unfold Group.wr64; cases d <;> simp
  by_cases hen : c.en = 0
  · have hf : ∀ l, p.has l = false := fun l => by rw [hp hen]; simp [Mask.has]
    have ha : c.afterOn p srcs dk d latch f = c.g := by unfold Ctx.afterOn; rw [if_pos hen]
    rw [ha]
    refine ⟨s.commit_only c _, s.commit_keeps c _, ?_, ?_, ?_, ?_, ?_, ?_, ?_, ?_, ?_, ?_⟩ <;> simp only [State.commit_group]
    · intro l h; rw [hf] at h; cases h
    · intro l r _ _; rw [if_neg (by simp [hen]), Group.reg_issued, Group.reg_advance]
    · intro l n; rw [if_neg (by simp [hf]), Group.lane_issued, Group.lane_advance]; split
      · simp only [Lane.pred, (Lane.advance_same _ _ _).2.1]
      · rfl
    · intro l; rw [if_neg (by simp [hf]), Group.lane_issued, Group.lane_advance]; split
      · exact (Lane.advance_same _ _ _).2.2
      · rfl
    · intro l; rw [Group.lane_issued, Group.lane_advance]; split
      · exact (Lane.advance_same _ _ _).1
      · exact .refl _
    · intro l h; rw [Group.lane_issued, Group.lane_advance]; split
      · rw [Lane.advance_nil _ _ _ h]
      · rfl
    · intro l
      rw [hf l, Group.lane_issued, Group.lane_advance]
      split
      · exact ⟨(Lane.advance_latch _ _ _).1, (Lane.advance_latch _ _ _).2⟩
      · exact ⟨rfl, rfl⟩
    · intro n; simp only [Group.slot_issued, Group.slot_advance, hf, Bool.and_false, Bool.false_and, Bool.false_eq_true, if_false, implies_true, and_self]
    · intro l h
      rw [Group.lane_issued, Group.lane_advance]
      split
      · rw [Lane.advance_nil _ _ _ h]; exact ⟨rfl, fun _ _ => rfl⟩
      · exact ⟨h, fun _ _ => rfl⟩
    · show (Group.advance _ _ _ _).issueNo + 1 = _; rw [Group.advance_issueNo]
  · have ha : c.afterOn p srcs dk d latch f = p.lanes.foldl (fun g l => g.apply dk d latch l (f l)) (c.g.killSrcs srcs) := by
      unfold Ctx.afterOn; rw [if_neg hen]
    have A := Group.apply_all dk d latch f p.lanes p.lanes_nodup (fun k hk => p.has_lt k ((p.mem_lanes k).mp hk)) (c.g.killSrcs srcs)
    rw [← ha] at A
    generalize c.afterOn p srcs dk d latch f = h at A hn
    have hk : c.g.Keeps h := (c.g.keeps_killSrcs srcs).trans A.keeps
    have inn : ∀ l, p.has l = true → Applied (c.g.lane l) (h.lane l) dk d (f l) latch := by
      intro l hl
      have := A.inside l ((p.mem_lanes l).mpr hl)
      rwa [Group.lane_killSrcs] at this
    have out : ∀ l, p.has l ≠ true → h.lane l = c.g.lane l := by
      intro l hl
      rw [A.outside l (fun e => hl ((p.mem_lanes l).mp e)), Group.lane_killSrcs]
    have loops : ∀ l, (h.lane l).loops = (c.g.lane l).loops := by
      intro l; by_cases e : p.has l = true
      · exact (inn l e).loops
      · rw [out l e]
    refine ⟨s.commit_only c h, hk.trans (s.commit_keeps c h), ?_, ?_, ?_, ?_, ?_, ?_, ?_, ?_, ?_, ?_⟩ <;> simp only [State.commit_group]
    · intro l hl
      have hr : ∀ q, ((h.advance c.at_ c.pc c.next).issued s.clock).reg l q =
          if Opnd.names d dk.n q = true then dk.part d (f l).val q else (c.g.killSrcs srcs).reg l q := by
        intro q
        rw [Group.reg_issued, Group.reg_advance, A.regs l q (p.has_lt l hl)]
        simp [(p.mem_lanes l).mpr hl]
      unfold Group.Holds
      split
      · next k => rw [hr, if_pos (by simp [Opnd.names, Dst.n])]; rfl
      · next k =>
        rw [hr, hr, if_pos (by simp [Opnd.names, Dst.n]), if_pos (by simp [Opnd.names, Dst.n])]
        simp [Dst.part]
      · next k =>
        intro hlo
        rw [Group.lane_issued, Group.lane_advance]
        have hc := (inn l hl).counter k rfl rfl
        split
        · rw [Lane.advance_nil _ _ _ ((loops l).trans hlo)]; exact hc
        · exact hc
      · trivial
    · intro l r hl hno
      rw [Group.reg_issued, Group.reg_advance, A.regs l r hl]
      rw [if_neg (by rw [Mask.mem_lanes]; intro e; rw [e.1, e.2] at hno; cases hno), Group.reg_killSrcs _ _ _ _ hl]
      simp only [ne_eq, hen, not_false_eq_true, true_and]
    · intro l n
      rw [Group.lane_issued, Group.lane_advance]
      have e : ∀ y : Lane, (y.advance c.pc c.next).pred n = y.pred n := fun y => by simp only [Lane.pred, (Lane.advance_same y _ _).2.1]
      have e2 : (if c.at_.has l = true then (h.lane l).advance c.pc c.next else h.lane l).pred n = (h.lane l).pred n := by
        split
        · exact e _
        · rfl
      rw [e2]
      by_cases hl : p.has l = true
      · rw [if_pos hl, (inn l hl).preds n]; rfl
      · rw [if_neg hl, out l hl]
    · intro l
      rw [Group.lane_issued, Group.lane_advance]
      have e2 : (if c.at_.has l = true then (h.lane l).advance c.pc c.next else h.lane l).fflag = (h.lane l).fflag := by
        split
        · exact (Lane.advance_same _ _ _).2.2
        · rfl
      rw [e2]
      by_cases hl : p.has l = true
      · rw [if_pos hl, (inn l hl).flags]
      · rw [if_neg hl, out l hl]
    · intro l
      rw [Group.lane_issued, Group.lane_advance]
      have e1 : (c.g.lane l).Same (h.lane l) := by
        by_cases hl : p.has l = true
        · exact (inn l hl).same
        · rw [out l hl]; exact .refl _
      split
      · exact e1.trans (Lane.advance_same _ _ _).1
      · exact e1
    · intro l hlo
      rw [Group.lane_issued, Group.lane_advance]
      split
      · rw [Lane.advance_nil _ _ _ ((loops l).trans hlo)]
      · by_cases hl : p.has l = true
        · rw [(inn l hl).pc]
        · rw [out l hl]
    · intro l
      rw [Group.lane_issued, Group.lane_advance]
      have e1 : (c.g.lane l).Latched (h.lane l) (if (p.has l && latch) = true then some (dk.whole (f l).val) else none) := by
        by_cases hl : p.has l = true
        · rw [hl, Bool.true_and]; exact (inn l hl).latches
        · rw [out l hl, if_neg (by simp [hl])]; exact ⟨rfl, rfl⟩
      split
      · exact e1.congr ⟨rfl, rfl⟩ (Lane.advance_latch _ _ _)
      · exact e1
    · intro n
      have hs := A.slots n
      simp only [Group.slot_issued, Group.slot_advance, Group.slot_killSrcs, Group.reg_issued, Group.reg_advance] at hs ⊢
      refine ⟨hs.1, hs.2.1, fun l => ?_⟩
      rw [hs.2.2 l]
      by_cases hl : p.has l = true
      · rw [A.regs l _ (p.has_lt l hl)]
        cases hv : (c.g.slot n).valid <;> cases hm : Opnd.names d dk.n (c.g.slot n).reg <;> simp [(p.mem_lanes l).mpr hl, hl]
      · have : ¬ l ∈ p.lanes := fun e => hl ((p.mem_lanes l).mp e)
        simp [this, hl]
    · intro l hlo
      rw [Group.lane_issued, Group.lane_advance]
      have hc : ∀ n, (p.has l = true → dk = .w32 → ∀ k, d = .lc k → k.val ≠ n) → Tab.get 0 (h.lane l).lc n = Tab.get 0 (c.g.lane l).lc n := by
        intro n hn
        by_cases hl : p.has l = true
        · exact (inn l hl).counters n (hn hl)
        · rw [out l hl]
      split
      · rw [Lane.advance_nil _ _ _ ((loops l).trans hlo)]; exact ⟨rfl, hc⟩
      · exact ⟨(loops l).trans hlo, hc⟩
    · show (Group.advance _ _ _ _).issueNo + 1 = _; rw [Group.advance_issueNo, hn]

theorem Ctx.computed (s : State) (c : Ctx) (srcs : List Src) (dk : Dst) (d : Opnd) (latch : Bool) (f : Nat → Eff) :
    Computed s (s.commit c (c.after srcs dk d latch f)) c c.en srcs dk d f latch := Ctx.computedOn s c c.en id srcs dk d latch f

/-- The specification of `State.runLanes`: once its checks pass, it completes. -/
theorem State.runLanes_computed (s : State) (c : Ctx) (srcs : List Src) (dk : Dst) (d : Opnd) (latch : Bool) (f : Nat → Eff) (h : c.chk srcs d dk.n = .ok) :
    ∃ t, s.runLanes c srcs dk d latch f = .next t ∧ Computed s t c c.en srcs dk d f latch := by
  refine ⟨s.commit c (c.after srcs dk d latch f), ?_, Ctx.computed s c srcs dk d latch f⟩
  unfold State.runLanes State.gate
  rw [h]

end Sys2Proof.Machine
end

