-- ==== Sys2Proof/Laws/Control.lean ====
section
/-!
SUPPORT. What the shared operations of cross-lane forms, branches, calls, traps and waits do, each said once.
-/

namespace Sys2Proof.Machine

/-- The specification of `State.alu`: an instruction whose meaning it is completes. -/
theorem State.alu_completes {s : State} {i : Instr} {x : Ext} {srcs : List Src} {dk : Dst} {f f' : Ctx → Nat → Eff} (h : exec i s = s.alu i x srcs dk f)
    (hd : (dk != .none) = true) (e : ∀ c l, f c l = f' c l) : Completes s i x srcs dk x.d f' := by
  have e : f = f' := funext fun c => funext fun l => e c l
  subst e
  intro hp
  rw [h, hd]
  exact s.runLanes_computed (s.ctx i x) srcs dk x.d true _ hp
theorem State.aluPred_completes {s : State} {i : Instr} {x : Ext} {srcs : List Src} {f : Ctx → Nat → Bool × Fl} {g : Ctx → Nat → Eff}
    (h : exec i s = s.aluPred i x srcs f) (e : ∀ c l, Eff.p x.d.code (f c l).1 (f c l).2 = g c l) : Completes s i x srcs .none .none g := by
  have e : (fun c l => Eff.p x.d.code (f c l).1 (f c l).2) = g := funext fun c => funext fun l => e c l
  subst e
  intro hp
  rw [h]
  exact s.runLanes_computed (s.ctx i x) srcs .none .none false _ hp
theorem State.flt_completes {s : State} {i : Instr} {x : Ext} {srcs : List Src} {dk : Dst} {f : Ctx → Nat → Nat × Fl} {g : Ctx → Nat → Eff}
    (h : exec i s = s.flt i x srcs dk f) (hd : (dk != .none) = true) (e : ∀ c l, Eff.f (f c l) = g c l) : Completes s i x (srcs ++ (s.ctx i x).rsrSrc) dk x.d g := by
  have e : (fun c l => Eff.f (f c l)) = g := funext fun c => funext fun l => e c l
  subst e
  intro hp
  rw [h, hd]
  exact s.runLanes_computed (s.ctx i x) _ dk x.d true _ hp

/-- The specification of `State.cross`. -/
theorem State.cross_computed (s : State) (i : Instr) (x : Ext) (srcs : Ctx → List Src) (wide : Bool) (own : Ctx → Mask → Option (Nat × Mask × DWord))
    (f : Ctx → Mask → Nat → Eff) (h1 : (s.ctx i x).chk (if x.c = .none then [] else [x.srcC 1]) .none 0 = .ok)
    (h2 : ({ s.ctx i x with en := (s.ctx i x).parts x.c } : Ctx).chk (srcs (s.ctx i x)) x.d (if wide then Dst.w64 else Dst.w32).n = .ok)
    (h3 : (s.ctx i x).maskChk x.c = none) (h4 : own (s.ctx i x) ((s.ctx i x).parts x.c) = none) :
    ∃ t, s.cross i x srcs wide own f = .next t ∧ Computed s t (s.ctx i x) ((s.ctx i x).parts x.c) (srcs (s.ctx i x) ++ (if x.c = .none then [] else [x.srcC 1]))
      (if wide then .w64 else .w32) x.d (f (s.ctx i x) ((s.ctx i x).parts x.c)) true := by
  refine ⟨_, ?_, Ctx.computedOn s (s.ctx i x) ((s.ctx i x).parts x.c) ?_ _ _ x.d true _⟩
  · unfold State.cross
    simp only [h1, h2, h3, h4, Chk.and, State.gate]
  · intro h
    unfold Ctx.parts
    split
    · exact h
    · apply Mask.eq_zero
      intro l
      rw [maskOf_has, h]
      simp [Mask.has]

/-- A group in which only registers differ. -/
structure Quiet (g h : Group) : Prop where
  keeps : g.Keeps h
  lane : ∀ l, (g.lane l).Same (h.lane l) ∧ (h.lane l).loops = (g.lane l).loops ∧ (h.lane l).pc = (g.lane l).pc ∧
    (∀ n, (h.lane l).pred n = (g.lane l).pred n) ∧ (h.lane l).fflag = (g.lane l).fflag
  latches : ∀ l, (g.lane l).Latched (h.lane l) none
  counters : ∀ l, (h.lane l).lc = (g.lane l).lc
  count : h.issueNo = g.issueNo

theorem Quiet.refl (g : Group) : Quiet g g := ⟨rfl, fun _ => ⟨.refl _, rfl, rfl, fun _ => rfl, rfl⟩, fun _ => ⟨rfl, rfl⟩, fun _ => rfl, rfl⟩

theorem Group.lane_jump (g : Group) (m : Mask) (tgt : Nat → DWord) (l : Nat) :
    (g.jump m tgt).lane l = if m.has l = true then { g.lane l with pc := tgt l } else g.lane l := by
  unfold Group.jump
  rw [Group.foldl_setLane (fun l x => { x with pc := tgt l }) m.lanes m.lanes_nodup g l]
  simp only [Mask.mem_lanes]

theorem Group.keeps_jump (g : Group) (m : Mask) (tgt : Nat → DWord) : g.Keeps (g.jump m tgt) := Group.keeps_foldl _ (fun g _ => g.keeps_setLane _ _) _ g
theorem Group.reg_jump (g : Group) (m : Mask) (tgt : Nat → DWord) (k q : Nat) : (g.jump m tgt).reg k q = g.reg k q := by
  have e : ((g.jump m tgt).lane k).gen = (g.lane k).gen := by rw [Group.lane_jump]; split <;> rfl
  have ev : (g.jump m tgt).v = g.v := foldl_const _ Group.v (fun g _ => g.setLane_v _ _) _ g
  have et : (g.jump m tgt).tag = g.tag := foldl_const _ Group.tag (fun g _ => g.setLane_tag _ _) _ g
  simp only [Group.reg, e, ev, et]

theorem Mask.has_diff (a b : Mask) (l : Nat) : (a &&& ~~~b).has l = (a.has l && !b.has l) := by
  unfold Mask.has
  by_cases h : l < 32
  · simp [h]
  · simp [BitVec.getLsbD_of_ge _ _ (Nat.le_of_not_lt h)]

/-- The end of an issue that sends the lanes of `moved` to their targets. -/
theorem State.commitExcept_transferred (s : State) (c : Ctx) (moved : Mask) (tgt : Nat → DWord) (srcs : List Src) (dk : Dst) (d : Opnd) (link : Nat) (g : Group)
    (hd : dk = .w32 → ∀ k, d ≠ .lc k) (q : Quiet c.g g)
    (hv : ∀ l r, l < 32 → moved.has l = true → Opnd.names d dk.n r = true → g.reg l r = dk.part d link r)
    (ho : ∀ l r, l < 32 → (moved.has l && Opnd.names d dk.n r) = false → g.reg l r = if c.en ≠ 0 ∧ killedBy srcs r = true then 0 else c.g.reg l r)
    (hs : c.g.Mirrors g moved dk d) :
    Transferred s (s.commitExcept c moved (g.jump moved tgt)) c moved tgt srcs dk d link := by
  have eg : (s.commitExcept c moved (g.jump moved tgt)).group c.gid =
      ((g.jump moved tgt).advance (c.at_ &&& ~~~moved) c.pc c.next).issued s.clock := by unfold State.commitExcept; simp
  have el : ∀ l, ((s.commitExcept c moved (g.jump moved tgt)).group c.gid).lane l =
      if moved.has l = true then { g.lane l with pc := tgt l } else if c.at_.has l = true then (g.lane l).advance c.pc c.next else g.lane l := by
    intro l
    rw [eg, Group.lane_issued, Group.lane_advance, Group.lane_jump, Mask.has_diff]
    by_cases h : moved.has l = true <;> by_cases h2 : c.at_.has l = true <;> simp [h, h2]
  have er : ∀ l r, ((s.commitExcept c moved (g.jump moved tgt)).group c.gid).reg l r = g.reg l r := by
    intro l r; rw [eg, Group.reg_issued, Group.reg_advance, Group.reg_jump]
  refine ⟨?_, ?_, ?_, ?_, ?_, ?_, ?_, ?_, ?_, ?_, ?_, ?_, ?_⟩
  · unfold State.OnlyGroup State.commitExcept; simp
  · rw [eg]; exact q.keeps.trans ((g.keeps_jump _ _).trans ((Group.keeps_advance _ _ _ _).trans (Group.keeps_issued _ _)))
  · intro l h; rw [el, if_pos h]; exact ⟨rfl, (q.lane l).2.1⟩
  · intro l h hl
    rw [el, if_neg (by simp [h])]
    split
    · rw [Lane.advance_nil _ _ _ ((q.lane l).2.1.trans hl)]
    · exact (q.lane l).2.2.1
  · intro l h
    have h32 := moved.has_lt l h
    unfold Group.Holds
    split
    · rw [er, hv l _ h32 h (by simp [Opnd.names, Dst.n])]; rfl
    · rw [er, er, hv l _ h32 h (by simp [Opnd.names, Dst.n]), hv l _ h32 h (by simp [Opnd.names, Dst.n])]
      simp [Dst.part]
    · exact absurd rfl (hd rfl _)
    · trivial
  · intro l r hl h; rw [er, ho l r hl h]
  · intro l n
    rw [el]
    have := (q.lane l).2.2.2.1 n
    split
    · exact this
    · split
      · simpa only [Lane.pred, (Lane.advance_same _ _ _).2.1] using this
      · exact this
  · intro l
    rw [el]
    have := (q.lane l).2.2.2.2
    split
    · exact this
    · split
      · rw [(Lane.advance_same _ _ _).2.2]; exact this
      · exact this
  · intro l
    rw [el]
    have := (q.lane l).1
    split
    · exact this
    · split
      · exact this.trans (Lane.advance_same _ _ _).1
      · exact this
  · intro l
    rw [el]
    have := q.latches l
    split
    · exact this
    · split
      · exact this.congr ⟨rfl, rfl⟩ (Lane.advance_latch _ _ _)
      · exact this
  · intro n
    have ej : ∀ n, (g.jump moved tgt).slot n = g.slot n := fun n => by
      have e : (g.jump moved tgt).oc = g.oc := foldl_const _ Group.oc (fun g _ => g.setLane_oc _ _) _ g
      unfold Group.slot; rw [e]
    have ho := hs n
    rw [eg] at *
    simp only [Group.slot_issued, Group.slot_advance, ej, er]
    exact ho
  · intro l h
    rw [el]
    by_cases hm : moved.has l = true
    · rw [if_pos hm]; exact ⟨q.counters l, (q.lane l).2.1⟩
    · have hl := h.resolve_left hm
      rw [if_neg hm]
      split
      · rw [Lane.advance_nil _ _ _ ((q.lane l).2.1.trans hl)]; exact ⟨q.counters l, hl.symm⟩
      · exact ⟨q.counters l, (q.lane l).2.1⟩
  · rw [eg]
    show (Group.advance _ _ _ _).issueNo + 1 = _
    rw [Group.advance_issueNo]
    have : (g.jump moved tgt).issueNo = g.issueNo := foldl_const _ Group.issueNo (fun g _ => g.setLane_issueNo _ _) _ g
    rw [this, q.count]

end Sys2Proof.Machine
end

