-- ==== Sys2Proof/Laws/PerInstr.lean ====
section
/-!
SUPPORT. Every instruction stands at one place of the opcode map, and the map gives it back: one lemma for each constructor.
-/

namespace Sys2Proof.Laws.Encodes

open Sys2Proof

/-- The place p of the opcode map reads back as i: an extended or literal form by MAJ and MIN, a branch by its offset, a base word by its three fields. -/
def Placed (p : Parts) (i : Instr) : Prop :=
  p.maj < 64 ∧ p.min < 256 ∧ (p.base = false → Instr.ofExt p.maj p.min p.x = some i) ∧
  (p.base = true → hasBase p.maj = true ∧ p.min = 0 ∧
    ((∃ off, p.x = branchBase p.maj p.x.d off ∧ Instr.ofBranch p.maj p.x.d off = some i) ∨
      (p.x = Ext.ofBase p.maj p.x.d p.x.a p.x.b ∧ Instr.ofBase p.maj p.x.d p.x.a p.x.b = some i)))

/-- An instruction with an encoding reads back from its place; a step without one says nothing. -/
def Statement (i : Instr) : Prop := match i.parts with | some p => Placed p i | none => True

theorem placed_ext {maj min : Nat} {x : Ext} {i : Instr} (h1 : maj < 64) (h2 : min < 256) (h : Instr.ofExt maj min x = some i) :
    Placed ⟨maj, min, false, x⟩ i := ⟨h1, h2, fun _ => h, nofun⟩
theorem placed_branch {maj : Nat} {d : Opnd} {off : BitVec 16} {i : Instr} (h1 : maj < 64) (h2 : hasBase maj = true)
    (h : Instr.ofBranch maj d off = some i) : Placed ⟨maj, 0, true, branchBase maj d off⟩ i :=
  ⟨h1, (by decide : 0 < 256), nofun, fun _ => ⟨h2, Eq.refl _, .inl ⟨off, Eq.refl _, h⟩⟩⟩
theorem placed_base {maj : Nat} {d a b : Opnd} {i : Instr} (h1 : maj < 64) (h2 : hasBase maj = true)
    (h : Instr.ofBase maj d a b = some i) : Placed ⟨maj, 0, true, Ext.ofBase maj d a b⟩ i :=
  ⟨h1, (by decide : 0 < 256), nofun, fun _ => ⟨h2, Eq.refl _, .inr ⟨Eq.refl _, h⟩⟩⟩

theorem nop : Statement (.nop) := placed_base (by decide) (by decide) (Eq.refl _)
theorem nopX (x : Ext) : Statement (.nopX x) := placed_ext (by decide) (by decide) (Eq.refl _)
theorem yield (x : Ext) : Statement (.yield x) := placed_ext (by decide) (by decide) (Eq.refl _)
theorem mov (d a : Opnd) : Statement (.mov d a) := placed_base (by decide) (by decide) (Eq.refl _)
theorem movX (x : Ext) : Statement (.movX x) := placed_ext (by decide) (by decide) (Eq.refl _)
theorem sel (x : Ext) : Statement (.sel x) := placed_ext (by decide) (by decide) (Eq.refl _)
theorem mov64 (x : Ext) : Statement (.mov64 x) := placed_ext (by decide) (by decide) (Eq.refl _)
theorem movx (x : Ext) : Statement (.movx x) := placed_ext (by decide) (by decide) (Eq.refl _)
theorem movxw (x : Ext) : Statement (.movxw x) := placed_ext (by decide) (by decide) (Eq.refl _)
theorem iadd (d a b : Opnd) : Statement (.iadd d a b) := placed_base (by decide) (by decide) (Eq.refl _)
theorem iaddX (x : Ext) : Statement (.iaddX x) := placed_ext (by decide) (by decide) (Eq.refl _)
theorem iadd64 (x : Ext) : Statement (.iadd64 x) := placed_ext (by decide) (by decide) (Eq.refl _)
theorem lea (x : Ext) : Statement (.lea x) := placed_ext (by decide) (by decide) (Eq.refl _)
theorem iaddc (x : Ext) : Statement (.iaddc x) := placed_ext (by decide) (by decide) (Eq.refl _)
theorem isubb (x : Ext) : Statement (.isubb x) := placed_ext (by decide) (by decide) (Eq.refl _)
theorem isub (d a b : Opnd) : Statement (.isub d a b) := placed_base (by decide) (by decide) (Eq.refl _)
theorem isubX (x : Ext) : Statement (.isubX x) := placed_ext (by decide) (by decide) (Eq.refl _)
theorem isub64 (x : Ext) : Statement (.isub64 x) := placed_ext (by decide) (by decide) (Eq.refl _)
theorem ineg (x : Ext) : Statement (.ineg x) := placed_ext (by decide) (by decide) (Eq.refl _)
theorem iabs (x : Ext) : Statement (.iabs x) := placed_ext (by decide) (by decide) (Eq.refl _)
theorem imul (d a b : Opnd) : Statement (.imul d a b) := placed_base (by decide) (by decide) (Eq.refl _)
theorem imulX (x : Ext) : Statement (.imulX x) := placed_ext (by decide) (by decide) (Eq.refl _)
theorem imulh (x : Ext) : Statement (.imulh x) := placed_ext (by decide) (by decide) (Eq.refl _)
theorem imulw (x : Ext) : Statement (.imulw x) := placed_ext (by decide) (by decide) (Eq.refl _)
theorem imad (x : Ext) : Statement (.imad x) := placed_ext (by decide) (by decide) (Eq.refl _)
theorem imadw (x : Ext) : Statement (.imadw x) := placed_ext (by decide) (by decide) (Eq.refl _)
theorem imad64 (x : Ext) : Statement (.imad64 x) := placed_ext (by decide) (by decide) (Eq.refl _)
theorem imin (d a b : Opnd) : Statement (.imin d a b) := placed_base (by decide) (by decide) (Eq.refl _)
theorem iminX (x : Ext) : Statement (.iminX x) := placed_ext (by decide) (by decide) (Eq.refl _)
theorem imax (x : Ext) : Statement (.imax x) := placed_ext (by decide) (by decide) (Eq.refl _)
theorem and (d a b : Opnd) : Statement (.and d a b) := placed_base (by decide) (by decide) (Eq.refl _)
theorem andX (x : Ext) : Statement (.andX x) := placed_ext (by decide) (by decide) (Eq.refl _)
theorem andn (x : Ext) : Statement (.andn x) := placed_ext (by decide) (by decide) (Eq.refl _)
theorem bfun (x : Ext) : Statement (.bfun x) := placed_ext (by decide) (by decide) (Eq.refl _)
theorem or (d a b : Opnd) : Statement (.or d a b) := placed_base (by decide) (by decide) (Eq.refl _)
theorem orX (x : Ext) : Statement (.orX x) := placed_ext (by decide) (by decide) (Eq.refl _)
theorem xor (d a b : Opnd) : Statement (.xor d a b) := placed_base (by decide) (by decide) (Eq.refl _)
theorem xorX (x : Ext) : Statement (.xorX x) := placed_ext (by decide) (by decide) (Eq.refl _)
theorem not (x : Ext) : Statement (.not x) := placed_ext (by decide) (by decide) (Eq.refl _)
theorem shl (d a b : Opnd) : Statement (.shl d a b) := placed_base (by decide) (by decide) (Eq.refl _)
theorem shlX (x : Ext) : Statement (.shlX x) := placed_ext (by decide) (by decide) (Eq.refl _)
theorem shl64 (x : Ext) : Statement (.shl64 x) := placed_ext (by decide) (by decide) (Eq.refl _)
theorem shr (d a b : Opnd) : Statement (.shr d a b) := placed_base (by decide) (by decide) (Eq.refl _)
theorem shrX (x : Ext) : Statement (.shrX x) := placed_ext (by decide) (by decide) (Eq.refl _)
theorem sar (x : Ext) : Statement (.sar x) := placed_ext (by decide) (by decide) (Eq.refl _)
theorem shr64 (x : Ext) : Statement (.shr64 x) := placed_ext (by decide) (by decide) (Eq.refl _)
theorem sar64 (x : Ext) : Statement (.sar64 x) := placed_ext (by decide) (by decide) (Eq.refl _)
theorem rotl (x : Ext) : Statement (.rotl x) := placed_ext (by decide) (by decide) (Eq.refl _)
theorem fshl (x : Ext) : Statement (.fshl x) := placed_ext (by decide) (by decide) (Eq.refl _)
theorem fshr (x : Ext) : Statement (.fshr x) := placed_ext (by decide) (by decide) (Eq.refl _)
theorem bfx (d a b : Opnd) : Statement (.bfx d a b) := placed_base (by decide) (by decide) (Eq.refl _)
theorem bfxX (x : Ext) : Statement (.bfxX x) := placed_ext (by decide) (by decide) (Eq.refl _)
theorem bfi (x : Ext) : Statement (.bfi x) := placed_ext (by decide) (by decide) (Eq.refl _)
theorem bmsk (x : Ext) : Statement (.bmsk x) := placed_ext (by decide) (by decide) (Eq.refl _)
theorem popc (d a : Opnd) : Statement (.popc d a) := placed_base (by decide) (by decide) (Eq.refl _)
theorem popcX (x : Ext) : Statement (.popcX x) := placed_ext (by decide) (by decide) (Eq.refl _)
theorem clz (x : Ext) : Statement (.clz x) := placed_ext (by decide) (by decide) (Eq.refl _)
theorem ctz (x : Ext) : Statement (.ctz x) := placed_ext (by decide) (by decide) (Eq.refl _)
theorem brev (x : Ext) : Statement (.brev x) := placed_ext (by decide) (by decide) (Eq.refl _)
theorem bytep (x : Ext) : Statement (.bytep x) := placed_ext (by decide) (by decide) (Eq.refl _)
theorem icmp (d a b : Opnd) : Statement (.icmp d a b) := placed_base (by decide) (by decide) (Eq.refl _)
theorem icmpX (x : Ext) : Statement (.icmpX x) := placed_ext (by decide) (by decide) (Eq.refl _)
theorem icmp64 (x : Ext) : Statement (.icmp64 x) := placed_ext (by decide) (by decide) (Eq.refl _)
theorem plop (x : Ext) : Statement (.plop x) := placed_ext (by decide) (by decide) (Eq.refl _)
theorem cvti (x : Ext) : Statement (.cvti x) := placed_ext (by decide) (by decide) (Eq.refl _)
theorem fadd (d a b : Opnd) : Statement (.fadd d a b) := placed_base (by decide) (by decide) (Eq.refl _)
theorem faddX (x : Ext) : Statement (.faddX x) := placed_ext (by decide) (by decide) (Eq.refl _)
theorem fsub (x : Ext) : Statement (.fsub x) := placed_ext (by decide) (by decide) (Eq.refl _)
theorem fmul (d a b : Opnd) : Statement (.fmul d a b) := placed_base (by decide) (by decide) (Eq.refl _)
theorem fmulX (x : Ext) : Statement (.fmulX x) := placed_ext (by decide) (by decide) (Eq.refl _)
theorem ffma (d a b : Opnd) : Statement (.ffma d a b) := placed_base (by decide) (by decide) (Eq.refl _)
theorem ffmaX (x : Ext) : Statement (.ffmaX x) := placed_ext (by decide) (by decide) (Eq.refl _)
theorem fmin (d a b : Opnd) : Statement (.fmin d a b) := placed_base (by decide) (by decide) (Eq.refl _)
theorem fminX (x : Ext) : Statement (.fminX x) := placed_ext (by decide) (by decide) (Eq.refl _)
theorem fmax (x : Ext) : Statement (.fmax x) := placed_ext (by decide) (by decide) (Eq.refl _)
theorem fminn (x : Ext) : Statement (.fminn x) := placed_ext (by decide) (by decide) (Eq.refl _)
theorem fmaxn (x : Ext) : Statement (.fmaxn x) := placed_ext (by decide) (by decide) (Eq.refl _)
theorem fcmp (d a b : Opnd) : Statement (.fcmp d a b) := placed_base (by decide) (by decide) (Eq.refl _)
theorem fcmpX (x : Ext) : Statement (.fcmpX x) := placed_ext (by decide) (by decide) (Eq.refl _)
theorem fclass (x : Ext) : Statement (.fclass x) := placed_ext (by decide) (by decide) (Eq.refl _)
theorem fcvt (x : Ext) : Statement (.fcvt x) := placed_ext (by decide) (by decide) (Eq.refl _)
theorem fcvti (x : Ext) : Statement (.fcvti x) := placed_ext (by decide) (by decide) (Eq.refl _)
theorem icvtf (x : Ext) : Statement (.icvtf x) := placed_ext (by decide) (by decide) (Eq.refl _)
theorem frnd (x : Ext) : Statement (.frnd x) := placed_ext (by decide) (by decide) (Eq.refl _)
theorem fscale (x : Ext) : Statement (.fscale x) := placed_ext (by decide) (by decide) (Eq.refl _)
theorem frcp (d a : Opnd) : Statement (.frcp d a) := placed_base (by decide) (by decide) (Eq.refl _)
theorem frcpX (x : Ext) : Statement (.frcpX x) := placed_ext (by decide) (by decide) (Eq.refl _)
theorem frsq (x : Ext) : Statement (.frsq x) := placed_ext (by decide) (by decide) (Eq.refl _)
theorem fsqrt (x : Ext) : Statement (.fsqrt x) := placed_ext (by decide) (by decide) (Eq.refl _)
theorem fex2 (x : Ext) : Statement (.fex2 x) := placed_ext (by decide) (by decide) (Eq.refl _)
theorem flg2 (x : Ext) : Statement (.flg2 x) := placed_ext (by decide) (by decide) (Eq.refl _)
theorem fsin (x : Ext) : Statement (.fsin x) := placed_ext (by decide) (by decide) (Eq.refl _)
theorem fcos (x : Ext) : Statement (.fcos x) := placed_ext (by decide) (by decide) (Eq.refl _)
theorem ftanh (x : Ext) : Statement (.ftanh x) := placed_ext (by decide) (by decide) (Eq.refl _)
theorem fdot2 (x : Ext) : Statement (.fdot2 x) := placed_ext (by decide) (by decide) (Eq.refl _)
theorem fma2 (x : Ext) : Statement (.fma2 x) := placed_ext (by decide) (by decide) (Eq.refl _)
theorem fadd2 (x : Ext) : Statement (.fadd2 x) := placed_ext (by decide) (by decide) (Eq.refl _)
theorem fmul2 (x : Ext) : Statement (.fmul2 x) := placed_ext (by decide) (by decide) (Eq.refl _)
theorem dot4 (x : Ext) : Statement (.dot4 x) := placed_ext (by decide) (by decide) (Eq.refl _)
theorem bra (off : BitVec 16) : Statement (.bra off) := placed_branch (by decide) (by decide) (Eq.refl _)
theorem braX (x : Ext) : Statement (.braX x) := placed_ext (by decide) (by decide) (Eq.refl _)
theorem brc (d : Opnd) (off : BitVec 16) : Statement (.brc d off) := placed_branch (by decide) (by decide) (Eq.refl _)
theorem brcX (x : Ext) : Statement (.brcX x) := placed_ext (by decide) (by decide) (Eq.refl _)
theorem bru (d : Opnd) (off : BitVec 16) : Statement (.bru d off) := placed_branch (by decide) (by decide) (Eq.refl _)
theorem bruX (x : Ext) : Statement (.bruX x) := placed_ext (by decide) (by decide) (Eq.refl _)
theorem call (d : Opnd) (off : BitVec 16) : Statement (.call d off) := placed_branch (by decide) (by decide) (Eq.refl _)
theorem callX (x : Ext) : Statement (.callX x) := placed_ext (by decide) (by decide) (Eq.refl _)
theorem calli (x : Ext) : Statement (.calli x) := placed_ext (by decide) (by decide) (Eq.refl _)
theorem ret (x : Ext) : Statement (.ret x) := placed_ext (by decide) (by decide) (Eq.refl _)
theorem jmpi (x : Ext) : Statement (.jmpi x) := placed_ext (by decide) (by decide) (Eq.refl _)
theorem loop (x : Ext) : Statement (.loop x) := placed_ext (by decide) (by decide) (Eq.refl _)
theorem brkl (x : Ext) : Statement (.brkl x) := placed_ext (by decide) (by decide) (Eq.refl _)
theorem exit : Statement (.exit) := placed_base (by decide) (by decide) (Eq.refl _)
theorem exitX (x : Ext) : Statement (.exitX x) := placed_ext (by decide) (by decide) (Eq.refl _)
theorem rfl (x : Ext) : Statement (.rfl x) := placed_ext (by decide) (by decide) (Eq.refl _)
theorem sleep (a : Opnd) : Statement (.sleep a) := placed_base (by decide) (by decide) (Eq.refl _)
theorem sleepX (x : Ext) : Statement (.sleepX x) := placed_ext (by decide) (by decide) (Eq.refl _)
theorem sleepd (x : Ext) : Statement (.sleepd x) := placed_ext (by decide) (by decide) (Eq.refl _)
theorem sleepWake (gid : Nat) : Statement (.sleepWake gid) := trivial
theorem trap : Statement (.trap) := placed_base (by decide) (by decide) (Eq.refl _)
theorem trapX (x : Ext) : Statement (.trapX x) := placed_ext (by decide) (by decide) (Eq.refl _)
theorem tfence (x : Ext) : Statement (.tfence x) := placed_ext (by decide) (by decide) (Eq.refl _)
theorem bkpt (x : Ext) : Statement (.bkpt x) := placed_ext (by decide) (by decide) (Eq.refl _)
theorem rett (x : Ext) : Statement (.rett x) := placed_ext (by decide) (by decide) (Eq.refl _)
theorem mfs (d : Opnd) : Statement (.mfs d) := placed_base (by decide) (by decide) (Eq.refl _)
theorem mfsX (x : Ext) : Statement (.mfsX x) := placed_ext (by decide) (by decide) (Eq.refl _)
theorem mts (x : Ext) : Statement (.mts x) := placed_ext (by decide) (by decide) (Eq.refl _)
theorem ipf (a : Opnd) : Statement (.ipf a) := placed_base (by decide) (by decide) (Eq.refl _)
theorem ipfX (x : Ext) : Statement (.ipfX x) := placed_ext (by decide) (by decide) (Eq.refl _)
theorem fencei (x : Ext) : Statement (.fencei x) := placed_ext (by decide) (by decide) (Eq.refl _)
theorem wfi (a : Opnd) : Statement (.wfi a) := placed_base (by decide) (by decide) (Eq.refl _)
theorem wfiX (x : Ext) : Statement (.wfiX x) := placed_ext (by decide) (by decide) (Eq.refl _)
theorem wfiDeadline (gid : Nat) : Statement (.wfiDeadline gid) := trivial
theorem tlbi (a b : Opnd) : Statement (.tlbi a b) := placed_base (by decide) (by decide) (Eq.refl _)
theorem tlbiX (x : Ext) : Statement (.tlbiX x) := placed_ext (by decide) (by decide) (Eq.refl _)
theorem genb (x : Ext) : Statement (.genb x) := placed_ext (by decide) (by decide) (Eq.refl _)
theorem xacq (d a : Opnd) : Statement (.xacq d a) := placed_base (by decide) (by decide) (Eq.refl _)
theorem xacqX (x : Ext) : Statement (.xacqX x) := placed_ext (by decide) (by decide) (Eq.refl _)
theorem xacqGrant (gid : Nat) : Statement (.xacqGrant gid) := trivial
theorem xrel (x : Ext) : Statement (.xrel x) := placed_ext (by decide) (by decide) (Eq.refl _)
theorem xshr (x : Ext) : Statement (.xshr x) := placed_ext (by decide) (by decide) (Eq.refl _)
theorem ocld (x : Ext) : Statement (.ocld x) := placed_ext (by decide) (by decide) (Eq.refl _)
theorem ocinv (x : Ext) : Statement (.ocinv x) := placed_ext (by decide) (by decide) (Eq.refl _)
theorem feset (x : Ext) : Statement (.feset x) := placed_ext (by decide) (by decide) (Eq.refl _)
theorem feclr (x : Ext) : Statement (.feclr x) := placed_ext (by decide) (by decide) (Eq.refl _)
theorem fewait (x : Ext) : Statement (.fewait x) := placed_ext (by decide) (by decide) (Eq.refl _)
theorem qxch (d a : Opnd) : Statement (.qxch d a) := placed_base (by decide) (by decide) (Eq.refl _)
theorem qxchX (x : Ext) : Statement (.qxchX x) := placed_ext (by decide) (by decide) (Eq.refl _)
theorem qbc (x : Ext) : Statement (.qbc x) := placed_ext (by decide) (by decide) (Eq.refl _)
theorem gshf (d a b : Opnd) : Statement (.gshf d a b) := placed_base (by decide) (by decide) (Eq.refl _)
theorem gshfX (x : Ext) : Statement (.gshfX x) := placed_ext (by decide) (by decide) (Eq.refl _)
theorem gshfx (x : Ext) : Statement (.gshfx x) := placed_ext (by decide) (by decide) (Eq.refl _)
theorem gshfup (x : Ext) : Statement (.gshfup x) := placed_ext (by decide) (by decide) (Eq.refl _)
theorem gshfdn (x : Ext) : Statement (.gshfdn x) := placed_ext (by decide) (by decide) (Eq.refl _)
theorem gvote (d a : Opnd) : Statement (.gvote d a) := placed_base (by decide) (by decide) (Eq.refl _)
theorem gvoteX (x : Ext) : Statement (.gvoteX x) := placed_ext (by decide) (by decide) (Eq.refl _)
theorem gmatch (x : Ext) : Statement (.gmatch x) := placed_ext (by decide) (by decide) (Eq.refl _)
theorem gbcast (x : Ext) : Statement (.gbcast x) := placed_ext (by decide) (by decide) (Eq.refl _)
theorem gred (d a : Opnd) : Statement (.gred d a) := placed_base (by decide) (by decide) (Eq.refl _)
theorem gredX (x : Ext) : Statement (.gredX x) := placed_ext (by decide) (by decide) (Eq.refl _)
theorem gscan (x : Ext) : Statement (.gscan x) := placed_ext (by decide) (by decide) (Eq.refl _)
theorem gbar : Statement (.gbar) := placed_base (by decide) (by decide) (Eq.refl _)
theorem gbarX (x : Ext) : Statement (.gbarX x) := placed_ext (by decide) (by decide) (Eq.refl _)
theorem gbara (x : Ext) : Statement (.gbara x) := placed_ext (by decide) (by decide) (Eq.refl _)
theorem gbarw (x : Ext) : Statement (.gbarw x) := placed_ext (by decide) (by decide) (Eq.refl _)
theorem phaseComplete (die w : Nat) : Statement (.phaseComplete die w) := trivial
theorem binit (a b : Opnd) : Statement (.binit a b) := placed_base (by decide) (by decide) (Eq.refl _)
theorem binitX (x : Ext) : Statement (.binitX x) := placed_ext (by decide) (by decide) (Eq.refl _)
theorem barv (x : Ext) : Statement (.barv x) := placed_ext (by decide) (by decide) (Eq.refl _)
theorem bwait (x : Ext) : Statement (.bwait x) := placed_ext (by decide) (by decide) (Eq.refl _)
theorem barw (x : Ext) : Statement (.barw x) := placed_ext (by decide) (by decide) (Eq.refl _)
theorem btest (x : Ext) : Statement (.btest x) := placed_ext (by decide) (by decide) (Eq.refl _)
theorem ld (d a : Opnd) : Statement (.ld d a) := placed_base (by decide) (by decide) (Eq.refl _)
theorem ldX (x : Ext) : Statement (.ldX x) := placed_ext (by decide) (by decide) (Eq.refl _)
theorem lds (x : Ext) : Statement (.lds x) := placed_ext (by decide) (by decide) (Eq.refl _)
theorem ldw (x : Ext) : Statement (.ldw x) := placed_ext (by decide) (by decide) (Eq.refl _)
theorem st (a b : Opnd) : Statement (.st a b) := placed_base (by decide) (by decide) (Eq.refl _)
theorem stX (x : Ext) : Statement (.stX x) := placed_ext (by decide) (by decide) (Eq.refl _)
theorem sts (x : Ext) : Statement (.sts x) := placed_ext (by decide) (by decide) (Eq.refl _)
theorem stw (x : Ext) : Statement (.stw x) := placed_ext (by decide) (by decide) (Eq.refl _)
theorem loadReturn (id : Nat) (dev : Option (BitVec 128)) : Statement (.loadReturn id dev) := trivial
theorem storeAck (id : Nat) : Statement (.storeAck id) := trivial
theorem aadd (d a b : Opnd) : Statement (.aadd d a b) := placed_base (by decide) (by decide) (Eq.refl _)
theorem aaddX (x : Ext) : Statement (.aaddX x) := placed_ext (by decide) (by decide) (Eq.refl _)
theorem amin (x : Ext) : Statement (.amin x) := placed_ext (by decide) (by decide) (Eq.refl _)
theorem amax (x : Ext) : Statement (.amax x) := placed_ext (by decide) (by decide) (Eq.refl _)
theorem aand (x : Ext) : Statement (.aand x) := placed_ext (by decide) (by decide) (Eq.refl _)
theorem aor (x : Ext) : Statement (.aor x) := placed_ext (by decide) (by decide) (Eq.refl _)
theorem axor (x : Ext) : Statement (.axor x) := placed_ext (by decide) (by decide) (Eq.refl _)
theorem axch (x : Ext) : Statement (.axch x) := placed_ext (by decide) (by decide) (Eq.refl _)
theorem acas (x : Ext) : Statement (.acas x) := placed_ext (by decide) (by decide) (Eq.refl _)
theorem ainc (x : Ext) : Statement (.ainc x) := placed_ext (by decide) (by decide) (Eq.refl _)
theorem adec (x : Ext) : Statement (.adec x) := placed_ext (by decide) (by decide) (Eq.refl _)
theorem afadd (x : Ext) : Statement (.afadd x) := placed_ext (by decide) (by decide) (Eq.refl _)
theorem afmin (x : Ext) : Statement (.afmin x) := placed_ext (by decide) (by decide) (Eq.refl _)
theorem afmax (x : Ext) : Statement (.afmax x) := placed_ext (by decide) (by decide) (Eq.refl _)
theorem atomicReturn (id : Nat) : Statement (.atomicReturn id) := trivial
theorem qntApply (id : Nat) : Statement (.qntApply id) := trivial
theorem fence : Statement (.fence) := placed_base (by decide) (by decide) (Eq.refl _)
theorem fenceX (x : Ext) : Statement (.fenceX x) := placed_ext (by decide) (by decide) (Eq.refl _)
theorem pref (x : Ext) : Statement (.pref x) := placed_ext (by decide) (by decide) (Eq.refl _)
theorem cinv (x : Ext) : Statement (.cinv x) := placed_ext (by decide) (by decide) (Eq.refl _)
theorem cwb (x : Ext) : Statement (.cwb x) := placed_ext (by decide) (by decide) (Eq.refl _)
theorem cpin (x : Ext) : Statement (.cpin x) := placed_ext (by decide) (by decide) (Eq.refl _)
theorem cunpin (x : Ext) : Statement (.cunpin x) := placed_ext (by decide) (by decide) (Eq.refl _)
theorem locketFade (die w : Nat) : Statement (.locketFade die w) := trivial
theorem mma (x : Ext) : Statement (.mma x) := placed_ext (by decide) (by decide) (Eq.refl _)
theorem mmaq (x : Ext) : Statement (.mmaq x) := placed_ext (by decide) (by decide) (Eq.refl _)
theorem mmai (x : Ext) : Statement (.mmai x) := placed_ext (by decide) (by decide) (Eq.refl _)
theorem passStart (id : Nat) : Statement (.passStart id) := trivial
theorem acz (x : Ext) : Statement (.acz x) := placed_ext (by decide) (by decide) (Eq.refl _)
theorem acld (x : Ext) : Statement (.acld x) := placed_ext (by decide) (by decide) (Eq.refl _)
theorem acmov (x : Ext) : Statement (.acmov x) := placed_ext (by decide) (by decide) (Eq.refl _)
theorem acst (x : Ext) : Statement (.acst x) := placed_ext (by decide) (by decide) (Eq.refl _)
theorem alut (x : Ext) : Statement (.alut x) := placed_ext (by decide) (by decide) (Eq.refl _)
theorem osopen (d a b : Opnd) : Statement (.osopen d a b) := placed_base (by decide) (by decide) (Eq.refl _)
theorem osopenX (x : Ext) : Statement (.osopenX x) := placed_ext (by decide) (by decide) (Eq.refl _)
theorem ossub (x : Ext) : Statement (.ossub x) := placed_ext (by decide) (by decide) (Eq.refl _)
theorem osclose (x : Ext) : Statement (.osclose x) := placed_ext (by decide) (by decide) (Eq.refl _)
theorem streamTileRead (die slot t : Nat) : Statement (.streamTileRead die slot t) := trivial
theorem aspill (x : Ext) : Statement (.aspill x) := placed_ext (by decide) (by decide) (Eq.refl _)
theorem afill (x : Ext) : Statement (.afill x) := placed_ext (by decide) (by decide) (Eq.refl _)
theorem aown (x : Ext) : Statement (.aown x) := placed_ext (by decide) (by decide) (Eq.refl _)
theorem cqadv (d a b : Opnd) : Statement (.cqadv d a b) := placed_base (by decide) (by decide) (Eq.refl _)
theorem cqadvX (x : Ext) : Statement (.cqadvX x) := placed_ext (by decide) (by decide) (Eq.refl _)
theorem batchDecision (cid q : Nat) : Statement (.batchDecision cid q) := trivial
theorem cqwait (x : Ext) : Statement (.cqwait x) := placed_ext (by decide) (by decide) (Eq.refl _)
theorem cqseq (x : Ext) : Statement (.cqseq x) := placed_ext (by decide) (by decide) (Eq.refl _)
theorem dcwait (x : Ext) : Statement (.dcwait x) := placed_ext (by decide) (by decide) (Eq.refl _)
theorem tready (x : Ext) : Statement (.tready x) := placed_ext (by decide) (by decide) (Eq.refl _)
theorem cqput (x : Ext) : Statement (.cqput x) := placed_ext (by decide) (by decide) (Eq.refl _)
theorem entryBegin (cid q : Nat) : Statement (.entryBegin cid q) := trivial
theorem entryComplete (cid q : Nat) : Statement (.entryComplete cid q) := trivial
theorem engineWindowWrite (cid q : Nat) : Statement (.engineWindowWrite cid q) := trivial
theorem queueHalt (cid q : Nat) (cause : BitVec 8) (addr : DWord) : Statement (.queueHalt cid q cause addr) := trivial
theorem promiseMiss (cid q : Nat) : Statement (.promiseMiss cid q) := trivial
theorem qstatClrc (cid q : Nat) : Statement (.qstatClrc cid q) := trivial
theorem qstatHaltClear (cid q : Nat) : Statement (.qstatHaltClear cid q) := trivial
theorem deferredReport (gid : Nat) : Statement (.deferredReport gid) := trivial
theorem step (gid : Nat) : Statement (.step gid) := trivial
theorem promiseMissed (gid : Nat) : Statement (.promiseMissed gid) := trivial
theorem watchdog (gid : Nat) : Statement (.watchdog gid) := trivial
theorem preempt (gid : Nat) : Statement (.preempt gid) := trivial
theorem breakpoint (gid : Nat) : Statement (.breakpoint gid) := trivial
theorem integrity (gid : Nat) (pa : DWord) : Statement (.integrity gid pa) := trivial
theorem walkResult (die idx : Nat) : Statement (.walkResult die idx) := trivial
theorem homePerform (id : Nat) : Statement (.homePerform id) := trivial
theorem stampAnnouncement (src dst : Nat) : Statement (.stampAnnouncement src dst) := trivial
theorem refresh (die ch : Nat) (act : RefreshAct) : Statement (.refresh die ch act) := trivial
theorem hotRowWindowEnd (die : Nat) : Statement (.hotRowWindowEnd die) := trivial
theorem clearSweep (die line : Nat) : Statement (.clearSweep die line) := trivial
theorem scrub (die : Nat) (pa : DWord) (res : ScrubResult) : Statement (.scrub die pa res) := trivial
theorem flitRetry (die port : Nat) : Statement (.flitRetry die port) := trivial
theorem linkFailover (die port : Nat) : Statement (.linkFailover die port) := trivial
theorem writeAck (src home : Nat) (num : BitVec 24) : Statement (.writeAck src home num) := trivial
theorem inboundPostedWrite (q : Tlp) (data : List Byte) : Statement (.inboundPostedWrite q data) := trivial
theorem inboundRead (q : Tlp) (len : Nat) : Statement (.inboundRead q len) := trivial
theorem atsTranslationRequest (q : Tlp) : Statement (.atsTranslationRequest q) := trivial
theorem atsInvalidationCompletion (port : Nat) (rid : BitVec 16) : Statement (.atsInvalidationCompletion port rid) := trivial
theorem atsInvalidationTimeout (port : Nat) (rid : BitVec 16) : Statement (.atsInvalidationTimeout port rid) := trivial
theorem pageRequest (q : Tlp) (rd wr last : Bool) (prg : BitVec 9) : Statement (.pageRequest q rd wr last prg) := trivial
theorem prgrsp (io : Nat) (v : DWord) : Statement (.prgrsp io v) := trivial
theorem completionTimeout (id : Nat) : Statement (.completionTimeout id) := trivial
theorem intxMessage (port : Nat) : Statement (.intxMessage port) := trivial
theorem ptmRequest (port : Nat) : Statement (.ptmRequest port) := trivial
theorem ideCheckFailure (q : Tlp) : Statement (.ideCheckFailure q) := trivial
theorem surpriseRemoval (port : Nat) : Statement (.surpriseRemoval port) := trivial
theorem bezelStore (id : Nat) : Statement (.bezelStore id) := trivial
theorem claspBarrierArrival (io : Nat) : Statement (.claspBarrierArrival io) := trivial
theorem claspCounterAdd (io : Nat) : Statement (.claspCounterAdd io) := trivial
theorem claspInterrupt (io : Nat) : Statement (.claspInterrupt io) := trivial
theorem wake (cid : Nat) : Statement (.wake cid) := trivial
theorem remoteWrite (r : RemoteTlp) (data : List Byte) : Statement (.remoteWrite r data) := trivial
theorem remoteWriteAck (id : Nat) (ok : Bool) : Statement (.remoteWriteAck id ok) := trivial
theorem rwrev (io : Nat) (w : BitVec 12) : Statement (.rwrev io w) := trivial
theorem reductionContribution (r : RemoteTlp) (data : List Byte) : Statement (.reductionContribution r data) := trivial
theorem reductionTimeout (idx : Nat) : Statement (.reductionTimeout idx) := trivial
theorem launch (cid : Nat) (tail : DWord) : Statement (.launch cid tail) := trivial
theorem launchCopy (vdev : Nat) : Statement (.launchCopy vdev) := trivial
theorem dependencePoll (seq : Nat) : Statement (.dependencePoll seq) := trivial
theorem placeGang (die seq : Nat) : Statement (.placeGang die seq) := trivial
theorem chunkArrival (wg : Nat) : Statement (.chunkArrival wg) := trivial
theorem stealMessage (seq asker : Nat) : Statement (.stealMessage seq asker) := trivial
theorem stealAnswer (seq asker : Nat) : Statement (.stealAnswer seq asker) := trivial
theorem groupRelease (gid : Nat) : Statement (.groupRelease gid) := trivial
theorem launchComplete (seq : Nat) : Statement (.launchComplete seq) := trivial
theorem turnEnd (die : Nat) : Statement (.turnEnd die) := trivial
theorem gangSave (gang : Nat) : Statement (.gangSave gang) := trivial
theorem gangRestore (gang : Nat) : Statement (.gangRestore gang) := trivial
theorem vdreset (die v : Nat) : Statement (.vdreset die v) := trivial
theorem clrsize (die : Nat) (size : DWord) : Statement (.clrsize die size) := trivial
theorem cecntRead (die off width : Nat) : Statement (.cecntRead die off width) := trivial
theorem registerWrite (addr : DWord) (width : Nat) (val : BitVec 128) (level : Nat) : Statement (.registerWrite addr width val level) := trivial
theorem create : Statement (.create) := trivial
theorem admitCall : Statement (.admitCall) := trivial
theorem release : Statement (.release) := trivial
theorem ways : Statement (.ways) := trivial
theorem attest : Statement (.attest) := trivial
theorem destroy : Statement (.destroy) := trivial
theorem idekey : Statement (.idekey) := trivial
theorem enter : Statement (.enter) := trivial
theorem coldReset (r : Boot) : Statement (.coldReset r) := trivial
theorem warmReset (r : Boot) : Statement (.warmReset r) := trivial
theorem throttleCheck (die power junction stack : Nat) : Statement (.throttleCheck die power junction stack) := trivial
theorem thermalTrip (die : Nat) : Statement (.thermalTrip die) := trivial
theorem ptmCorrection (ahead : Int) : Statement (.ptmCorrection ahead) := trivial
theorem standbySupplyApplied (die : Nat) : Statement (.standbySupplyApplied die) := trivial
theorem genbCompletion (gid : Nat) : Statement (.genbCompletion gid) := trivial
theorem distributorReply (id : Nat) : Statement (.distributorReply id) := trivial

end Sys2Proof.Laws.Encodes
end

