-- ==== Sys2Proof/Tests/Slice0.lean ====
section
/-!
SUPPORT. Tests: an ill-formed term for each check of WellFormed; words written out from the encodings; results of single steps, from the manual's
worked examples or computed by hand from its tables; and states that meet the hypotheses of every statement.
-/

open Sys2Proof Sys2Proof.Machine

namespace Sys2Proof.Tests

/-! Builders. -/

/-- Lanes that hold items at PC 0x1000. -/
def lanesAt (ls : List Nat) : Tab Lane := ls.map (fun l => (l, { Lane.vacant with occupied := true, pc := 0x1000 }))
/-- A running group with registers given as (lane, register, value). -/
def grp (ls : List Nat) (rs : List (Nat × Nat × Nat)) : Group :=
  rs.foldl (fun g (p : Nat × Nat × Nat) => g.wrReg p.1 p.2.1 (BitVec.ofNat 32 p.2.2)) { Group.vacant with status := .running, lanes := lanesAt ls }
/-- The package with that group in slot 0 of core 0 of die 0, current. -/
def ofGroup (g : Group) : State := { State.reset with groups := [(0, g)], cur := 0 }
/-- Lanes 0 and 1 at level 0. -/
def one (rs : List (Nat × Nat × Nat)) : State := ofGroup (grp [0, 1] rs)
/-- The same at a level. -/
def lvl (m : Nat) (rs : List (Nat × Nat × Nat)) : State := ofGroup ((grp [0, 1] rs).setPriv m)
/-- A system core at level 3 with registers. -/
def sys (rs : List (Nat × Nat × Nat)) : State :=
  { State.reset with groups := [(65536, rs.foldl (fun g (p : Nat × Nat × Nat) => g.wrReg p.1 p.2.1 (BitVec.ofNat 32 p.2.2)) Group.system)] }
/-- One step of `exec`. -/
def run (i : Instr) (s : State) : State := after (exec i s) s
/-- Register d of lane l of group 0 after an instruction. -/
def res (i : Instr) (rs : List (Nat × Nat × Nat)) (l d : Nat) : Nat := (((run i (one rs)).group 0).reg l d).toNat
/-- Extended fields with D = v0, A = v2, B = v4, C = v6. -/
def X (maj : Nat) : Ext := { Ext.ofBase maj (.v 0) (.v 2) (.v 4) with c := .v 6 }
/-- Layout T with an immediate and types. -/
def Xt (maj imm : Nat) (sty dty : Ty) : Ext := { X maj with w2 := .t (BitVec.ofNat 16 imm) sty dty (.v 0) }
/-- The same with C unused. -/
def Yt (maj imm : Nat) (sty dty : Ty) : Ext := { Xt maj imm sty dty with c := .none }

/-! An ill-formed term for each check, 03 R51. -/

theorem test_wf_ok : WellFormed (.iaddX (Yt 0x03 0 .dflt .dflt)) = true := by decide
theorem test_wf_d_role : WellFormed (.iadd64 { Yt 0x03 0 .dflt .dflt with d := .v 1 }) = false := by decide
theorem test_wf_a_role : WellFormed (.iaddX { Yt 0x03 0 .dflt .dflt with a := .none }) = false := by decide
theorem test_wf_b_role : WellFormed (.movX (Yt 0x02 0 .dflt .dflt)) = false := by decide
theorem test_wf_c_role : WellFormed (.iaddX (Xt 0x03 0 .dflt .dflt)) = false := by decide
theorem test_wf_policy : WellFormed (.iaddX { Yt 0x03 0 .dflt .dflt with a := .imm 9, fa := true }) = false := by decide
theorem test_wf_dead : WellFormed (.iaddX { Yt 0x03 0 .dflt .dflt with b := .sp .lane, db := true }) = false := by decide
theorem test_wf_uni : WellFormed (.iaddX { Yt 0x03 0 .dflt .dflt with uni := true }) = false := by decide
theorem test_wf_rnd : WellFormed (.iaddX { Yt 0x03 0 .dflt .dflt with rnd := .rtz }) = false := by decide
theorem test_wf_sat : WellFormed (.andX { Yt 0x07 0 .dflt .dflt with sat := true }) = false := by decide
theorem test_wf_rsrc : WellFormed (.iaddX { Yt 0x03 0 .dflt .dflt with w2 := .t 0 .dflt .dflt (.v 1) }) = false := by decide
theorem test_wf_literal_unread : WellFormed (.iaddX { Yt 0x03 0 .dflt .dflt with lit := some 5 }) = false := by decide
theorem test_wf_literal_missing : WellFormed (.iaddX { Yt 0x03 0 .dflt .dflt with b := .lit }) = false := by decide
theorem test_wf_branch_bytes : WellFormed (.braX { Ext.ofBase 0x20 .none .none .none with lit := some 6 }) = false := by decide
theorem test_wf_short : WellFormed (.iaddX { Ext.ofBase 0x03 (.v 0) (.v 2) .lit with short := true, sat := true, lit := some 5 }) = false := by decide
theorem test_wf_layout : WellFormed (.iaddX { Yt 0x03 0 .dflt .dflt with w2 := .w 0 }) = false := by decide
theorem test_wf_imm : WellFormed (.bfun (Xt 0x07 0x100 .dflt .dflt)) = false := by decide
theorem test_wf_type : WellFormed (.faddX (Yt 0x10 0 .dflt .e4m3)) = false := by decide
theorem test_wf_sysreg : WellFormed (.mfsX { Ext.ofBase 0x28 (.v 0) .none .none with w2 := .w 0x40 }) = false := by decide
theorem test_wf_scope : WellFormed (.lds { Ext.ofBase 0x38 (.v 0) (.v 2) .none with w2 := .m .die .none .rlx .ca .b32 0 }) = false := by decide
theorem test_wf_order : WellFormed (.ldX { Ext.ofBase 0x38 (.v 0) (.v 2) .none with w2 := .m .grp .none .rel .ca .b32 0 }) = false := by decide
theorem test_wf_use : WellFormed (.axch { Ext.ofBase 0x3A (.v 0) (.v 2) (.v 4) with w2 := .m .grp .com .rlx .ca .b32 0 }) = false := by decide
theorem test_wf_atomic_type : WellFormed (.ainc { Ext.ofBase 0x3A (.v 0) (.v 2) (.v 4) with w2 := .m .grp .none .rlx .ca .b32 0 }) = false := by decide
theorem test_wf_tile : WellFormed (.acz (Ext.ofBase 0x3C (.v 2) .none .none)) = false := by decide
theorem test_wf_movx_dead : WellFormed (.movx { Yt 0x02 0 .dflt .dflt with da := true }) = false := by decide
theorem test_wf_ffma_no_d : WellFormed (.ffmaX { Yt 0x12 0 .dflt .dflt with d := .none }) = false := by decide

/-! Words written out bit by bit, 03 R37 to R50. Three words: Word 0 lowest. -/

def w3 (w0 w1 w2 : Nat) : Nat := w0 + 2 ^ 32 * w1 + 2 ^ 64 * w2
def w5 (w0 w1 w2 l0 l1 : Nat) : Nat := w3 w0 w1 w2 + 2 ^ 96 * l0 + 2 ^ 128 * l1

/-- 05 R87: BFUN v5, v1, v2, v3, #0xAC. -/
theorem test_word_bfun : decodeTableWord 96 (w3 0x0201051E 0x00700203 0x00AC0000) =
    some (.bfun { Ext.ofBase 0x07 (.v 5) (.v 1) (.v 2) with c := .v 3, w2 := .t 0xAC .dflt .dflt (.v 0) }) := by decide
/-- 08 R150: GSHFUP v5, v3, #1, v9. -/
theorem test_word_gshfup : decodeTableWord 96 (w3 0xE90305C6 0x00700209 0) =
    some (.gshfup { Ext.ofBase 0x31 (.v 5) (.v 3) (.imm 9) with c := .v 9 }) := by decide
/-- 08 R153: GRED.f32 v8, v4, #0. -/
theorem test_word_gred : decodeTableWord 96 (w3 0xFE0408CE 0x007000FE 0x00000A00) =
    some (.gredX { Ext.ofBase 0x33 (.v 8) (.v 4) .none with w2 := .t 0 .dflt .f32 (.v 0) }) := by decide
/-- 06 R105: LOOP lc0, v1, 6 words on. -/
theorem test_word_loop : decodeTableWord 96 (w3 0xFE01CC92 0x007000FE 6) =
    some (.loop { Ext.ofBase 0x24 (.lc 0) (.v 1) .none with w2 := .w 6 }) := by decide
/-- 09 R182: MMAQ.e4m3.ag ac0, v2:v3, v4:v5, #0x20, v6, v7, #3. -/
theorem test_word_mmaq : decodeTableWord 160 (w5 0x040200F3 0x007001FF 0x1C000607 0x20 0) =
    some (.mmaq { Ext.ofBase 0x3C (.v 0) (.v 2) (.v 4) with
      c := .lit, lit := some 0x20, w2 := .x 3 true false false false false false (.v 6) (.v 7) }) := by decide
theorem test_word_nop : decodeTableWord 32 0xFEFEFE04 = some .nop := by decide
theorem test_word_exit : decodeTableWord 32 0xFEFEFE94 = some .exit := by decide
/-- MAJ 0x27, MIN 3. -/
theorem test_word_rett : decodeTableWord 96 (w3 0xFEFEFE9E 0x007003FE 0) = some (.rett (Ext.ofBase 0x27 .none .none .none)) := by decide
/-- MAJ 0x02: B 0xFE, A 0x05, D 0x03. -/
theorem test_word_mov : decodeTableWord 32 0xFE050308 = some (.mov (.v 3) (.v 5)) := by decide
/-- MAJ 0x0E: ICMP p1, v2, #-3 (0xE5). -/
theorem test_word_icmp : decodeTableWord 32 0xE5020138 = some (.icmp (.v 1) (.v 2) (.imm 5)) := by decide
/-- MAJ 0x10: FADD v1, v2, %zero (0xDF). -/
theorem test_word_fadd : decodeTableWord 32 0xDF020140 = some (.fadd (.v 1) (.v 2) (.sp .zero)) := by decide
/-- MAJ 0x15 MIN 0: FCVT v1, v2 from .f16 (0xB) to .f32 (0xA), rne. -/
theorem test_word_fcvt : decodeTableWord 96 (w3 0xFE020156 0x007000FE 0x0000BA00) =
    some (.fcvt { Ext.ofBase 0x15 (.v 1) (.v 2) .none with w2 := .t 0 .f16 .f32 (.v 0) }) := by decide
/-- MAJ 0x17 MIN 3 under p3: FMUL2.f16 v1, v2, v3. -/
theorem test_word_fmul2 : decodeTableWord 96 (w3 0x0302015E 0x003003FE 0x00000B00) =
    some (.fmul2 { Ext.ofBase 0x17 (.v 1) (.v 2) (.v 3) with pred := 3, w2 := .t 0 .dflt .f16 (.v 0) }) := by decide
/-- MAJ 0x21: BRC v9, back by one word: offset 0xFFFF in A:B. -/
theorem test_word_brc : decodeTableWord 32 0xFFFF0984 = some (.brc (.v 9) 0xFFFF) := by decide
/-- MAJ 0x28 MIN 1: MTS 0x11, v2:v3. -/
theorem test_word_mts : decodeTableWord 96 (w3 0xFE02FEA2 0x007001FE 0x11) =
    some (.mts { Ext.ofBase 0x28 .none (.v 2) .none with w2 := .w 0x11 }) := by decide
/-- MAJ 0x35 base: BINIT a, b. -/
theorem test_word_binit : decodeTableWord 32 0x0402FED4 = some (.binit (.v 2) (.v 4)) := by decide
/-- MAJ 0x38 MIN 0, layout M: scope die (6), order acq (1), class CB (1), width b64 (3), OFF -8. -/
theorem test_word_ld : decodeTableWord 96 (w3 0xFE0204E2 0x007000FE 0x60AFFFF8) =
    some (.ldX { Ext.ofBase 0x38 (.v 4) (.v 2) .none with w2 := .m .die .none .acq .cb .b64 0x3FFF8 }) := by decide
/-- MAJ 0x3A MIN 7: ACAS at scope gang (4). -/
theorem test_word_acas : decodeTableWord 96 (w3 0x060204EA 0x00700708 0x40000000) =
    some (.acas { Ext.ofBase 0x3A (.v 4) (.v 2) (.v 6) with c := .v 8, w2 := .m .gang .none .rlx .ca .b32 0 }) := by decide
/-- MAJ 0x3D MIN 2: OSCLOSE v2, #1. -/
theorem test_word_osclose : decodeTableWord 96 (w3 0xFE02FEF6 0x007002FE 0x00010000) =
    some (.osclose { Ext.ofBase 0x3D .none (.v 2) .none with w2 := .t 1 .dflt .dflt (.v 0) }) := by decide
/-- MAJ 0x3E MIN 2: CQSEQ v4:v5, v2. -/
theorem test_word_cqseq : decodeTableWord 96 (w3 0xFE0204FA 0x007002FE 0) =
    some (.cqseq (Ext.ofBase 0x3E (.v 4) (.v 2) .none)) := by decide
/-- Word 1 bit 31, a reserved specifier, an unassigned MAJ, a reserved type code. -/
theorem test_word_reserved : decodeTableWord 96 (w3 0x0201051E 0x80700203 0x00AC0000) = none ∧ decodeTableWord 32 0x02F0000C = none ∧
    decodeTableWord 32 0xFEFEFEFC = none ∧ decodeTableWord 96 (w3 0x0201000E 0x007000FE 0x00000F00) = none := by decide
/-- The encoder writes the words of BFUN back. -/
theorem test_encode_bfun : encode (.bfun { Ext.ofBase 0x07 (.v 5) (.v 1) (.v 2) with c := .v 3, w2 := .t 0xAC .dflt .dflt (.v 0) }) =
    [0x0201051E, 0x00700203, 0x00AC0000] := by decide

/-! Results of single steps. -/

/-- 04 R56: modulo 2^32. -/
theorem test_iadd_wraps : res (.iadd (.v 0) (.v 1) (.v 2)) [(0, 1, 0xFFFFFFFF), (0, 2, 2)] 0 0 = 1 := by decide
/-- 05 R84: |-128| wraps in .s8 and is sign-extended. -/
theorem test_iabs_s8 : res (.iabs (Yt 0x04 0 .dflt .s8 |> fun x => { x with b := .none })) [(0, 2, 0x80)] 0 0 = 0xFFFFFF80 := by decide
/-- 04 R56: 100 + 50 clamps to 127. -/
theorem test_iadd_s8_sat : res (.iaddX { Yt 0x03 0 .dflt .s8 with sat := true }) [(0, 2, 100), (0, 4, 50)] 0 0 = 127 := by decide
theorem test_isub_order : res (.isub (.v 0) (.v 1) (.v 2)) [(0, 1, 3), (0, 2, 5)] 0 0 = 0xFFFFFFFE := by decide
theorem test_imulh_signed : res (.imulh (Yt 0x05 0 .dflt .s32)) [(0, 2, 0xFFFFFFFF), (0, 4, 2)] 0 0 = 0xFFFFFFFF := by decide
theorem test_imin_signed : res (.imin (.v 0) (.v 1) (.v 2)) [(0, 1, 0x80000000), (0, 2, 1)] 0 0 = 0x80000000 := by decide
/-- 05 R86: LEA with index -3 and shift 2 gives the base minus 12. -/
theorem test_lea : res (.lea { Yt 0x03 2 .dflt .s32 with b := .v 4 }) [(0, 2, 100), (0, 4, 0xFFFFFFFD)] 0 0 = 88 := by decide
/-- 05 R85: the carry-out goes to p1, whatever the clamp. -/
theorem test_iaddc_carry : (((run (.iaddc { Yt 0x03 0x18 .dflt .dflt with sat := true }) (one [(0, 2, 0xFFFFFFFF), (0, 4, 1)])).group 0).lane 0).pred 1 = true ∧
    res (.iaddc { Yt 0x03 0x18 .dflt .dflt with sat := true }) [(0, 2, 0xFFFFFFFF), (0, 4, 1)] 0 0 = 0xFFFFFFFF := by decide
theorem test_isubb_borrow : (((run (.isubb (Yt 0x03 0x18 .dflt .dflt)) (one [(0, 2, 0), (0, 4, 1)])).group 0).lane 0).pred 1 = true := by decide
/-- 05 R87: a bitwise select takes a where c is 1 and b where c is 0. -/
theorem test_bfun_select : res (.bfun (Xt 0x07 0xAC .dflt .dflt)) [(0, 2, 0xF0F0), (0, 4, 0x0F0F), (0, 6, 0xFF00)] 0 0 = 0xF00F := by decide
theorem test_andn : res (.andn (Yt 0x07 0 .dflt .dflt)) [(0, 2, 0xFF), (0, 4, 0x0F)] 0 0 = 0xF0 := by decide
theorem test_shl_32 : res (.shl (.v 0) (.v 1) (.v 2)) [(0, 1, 1), (0, 2, 32)] 0 0 = 0 := by decide
theorem test_sar_40 : res (.sar (Yt 0x0B 0 .dflt .dflt)) [(0, 2, 0x80000000), (0, 4, 40)] 0 0 = 0xFFFFFFFF := by decide
theorem test_rotl_33 : res (.rotl (Yt 0x0B 0 .dflt .dflt)) [(0, 2, 0x80000001), (0, 4, 33)] 0 0 = 3 := by decide
theorem test_fshl : res (.fshl (Xt 0x0B 0 .dflt .dflt)) [(0, 2, 0x11), (0, 4, 0x80000000), (0, 6, 1)] 0 0 = 0x23 := by decide
/-- 05 R88: length 8 at position 4, sign-extended; a field past bit 31 is cut. -/
theorem test_bfx_sign : res (.bfx (.v 0) (.v 1) (.v 2)) [(0, 1, 0xFF0), (0, 2, 0x804)] 0 0 = 0xFFFFFFFF := by decide
theorem test_bmsk_cut : res (.bmsk { Yt 0x0C 0 .dflt .dflt with b := .none }) [(0, 2, 0x081C)] 0 0 = 0xF0000000 := by decide
theorem test_clz_0 : res (.clz { Yt 0x0D 0 .dflt .dflt with b := .none }) [] 0 0 = 32 := by decide
/-- 05 R89: the worked selectors. -/
theorem test_bytep_sign : res (.bytep (Xt 0x0D 0 .dflt .dflt)) [(0, 2, 0x80), (0, 6, 0x10101000)] 0 0 = 0xFFFFFF80 := by decide
theorem test_bytep_reverse : res (.bytep (Xt 0x0D 0 .dflt .dflt)) [(0, 2, 0x11223344), (0, 6, 0x00010203)] 0 0 = 0x44332211 := by decide
theorem test_icmp_eq : (((run (.icmp (.v 1) (.v 2) (.v 4)) (one [(0, 2, 7), (0, 4, 7)])).group 0).lane 0).pred 1 = true := by decide
/-- 05 R90: with p7 as C only the odd entries of the table apply; t = 0x80 is A and B. -/
theorem test_plop_and : (((run (.plop { Yt 0x0E 0x80 .dflt .dflt with d := .v 1, a := .v 7, b := .v 7, c := .v 7 }) (one [])).group 0).lane 0).pred 1 = true := by decide

/-- 04 R61: 464.0 is a tie and goes to 0x7E; 464.5 overflows to the NaN 0x7F with OF and NX. -/
theorem test_fcvt_e4m3 : res (.fcvt { Yt 0x15 0 .f32 .e4m3 with b := .none }) [(0, 2, 0x43E80000)] 0 0 = 0x7E ∧
    res (.fcvt { Yt 0x15 0 .f32 .e4m3 with b := .none }) [(0, 2, 0x43E84000)] 0 0 = 0x7F := by decide
theorem test_fcvt_e4m3_flags : (((run (.fcvt { Yt 0x15 0 .f32 .e4m3 with b := .none }) (one [(0, 2, 0x43E84000)])).group 0).lane 0).fflag = Fl.ov ||| Fl.nx := by decide
/-- 04 R63: 1.1 to .e4m3 under rsr. -/
theorem test_fcvt_rsr : res (.fcvt { Yt 0x15 0 .f32 .e4m3 with b := .none, rnd := .rsr, w2 := .t 0 .f32 .e4m3 (.v 8) }) [(0, 2, 0x3F8CCCCD), (0, 8, 0x80000000)] 0 0 = 0x39 ∧
    res (.fcvt { Yt 0x15 0 .f32 .e4m3 with b := .none, rnd := .rsr, w2 := .t 0 .f32 .e4m3 (.v 8) }) [(0, 2, 0x3F8CCCCD), (0, 8, 0x20000000)] 0 0 = 0x38 := by decide
/-- 1.5 + 2.5 = 4.0; -/
theorem test_fadd : res (.fadd (.v 0) (.v 1) (.v 2)) [(0, 1, 0x3FC00000), (0, 2, 0x40200000)] 0 0 = 0x40800000 := by decide
/-- 2^24 + 1 in .f32 is a tie and goes to the even 2^24 with NX. -/
theorem test_fadd_tie : res (.fadd (.v 0) (.v 1) (.v 2)) [(0, 1, 0x4B800000), (0, 2, 0x3F800000)] 0 0 = 0x4B800000 := by decide
/-- The fused product keeps what a rounded one would lose: (1 + 2^-12)^2 - (1 + 2^-11) = 2^-24. -/
theorem test_ffma_fused : res (.ffmaX (Xt 0x12 0 .dflt .f32)) [(0, 2, 0x3F800800), (0, 4, 0x3F800800), (0, 6, 0xBF801000)] 0 0 = 0x33800000 := by decide
theorem test_fmin_zero : res (.fmin (.v 0) (.v 1) (.v 2)) [(0, 1, 0), (0, 2, 0x80000000)] 0 0 = 0x80000000 := by decide
theorem test_fcmp_nan : (((run (.fcmpX { Yt 0x14 2 .dflt .f32 with d := .v 1 }) (one [(0, 2, 0x7FC00000), (0, 4, 0)])).group 0).lane 0).pred 1 = false ∧
    (((run (.fcmpX { Yt 0x14 2 .dflt .f32 with d := .v 1 }) (one [(0, 2, 0x7FC00000), (0, 4, 0)])).group 0).lane 0).fflag = Fl.nv := by decide
/-- 05 R98: 1/2 and the square root of 4. -/
theorem test_frcp : res (.frcp (.v 0) (.v 1)) [(0, 1, 0x40000000)] 0 0 = 0x3F000000 := by decide
theorem test_fsqrt : res (.fsqrt { Yt 0x16 0 .dflt .dflt with b := .none }) [(0, 2, 0x40800000)] 0 0 = 0x40000000 := by decide
/-- 05 R99: DOT4 of 0xFF and 0xFF unsigned, signed, and mixed. -/
theorem test_dot4_unsigned : res (.dot4 (Xt 0x18 0 .dflt .dflt)) [(0, 2, 0xFF), (0, 4, 0xFF)] 0 0 = 65025 := by decide
theorem test_dot4_signed : res (.dot4 (Xt 0x18 3 .dflt .dflt)) [(0, 2, 0xFF), (0, 4, 0xFF)] 0 0 = 1 ∧
    res (.dot4 (Xt 0x18 1 .dflt .dflt)) [(0, 2, 0xFF), (0, 4, 0xFF)] 0 0 = 0xFFFFFF01 := by decide
/-- FADD2.f16: 1.0 + 1.0 in the high half, 0.5 + 0.5 in the low. -/
theorem test_fadd2 : res (.fadd2 (Yt 0x17 0 .dflt .f16)) [(0, 2, 0x3C003800), (0, 4, 0x3C003800)] 0 0 = 0x40003C00 := by decide
/-- 08 R150: lane 1 takes lane 0's value, lane 0 keeps its own. -/
theorem test_gshfup : res (.gshfup { Yt 0x31 0 .dflt .dflt with b := .imm 9 }) [(0, 2, 1), (1, 2, 11)] 1 0 = 1 ∧
    res (.gshfup { Yt 0x31 0 .dflt .dflt with b := .imm 9 }) [(0, 2, 1), (1, 2, 11)] 0 0 = 1 := by decide
/-- 08 R151: a ballot of lanes 0 and 1. -/
theorem test_gvote_ballot : res (.gvoteX { Yt 0x32 2 .dflt .dflt with b := .none }) [(1, 2, 5)] 0 0 = 2 := by decide
theorem test_gred_sum : res (.gred (.v 0) (.v 2)) [(0, 2, 30), (1, 2, 12)] 1 0 = 42 := by decide
theorem test_gscan : res (.gscan { Yt 0x33 0 .dflt .dflt with b := .none }) [(0, 2, 30), (1, 2, 12)] 0 0 = 30 := by decide

/-- 06 R101: lane 1 has a true condition and goes 3 words on, lane 0 goes behind the branch. -/
theorem test_brc : (((run (.brc (.v 1) 3) (one [(1, 1, 1)])).group 0).lane 1).pc = 0x100C ∧ (((run (.brc (.v 1) 3) (one [(1, 1, 1)])).group 0).lane 0).pc = 0x1004 := by decide
theorem test_bru_divergent : (((run (.bru (.v 1) 3) (ofGroup ((grp [0, 1] [(1, 1, 1)]).setPriv 2))).group 0).tr 2).cause = BitVec.ofNat 8 cUniform := by decide
/-- 06 R102: the link is the address behind the call. -/
theorem test_call_link : res (.call (.v 4) 16) [] 0 4 = 0x1004 := by decide
/-- 06 R104, R105: a LOOP of 2 with its end 6 words on. -/
theorem test_loop_push : (((run (.loop { Ext.ofBase 0x24 (.lc 0) (.v 1) .none with w2 := .w 6 }) (one [(0, 1, 2), (1, 1, 2)])).group 0).lane 0).loops =
    [⟨0, 0x100C, 0x1018⟩] := by decide
theorem test_loop_end : ({ Lane.vacant with occupied := true, pc := 0x1018, lc := [(0, 2)], loops := [⟨0, 0x100C, 0x1018⟩] } : Lane).advance 0x1018 0x101C =
    { Lane.vacant with occupied := true, pc := 0x100C, lc := [(0, 1)], loops := [⟨0, 0x100C, 0x1018⟩] } := by decide
theorem test_exit : (((run .exit (one [])).group 0).lane 0).occupied = false := by decide
/-- 06 R107: 100 cycles from the issue. -/
theorem test_sleep : ((run (.sleep (.v 1)) (one [(0, 1, 100), (1, 1, 7)])).group 0).wait = .sleep 100 := by decide
/-- 18 R323: TRAP at level 0 is entered at level 2 with its PC and lanes. -/
theorem test_trap : let g := (run (.trapX { Ext.ofBase 0x27 .none .none .none with w2 := .t 9 .dflt .dflt (.v 0) }) (one [])).group 0
    g.priv = 2 ∧ (g.tr 2).cause = 0x13 ∧ (g.tr 2).addr = 9 ∧ (g.tr 2).pc = 0x1000 ∧ (g.tr 2).lanes = 3 := by decide
/-- 18 R325: RETT from a trap taken at level 0. -/
theorem test_rett : let s := run .trap (ofGroup (grp [0] [])) |> fun s => s.setGroup 0 ((s.group 0).setTr 2 { (s.group 0).tr 2 with cause := 0x11 })
    let g := (run (.rett (Ext.ofBase 0x27 .none .none .none)) s).group 0
    g.priv = 0 ∧ (g.lane 0).pc = 0x1000 ∧ g.act 2 = false := by decide
theorem test_mfs_priv : (((run (.mfsX { Ext.ofBase 0x28 (.v 0) .none .none with w2 := .w 0x100 }) (one [])).group 0).tr 2).cause = BitVec.ofNat 8 cPriv := by decide
/-- 01 R10: TSCR0 is a lane's own. -/
theorem test_mts_tscr : let s := run (.mts { Ext.ofBase 0x28 .none (.v 2) .none with w2 := .w 0x16 }) (lvl 2 [(0, 2, 5), (1, 2, 6)])
    s.sysRead 0 0 0x16 = 5 ∧ s.sysRead 0 1 0x16 = 6 := by decide
/-- 08 R154: XACQ of 10 rounds up to 16. -/
theorem test_xacq_waits : ((run (.xacq (.v 0) (.imm 15)) (ofGroup { grp [0] [] with k := { Kernel.zero with xq := true } })).group 0).wait = .xacq 16 (.v 0) 1 := by decide
theorem test_feclr : ((run (.feclr (Yt 0x2E 0 .dflt .dflt |> fun x => { x with d := .v 9, a := .none, b := .none })) (one [])).group 0).isEmpty 9 = true := by decide

/-! States that meet the hypotheses of the statements, clause by clause. -/

/-- A claim over the lanes of a mask is a claim over 32 lanes. -/
theorem allLanes {m : Mask} {P : Nat → Prop} (h : ∀ l < 32, m.has l = true → P l) : ∀ l, m.has l = true → P l := by
  intro l hl
  by_cases h32 : l < 32
  · exact h l h32 hl
  · have : m.has l = false := by unfold Mask.has; exact BitVec.getLsbD_of_ge _ _ (by omega)
    rw [this] at hl; cases hl

def u0 : State := one []
/-- The checks of an issue pass in u0. -/
def pass (i : Instr) (x : Ext) (srcs : List Src) (n : Nat) : Bool := decide ((u0.ctx i x).chk srcs x.d n = .ok)
/-- The same without a destination. -/
def passN (i : Instr) (x : Ext) (srcs : List Src) : Bool := decide ((u0.ctx i x).chk srcs .none 0 = .ok)
def B (maj : Nat) : Ext := Ext.ofBase maj (.v 0) (.v 2) (.v 4)
def a1 (x : Ext) : List Src := [x.srcA 1]
def ab (x : Ext) : List Src := [x.srcA 1, x.srcB 1]
def abc (x : Ext) : List Src := [x.srcA 1, x.srcB 1, x.srcC 1]

theorem wit_MovesCopyTheirSource :
    pass (.mov (.v 0) (.v 2)) (Ext.ofBase 0x02 (.v 0) (.v 2) .none) [(Ext.ofBase 0x02 (.v 0) (.v 2) .none).srcA 1] 1 ∧ pass (.movX (X 2)) (X 2) (a1 (X 2)) 1 ∧
    pass (.mov64 (X 2)) (X 2) [(X 2).srcA 2] 2 ∧ pass (.sel (X 2)) (X 2) (ab (X 2)) 1 := by decide
/-- In range at the last register below the bound, and beyond it. -/
theorem wit_IndexedMoves_in : let x := { X 2 with a := .v 60, d := .v 0 }
    let s := one [(0, 4, 3)]
    let c := s.ctx (.movx x) x
    let k := fun l => x.a.code + (c.rd32 l x.b).toNat
    c.chkBounds [x.b, x.d] = .ok ∧ c.chk [x.srcB 1] .none 0 = .ok ∧ (∀ l, c.en.has l = true → k l < c.g.bound ∧ c.g.isEmpty (k l) = false ∧ c.g.chkCopy l (k l) = .ok) ∧
    c.chk [x.srcB 1] x.d 1 = .ok := ⟨by decide, by decide, allLanes (by decide), by decide⟩
theorem wit_IndexedMoves_over : let x := { X 2 with a := .v 60, d := .v 0 }
    let s := one [(0, 4, 4)]
    let c := s.ctx (.movx x) x
    c.chkBounds [x.b, x.d] = .ok ∧ c.chk [x.srcB 1] .none 0 = .ok ∧ (c.overBound (fun l => x.a.code + (c.rd32 l x.b).toNat)).first = some 0 := by decide
theorem wit_IndexedMoves_write : let x := { X 2 with d := .v 60, a := .v 2, b := .v 4 }
    let c := u0.ctx (.movxw x) x
    c.chkBounds [x.a, x.b] = .ok ∧ c.chk [x.srcA 1] .none 0 = .ok ∧
    (∀ l, c.en.has l = true → x.d.code + (c.rd32 l x.a).toNat < c.g.bound ∧ c.g.isEmpty (x.d.code + (c.rd32 l x.a).toNat) = false) ∧ c.chk [x.srcB 1] .none 0 = .ok :=
  ⟨by decide, by decide, allLanes (by decide), by decide⟩
theorem wit_IndexedMoves_write_over : let x := { X 2 with d := .v 60, a := .v 2, b := .v 4 }
    let s := one [(1, 2, 4)]
    let c := s.ctx (.movxw x) x
    c.chkBounds [x.a, x.b] = .ok ∧ c.chk [x.srcA 1] .none 0 = .ok ∧ (c.overBound (fun l => x.d.code + (c.rd32 l x.a).toNat)).first = some 1 := by decide
theorem wit_IntegerForms :
    (∀ i ∈ [(Instr.iadd (.v 0) (.v 2) (.v 4), 3), (.isub (.v 0) (.v 2) (.v 4), 4), (.imul (.v 0) (.v 2) (.v 4), 5), (.imin (.v 0) (.v 2) (.v 4), 6)], pass i.1 (B i.2) (ab (B i.2)) 1 = true) ∧
    (∀ i ∈ [Instr.iaddX (X 3), .isubX (X 3), .imulX (X 3), .imulh (X 3), .iminX (X 3), .imax (X 3)], pass i (X 3) (ab (X 3)) 1 = true) ∧
    (∀ i ∈ [Instr.ineg (X 3), .iabs (X 3)], pass i (X 3) (a1 (X 3)) 1 = true) ∧ pass (.imad (X 3)) (X 3) (abc (X 3)) 1 := by decide
theorem wit_WideAndCarryForms :
    (∀ i ∈ [Instr.iadd64 (X 3), .isub64 (X 3)], pass i (X 3) [(X 3).srcA 2, (X 3).srcB 2] 2 = true) ∧ pass (.imad64 (X 3)) (X 3) [(X 3).srcA 2, (X 3).srcB 2, (X 3).srcC 2] 2 ∧
    pass (.lea (X 3)) (X 3) [(X 3).srcA 2, (X 3).srcB 1] 2 ∧ pass (.imulw (X 3)) (X 3) (ab (X 3)) 2 ∧ pass (.imadw (X 3)) (X 3) [(X 3).srcA 1, (X 3).srcB 1, (X 3).srcC 2] 2 ∧
    pass (.iaddc (X 3)) (X 3) (ab (X 3)) 1 ∧ pass (.isubb (X 3)) (X 3) (ab (X 3)) 1 := by decide
theorem wit_LogicForms :
    (∀ i ∈ [(Instr.and (.v 0) (.v 2) (.v 4), 7), (.or (.v 0) (.v 2) (.v 4), 8), (.xor (.v 0) (.v 2) (.v 4), 9)], pass i.1 (B i.2) (ab (B i.2)) 1 = true) ∧
    (∀ i ∈ [Instr.andX (X 7), .andn (X 7), .orX (X 7), .xorX (X 7)], pass i (X 7) (ab (X 7)) 1 = true) ∧ pass (.not (X 7)) (X 7) (a1 (X 7)) 1 ∧
    pass (.bfun (X 7)) (X 7) (abc (X 7)) 1 := by decide
theorem wit_Shifts :
    (∀ i ∈ [(Instr.shl (.v 0) (.v 2) (.v 4), 10), (.shr (.v 0) (.v 2) (.v 4), 11)], pass i.1 (B i.2) (ab (B i.2)) 1 = true) ∧
    (∀ i ∈ [Instr.shlX (X 10), .shrX (X 10), .sar (X 10), .rotl (X 10)], pass i (X 10) (ab (X 10)) 1 = true) ∧
    (∀ i ∈ [Instr.shl64 (X 10), .shr64 (X 10), .sar64 (X 10)], pass i (X 10) [(X 10).srcA 2, (X 10).srcB 1] 2 = true) ∧
    (∀ i ∈ [Instr.fshl (X 10), .fshr (X 10)], pass i (X 10) (abc (X 10)) 1 = true) := by decide
theorem wit_BitFields :
    pass (.bfx (.v 0) (.v 2) (.v 4)) (B 12) (ab (B 12)) 1 ∧ pass (.bfxX (X 12)) (X 12) (ab (X 12)) 1 ∧ pass (.bfi (X 12)) (X 12) (abc (X 12)) 1 ∧ pass (.bmsk (X 12)) (X 12) (a1 (X 12)) 1 ∧
    (∀ i ∈ [Instr.popcX (X 13), .clz (X 13), .ctz (X 13), .brev (X 13)], pass i (X 13) (a1 (X 13)) 1 = true) ∧ pass (.bytep (X 13)) (X 13) (abc (X 13)) 1 ∧
    pass (.popc (.v 0) (.v 2)) (Ext.ofBase 0x0D (.v 0) (.v 2) .none) [(Ext.ofBase 0x0D (.v 0) (.v 2) .none).srcA 1] 1 := by decide
theorem wit_Compares :
    passN (.icmp (.v 0) (.v 2) (.v 4)) (B 14) (ab (B 14)) ∧ passN (.icmpX (X 14)) (X 14) (ab (X 14)) ∧ passN (.icmp64 (X 14)) (X 14) [(X 14).srcA 2, (X 14).srcB 2] ∧
    passN (.plop (X 14)) (X 14) [] ∧ passN (.fcmp (.v 0) (.v 2) (.v 4)) (B 20) (ab (B 20)) ∧ passN (.fcmpX (Yt 20 0 .dflt .f64)) (Yt 20 0 .dflt .f64) [(X 14).srcA 2, (X 14).srcB 2] ∧
    passN (.fclass (Yt 20 0 .dflt .f64)) (Yt 20 0 .dflt .f64) [(X 14).srcA 2, (X 14).srcB 1] := by decide
/-- A value of each format is finite below the width, and a magnitude lies on a tie. -/
theorem wit_Rounding : (∀ f ∈ [Fmt.f64, Fmt.f32, Fmt.f16, Fmt.bf16, Fmt.e4m3, Fmt.e5m2], 1 < 2 ^ f.w ∧ ∃ m e, f.decode 1 = .fin false m e) ∧ 3 % 2 ^ 1 ≠ 0 ∧ 2 * (3 % 2 ^ 1) = 2 ^ 1 := by
  refine ⟨?_, by decide, by decide⟩
  intro f hf
  simp only [List.mem_cons, List.not_mem_nil, or_false] at hf
  rcases hf with h | h | h | h | h | h <;> subst h <;> exact ⟨by decide, _, _, rfl⟩
theorem wit_Conversions : let x := { Yt 0x15 0 .f32 .s32 with b := .none, rnd := .rsr, w2 := .t 0 .f32 .s32 (.v 8) }
    (∀ i ∈ [Instr.fcvt x, .fcvti x, .icvtf x, .frnd x], pass i x ([x.srcA (regsOf x.sty)] ++ (u0.ctx i x).rsrSrc) (dstOf x.dty).n = true) ∧
    pass (.cvti x) x [x.srcA (regsOf x.sty)] (dstOf x.dty).n ∧ pass (.fscale (X 21)) (X 21) ([(X 21).srcA (regsOf (X 21).dty), (X 21).srcB 1] ++ (u0.ctx (.fscale (X 21)) (X 21)).rsrSrc) 1 := by decide
theorem wit_FloatArithmetic : let x := { Xt 0x12 0 .dflt .f64 with rnd := .rsr, w2 := .t 0 .dflt .f64 (.v 8) }
    (∀ i ∈ [Instr.faddX x, .fsub x, .fmulX x, .fminX x, .fmax x, .fminn x, .fmaxn x], pass i x ([x.srcA 2, x.srcB 2] ++ (u0.ctx i x).rsrSrc) 2 = true) ∧
    (∀ i ∈ [(Instr.fadd (.v 0) (.v 2) (.v 4), 16), (.fmul (.v 0) (.v 2) (.v 4), 17), (.fmin (.v 0) (.v 2) (.v 4), 19)], pass i.1 (B i.2) (ab (B i.2)) 1 = true) ∧
    pass (.ffmaX x) x ([x.srcA 2, x.srcB 2, x.srcC 2] ++ (u0.ctx (.ffmaX x) x).rsrSrc) 2 ∧ pass (.ffma (.v 0) (.v 2) (.v 4)) (B 18) [(B 18).srcA 1, (B 18).srcB 1, Src.plain (.v 0) 1] 1 := by decide
theorem wit_SpecialFunctions : let x := { X 22 with rnd := .rtz }
    (∀ i ∈ [Instr.frcpX (X 22), .frsq (X 22), .fsqrt (X 22), .fex2 (X 22), .flg2 (X 22), .fsin (X 22), .fcos (X 22), .ftanh (X 22)],
      (u0.ctx i (X 22)).mode = .rne ∧ pass i (X 22) (a1 (X 22)) 1 = true) ∧ (u0.ctx (.frcpX x) x).mode ≠ .rne ∧
    (u0.ctx (.frcp (.v 0) (.v 2)) (Ext.ofBase 0x16 (.v 0) (.v 2) .none)).mode = .rne := by decide
theorem wit_PackedForms : let x := { Xt 0x17 0 .f16 .f16 with rnd := .rsr, w2 := .t 0 .f16 .f16 (.v 8) }
    pass (.fma2 x) x ([x.srcA 1, x.srcB 1, x.srcC 1] ++ (u0.ctx (.fma2 x) x).rsrSrc) 1 ∧ pass (.fadd2 x) x ([x.srcA 1, x.srcB 1] ++ (u0.ctx (.fadd2 x) x).rsrSrc) 1 ∧
    pass (.fmul2 x) x ([x.srcA 1, x.srcB 1] ++ (u0.ctx (.fmul2 x) x).rsrSrc) 1 ∧ pass (.fdot2 x) x ([x.srcA 1, x.srcB 1, x.srcC 1] ++ (u0.ctx (.fdot2 x) x).rsrSrc) 1 ∧
    pass (.dot4 x) x [x.srcA 1, x.srcB 1, x.srcC 1] 1 := by decide
/-- A cross-lane form in u0 with the mask 3 in C: the mask passes, and the sources pass in the participants. -/
def crossOk (i : Instr) (x : Ext) (srcs : List Src) (n : Nat) : Bool :=
  let c := (one [(0, 6, 3), (1, 6, 3)]).ctx i x
  decide (c.chk (if x.c = .none then [] else [x.srcC 1]) .none 0 = .ok) && decide (({ c with en := c.parts x.c }).chk srcs x.d n = .ok) && decide (c.maskChk x.c = none)
/-- The sources of a move that takes A from the lane k of the participant and its B. -/
def moved (x : Ext) (useB : Bool) (k : Nat → Nat → Nat) : List Src :=
  let c := (one [(0, 6, 3), (1, 6, 3)]).ctx (.gshfX x) x
  (x.srcA (regsOf x.dty)).over ((c.parts x.c).lanes.map (fun l => k (c.rd32 l x.b).toNat l)) :: (if useB then [x.srcB 1] else [])
theorem wit_LaneMoves :
    crossOk (.qxchX (X 48)) (X 48) (moved (X 48) false (fun _ l => 4 * (l / 4) + (X 48).imm / 4 ^ (l % 4) % 4)) 1 ∧
    crossOk (.qbc (X 48)) (X 48) (moved (X 48) true (fun b l => 4 * (l / 4) + b % 4)) 1 ∧ crossOk (.gshfX (X 48)) (X 48) (moved (X 48) true (fun b _ => b % 32)) 1 ∧
    crossOk (.gshfx (X 48)) (X 48) (moved (X 48) true (fun b l => l ^^^ (b % 32))) 1 ∧ crossOk (.gshfup (X 48)) (X 48) (moved (X 48) true (fun b l => if b ≤ l then l - b else l)) 1 ∧
    crossOk (.gshfdn (X 48)) (X 48) (moved (X 48) true (fun b l => if l + b ≤ 31 then l + b else l)) 1 ∧ crossOk (.gbcast (X 48)) (X 48) (moved (X 48) true (fun b _ => b % 32)) 1 ∧
    crossOk (.qxch (.v 0) (.v 2)) (Ext.ofBase 0x30 (.v 0) (.v 2) .none) (moved (Ext.ofBase 0x30 (.v 0) (.v 2) .none) false (fun _ l => 4 * (l / 4))) 1 ∧
    crossOk (.gshf (.v 0) (.v 2) (.v 4)) (B 49) (moved (B 49) true (fun b _ => b % 32)) 1 ∧
    (let c := (one []).ctx (.gbcast (X 48)) (X 48); allSame ((c.parts (X 48).c).lanes.map (fun l => c.rd32 l (X 48).b)) = true) := by decide
theorem wit_VotesAndReductions :
    (∀ i ∈ [Instr.gvoteX (X 50), .gmatch (X 50), .gredX (X 50), .gscan (X 50)], crossOk i (X 50) (a1 (X 50)) 1 = true) ∧
    (∀ i ∈ [Instr.gvote (.v 0) (.v 2), .gred (.v 0) (.v 2)], crossOk i (Ext.ofBase 0x32 (.v 0) (.v 2) .none) (a1 (X 50)) 1 = true) := by decide
theorem wit_Masks_differ : let s := one [(0, 6, 3), (1, 6, 1)]
    let c := s.ctx (.gshfX (X 49)) (X 49)
    (X 49).c ≠ .none ∧ c.chk [(X 49).srcC 1] .none 0 = .ok ∧ ({ c with en := c.parts (X 49).c }).chk [((X 49).srcA 1).over ((c.parts (X 49).c).lanes.map (fun l => (c.rd32 l (X 49).b).toNat % 32)), (X 49).srcB 1] (X 49).d 1 = .ok ∧
    c.en.has 0 = true ∧ c.en.has 1 = true ∧ c.rd32 0 (X 49).c ≠ c.rd32 1 (X 49).c := by decide
theorem wit_Masks_cover : let s := ofGroup ((grp [0, 1] [(0, 6, 3), (1, 6, 3)]).setLane 1 { Lane.vacant with occupied := true, pc := 0x2000 })
    let c := s.ctx (.gshfX (X 49)) (X 49)
    (X 49).c ≠ .none ∧ c.chk [(X 49).srcC 1] .none 0 = .ok ∧ ({ c with en := c.parts (X 49).c }).chk [((X 49).srcA 1).over ((c.parts (X 49).c).lanes.map (fun l => (c.rd32 l (X 49).b).toNat % 32)), (X 49).srcB 1] (X 49).d 1 = .ok ∧
    c.en ≠ 0 ∧ (∀ l, c.en.has l = true → c.rd32 l (X 49).c = 3) ∧ maskOf (fun l => (3 : Word).getLsbD l && (c.g.lane l).occupied && !c.en.has l) ≠ 0 :=
  ⟨by decide, by decide, by decide, by decide, allLanes (by decide), by decide⟩

theorem wit_Branches : let x := Ext.ofBase 0x21 (.v 1) .none .none
    let c := (one [(1, 1, 1)]).ctx (.brcX x) x
    c.chk [.plain x.d 1] .none 0 = .ok ∧ x.uni = false ∧ maskOf (fun l => c.en.has l && (!true || c.rd32 l x.d != 0)) ≠ 0 ∧
    maskOf (fun l => c.en.has l && (!true || c.rd32 l x.d != 0)) ≠ c.at_ := by decide
theorem wit_Branches_all : let c := u0.ctx (.bra 3) (branchBase 0x20 .none 3)
    c.chk [] .none 0 = .ok ∧ maskOf (fun l => c.en.has l && (!false || c.rd32 l .none != 0)) = c.at_ := by decide
theorem wit_Calls : let x := { X 35 with uni := true }
    let c := (one [(0, 2, 0x2000), (1, 2, 0x2000)]).ctx (.calli x) x
    c.chk [x.srcA 2] x.d 2 = .ok ∧ c.en = c.at_ ∧ allSame (c.en.lanes.map (fun l => c.rd64 l x.a)) = true ∧
    maskOf (fun l => c.en.has l && (c.rd64 l x.a).toNat % 4 != 0) = 0 := by decide
theorem wit_Calls_misaligned : let x := X 35
    let c := (one [(1, 2, 0x2002)]).ctx (.ret x) x
    c.chk [x.srcA 2] x.d 2 = .ok ∧ x.uni = false ∧ (maskOf (fun l => c.en.has l && (c.rd64 l x.a).toNat % 4 != 0)).first = some 1 := by decide
theorem wit_Calls_uniform : let x := { X 35 with uni := true }
    let c := (one [(1, 2, 0x2000)]).ctx (.jmpi x) x
    let y := { X 35 with uni := true, pred := 1 }
    let d := ((one []).setGroup 0 ((grp [0, 1] []).setLane 0 { Lane.vacant with occupied := true, pc := 0x1000, p := 0 })).ctx (.jmpi y) y
    c.chk [x.srcA 2] x.d 2 = .ok ∧ allSame (c.en.lanes.map (fun l => c.rd64 l x.a)) = false ∧ d.chk [y.srcA 2] y.d 2 = .ok ∧ d.en ≠ d.at_ := by decide
/-- A loop form on lc1. -/
def Lx : Ext := { Ext.ofBase 0x24 (.lc 1) (.v 1) .none with w2 := .w 6 }
theorem wit_Loops_push : let c := (one [(0, 1, 2), (1, 1, 2)]).ctx (.loop Lx) Lx
    Lx.d = .lc 1 ∧ c.chk [Lx.srcA 1] .none 0 = .ok ∧ c.en ≠ 0 ∧ maskOf (fun l => c.en.has l && ((c.g.lane l).loops.length == 4 || (c.g.lane l).loops.any (fun e => e.ctr == 1))) = 0 ∧
    (∀ l, c.en.has l = true → c.rd32 l Lx.a ≠ 0) := ⟨by decide, by decide, by decide, by decide, allLanes (by decide)⟩
/-- A lane with a loop on a counter. -/
def looped (n : Nat) (v : Nat) : Group :=
  (grp [0] []).setLane 0 { Lane.vacant with occupied := true, pc := 0x1000, lc := [(n, BitVec.ofNat 32 v)], loops := [⟨n, 0x1000, 0x1010⟩] }
theorem wit_Loops_full : let c := (ofGroup (looped 1 2)).ctx (.loop Lx) Lx
    maskOf (fun l => c.en.has l && ((c.g.lane l).loops.length == 4 || (c.g.lane l).loops.any (fun e => e.ctr == 1))) ≠ 0 := by decide
theorem wit_Loops_break : let c := (ofGroup (looped 1 2)).ctx (.brkl Lx) Lx
    maskOf (fun l => c.en.has l && !(c.g.lane l).loops.any (fun e => e.ctr == 1)) = 0 ∧
    maskOf (fun l => (u0.ctx (.brkl Lx) Lx).en.has l && !((u0.ctx (.brkl Lx) Lx).g.lane l).loops.any (fun e => e.ctr == 1)) ≠ 0 := by decide
/-- A leaf that grants everything, for the page at va. -/
def leafAt (va pa : Nat) : TlbEntry := { asid := 0, vbase := va, sz := 12, leaf := BitVec.ofNat 64 (pa + 31), world := 0 }
/-- The pages at 0x1000 and 0x2000 stand in die 0's memory above the private region. -/
def mapped (s : State) : State := s.setCore 0 { s.core 0 with tlb := [leafAt 0x1000 0x100001000, leafAt 0x2000 0x100002000] }
/-- The fetch answers. -/
def fetches (s : State) (gid : Nat) (va : DWord) (priv : Nat) : Bool := match s.fetchWord gid va priv with | .ok _ _ => true | _ => false
theorem fetched {s : State} {gid : Nat} {va : DWord} {priv : Nat} (h : fetches s gid va priv = true) : ∃ w u, s.fetchWord gid va priv = .ok w u := by
  unfold fetches at h; split at h
  · next w u hw => exact ⟨w, u, hw⟩
  · cases h
/-- Lane 0 skips, lane 1 enters. -/
theorem wit_Loops_skip : let s := mapped (one [(1, 1, 2)])
    let c := s.ctx (.loop Lx) Lx
    c.chk [Lx.srcA 1] .none 0 = .ok ∧ c.en ≠ 0 ∧ maskOf (fun l => c.en.has l && ((c.g.lane l).loops.length == 4 || (c.g.lane l).loops.any (fun e => e.ctr == 1))) = 0 ∧
    (∃ l, c.en.has l = true ∧ c.rd32 l Lx.a = 0) ∧ ∃ w u, s.fetchWord c.gid c.target c.g.priv = .ok w u :=
  ⟨by decide, by decide, by decide, ⟨0, by decide⟩, fetched (by decide)⟩
theorem wit_LoopEnd : let y := (looped 1 2).lane 0
    y.loops = [⟨1, 0x1000, 0x1010⟩] ∧ 1 < (Tab.get 0 y.lc 1).toNat ∧ (Tab.get 0 ((looped 1 1).lane 0).lc 1).toNat ≤ 1 := by decide
theorem wit_Exit_some : let s := ofGroup ((grp [0, 1] []).setLane 1 { Lane.vacant with occupied := true, pc := 0x2000 })
    let c := s.ctx .exit (.ofBase 0x25 .none .none .none)
    isSystem c.gid = false ∧ (c.g.lane 1).occupied = true ∧ c.en.has 1 = false := by decide
theorem wit_Exit_all : let c := u0.ctx .exit (.ofBase 0x25 .none .none .none)
    isSystem c.gid = false ∧ c.en ≠ 0 ∧ (∀ l, l < 32 → (c.g.lane l).occupied = true → c.en.has l = true) ∧ c.g.status = .running ∧ c.g.k.refill = false := by decide
theorem wit_Exit_system : isSystem ((sys []).ctx .exit (.ofBase 0x25 .none .none .none)).gid = true := by decide
/-- A launch of 4 by 2 by 1 items. -/
def La : Launch :=
  { seq := 1, vdev := 3, k := { Kernel.zero with refill := true }, asid := 0, ctxid := 9, level := 0, prio := 0, nx := 4, ny := 2, nz := 1, dieMask := 1, cwaddr := 0, cval := 7,
    savebase := 0, savecnt := 0, deps := [], home := 0, eligible := false, halted := false, placed := [], first := [], taken := [], cur := [], stolen := [], back := [], dry := [], recs := [] }
/-- The last lanes exit under refill, with items, with a chunk on its way, with neither. -/
theorem wit_Exit_refill : ∀ w ∈ [{ Workgroup.none with items := [3, 4], live := true }, { Workgroup.none with fetching := true, live := true }, { Workgroup.none with live := true }],
    let s : State := { ofGroup { grp [0] [] with launch := 1, wg := 5, k := La.k } with launches := [La], wgs := [(5, w)] }
    let c := s.ctx .exit (.ofBase 0x25 .none .none .none)
    isSystem c.gid = false ∧ c.en ≠ 0 ∧ (∀ l, l < 32 → (c.g.lane l).occupied = true → c.en.has l = true) ∧ c.g.status = .running ∧ c.g.k.refill = true ∧ s.launch? c.g.launch = some La := by decide
theorem wit_Rfl_waits : let s : State := { ofGroup { grp [0] [] with launch := 1, wg := 5, k := La.k } with wgs := [(5, { Workgroup.none with fetching := true, live := true })] }
    let c := s.ctx (.rfl (X 37)) (X 37)
    isSystem c.gid = false ∧ c.en ≠ 0 ∧ c.g.k.refill = true ∧ c.g.emptyLanes ≠ [] ∧ s.refillWaits c.gid = true := by decide
theorem wit_Rfl : let s : State := { ofGroup { grp [0] [] with launch := 1, wg := 5, k := La.k } with launches := [La], wgs := [(5, { Workgroup.none with items := [3, 4], live := true })] }
    let c := s.ctx (.rfl (X 37)) (X 37)
    isSystem c.gid = false ∧ c.en ≠ 0 ∧ c.g.k.refill = true ∧ c.g.emptyLanes ≠ [] ∧ s.refillWaits c.gid = false ∧ s.launch? c.g.launch = some La := by decide
theorem wit_Rfl_nothing : let c := u0.ctx (.rfl (X 37)) (X 37)
    isSystem c.gid = false ∧ c.g.k.refill = false := by decide
theorem wit_Sleeps : let c := (one [(0, 2, 100)]).ctx (.sleepX (X 38)) (X 38)
    c.chk [(X 38).srcA 1] .none 0 = .ok ∧ c.g.resume = none ∧ c.en ≠ 0 ∧ c.chk [(X 38).srcA 2] .none 0 = .ok := by decide
theorem wit_Sleeps_none : let x := { X 38 with pred := 0 }
    let c := u0.ctx (.sleepX x) x
    c.chk [x.srcA 1] .none 0 = .ok ∧ c.g.resume = none ∧ c.en = 0 := by decide
theorem wit_Sleeps_resumed : ((ofGroup { grp [0] [] with resume := some 90 }).ctx (.sleepX (X 38)) (X 38)).g.resume = some 90 := by decide
def sleeper (w : DWord) : State := { ofGroup { grp [0] [] with wait := .sleep w, waitLen := 4 } with clock := 100 }
theorem wit_SleepWake : ((sleeper 100).group 0).wait = .sleep 100 ∧ (100 : DWord).toNat ≤ (sleeper 100).clock ∧ (sleeper 101).clock < (101 : DWord).toNat ∧
    ((sleeper 100).group 0).issueAddr = some 0x1000 := by decide
/-- A group with traps in progress at some levels. -/
def acting (ms : List Nat) (p : Nat) : State := ofGroup ((ms.foldl (fun g m => g.setTr m { g.tr m with tstat := 1 }) (grp [0] [])).setPriv p)
theorem wit_TrapEntry_first : u0.trapLevel 0 cSoftware false = 2 ∧ (u0.group 0).act 2 = false ∧ isSystem 0 = false ∧ ((sys []).group 65536).world = 0 := by decide
theorem wit_TrapEntry_next : (acting [2] 2).trapLevel 0 cSoftware false = 2 ∧ ((acting [2] 2).group 0).act 2 = true ∧ ((acting [2] 2).group 0).act 3 = false := by decide
/-- A system core's group at level 1 in world 4, and one at level 2 that such a trap put there. -/
def inWorld : State := { sys [] with groups := [(65536, { Group.system.setPriv 1 with world := 4 })] }
theorem wit_TrapEntry_world : isSystem 65536 = true ∧ (inWorld.group 65536).world ≠ 0 ∧ inWorld.trapLevel 65536 cPreempt false ≤ 2 ∧ (inWorld.group 65536).act 2 = false ∧
    (∀ k, inWorld.trapLevel 65536 cPreempt false ≤ k → k < 2 → (inWorld.group 65536).act k = true) := by
  refine ⟨by decide, by decide, by decide, by decide, ?_⟩
  intro k h1 h2
  have : inWorld.trapLevel 65536 cPreempt false = 2 := by decide
  omega
theorem wit_TrapEntry_beyond : (acting [2, 3] 2).trapLevel 0 cSoftware false = 2 ∧ (∀ k, 2 ≤ k → k < 4 → ((acting [2, 3] 2).group 0).act k = true) ∧
    ((acting [2, 3] 2).core 0).mclog.getLsbD 63 = false := by
  refine ⟨by decide, ?_, by decide⟩
  intro k h1 h2
  have : k = 2 ∨ k = 3 := by omega
  rcases this with h | h <;> subst h <;> decide
theorem wit_TrapInstructions : let x := { X 39 with pred := 0 }
    (u0.ctx (.trapX (X 39)) (X 39)).en ≠ 0 ∧ (u0.ctx (.trapX x) x).en = 0 := by decide
theorem wit_Tfence : let x := Yt 39 0 .dflt .dflt
    let s := ofGroup ({ grp [0] [] with gsw := 0x00100000 }.setLane 0 { Lane.vacant with occupied := true, pc := 0x1000, fflag := 16 })
    let hit := fun (s : State) => maskOf (fun l => (s.ctx (.tfence x) x).en.has l && (((s.ctx (.tfence x) x).g.lane l).fflag &&& BitVec.ofNat 5 (s.ctx (.tfence x) x).g.aen) != 0)
    (s.passes.all (fun p => p.q.gid != 0)) = true ∧ hit s ≠ 0 ∧ hit u0 = 0 := by decide
/-- A handler at level 2 that returns from a trap of a cause at 0x2000. -/
def handler (cause : BitVec 8) : State :=
  mapped (ofGroup (((grp [0] []).setTr 2 { ((grp [0] []).tr 2) with cause := cause, lanes := 1, pc := 0x2000, tstat := 1 }).setPriv 2))
theorem wit_Rett : let s := handler 0x11
    let c := s.ctx (.rett (X 39)) (X 39)
    c.g.act c.g.priv = true ∧ c.en ≠ 0 ∧ isSystem c.gid = false ∧ (c.g.tr c.g.priv).cause.toNat ≠ 0x13 ∧ ((u0.ctx (.rett (X 39)) (X 39)).g.act 0) = false := by decide
theorem wit_Rett_software : let s := handler 0x13
    let c := s.ctx (.rett (X 39)) (X 39)
    (c.g.tr c.g.priv).cause.toNat = 0x13 ∧ ∃ w u, s.fetchWord c.gid (c.g.tr c.g.priv).pc (c.g.tr c.g.priv).priv.toNat = .ok w u := ⟨by decide, fetched (by decide)⟩
def outOfWorld : State := { inWorld.trap 65536 ⟨cPreempt, 1, 0, 0, none, false⟩ with cur := 65536 }
theorem wit_Rett_world : let c := outOfWorld.ctx (.rett (X 39)) (X 39)
    c.g.act c.g.priv = true ∧ c.en ≠ 0 ∧ isSystem c.gid = true ∧ c.g.priv = 2 ∧ (c.g.tr 2).cause.toNat ≠ 0x13 ∧
    (outOfWorld.hosts.find? (fun h => h.core == coreOf c.gid && h.g.world != 0)).isSome = true := by decide
theorem wit_Rett_none : let x := { X 39 with pred := 0 }
    let c := (handler 0x11).ctx (.rett x) x
    c.g.act c.g.priv = true ∧ c.en = 0 := by decide
/-- MFS and MTS of a register. -/
def S (n : Nat) : Ext := { Ext.ofBase 0x28 (.v 0) (.v 2) .none with w2 := .w (BitVec.ofNat 32 n) }
theorem wit_Mfs : (u0.ctx (.mfsX (S 0x100)) (S 0x100)).g.priv < sysReadLevel (S 0x100).wval ∧ sysReadLevel (S 0x00).wval ≤ (u0.ctx (.mfsX (S 0)) (S 0)).g.priv ∧
    pass (.mfsX (S 0)) (S 0) [] 2 = true ∧ (S 0x180).wval = 0x180 ∧ isSystem (u0.ctx (.mfsX (S 0x180)) (S 0x180)).gid = false ∧
    isSystem ((sys []).ctx (.mfsX (S 0x180)) (S 0x180)).gid = true := by decide
theorem wit_Mts : (∀ n ∈ [0x10, 0x11, 0x13, 0x19, 0x1C0, 0x1FF, 0x12, 0x1A, 0x160, 0x14, 0x38, 0x01, 0x16, 0x17, 0x20, 0x23, 0x100, 0x13F, 0x144, 0x147, 0x00, 0x200, 0x20F],
      let c := (lvl 3 []).ctx (.mts (S n)) (S n)
      sysWriteLevel n ≤ c.g.priv ∧ c.chk [(S n).srcA 2] .none 0 = .ok ∧ c.en.first = some 0) ∧
    (let c := (sys []).ctx (.mts (S 0x180)) (S 0x180); sysWriteLevel 0x180 ≤ c.g.priv ∧ c.en.first = some 0) ∧ 0 < sysWriteLevel 0x100 := by decide
theorem wit_Ipf : let s := mapped (one [(0, 2, 0x2000), (1, 2, 0x1000)])
    let x := Ext.ofBase 0x29 .none (.v 2) .none
    let c := s.ctx (.ipf (.v 2)) x
    c.chk [x.srcA 2] .none 0 = .ok ∧ c.en ≠ 0 ∧ (∀ l, c.en.has l = true → s.translate c.gid c.g.k.casid (c.rd64 l x.a).toNat .fetch c.g.priv ≠ .miss) :=
  ⟨by decide, by decide, allLanes (by decide)⟩
theorem wit_Ipf_reads : let s := (mapped (ofGroup (grp [0] [(0, 2, 0x2000)]))).setDie 0 { Die.reset with l2here := (List.range 4).map (fun k => (0x1000020 + k, true)) }
    let c := s.ctx (.ipf (.v 2)) (Ext.ofBase 0x29 .none (.v 2) .none)
    (s.ipfSectors c.gid 0 ((s.ipfBlocks c (fun l => (c.rd64 l (.v 2)).toNat)).flatMap (fun b => [0, 1, 2, 3].map (fun k => b * 1024 + 256 * k)))).isSome = true := by decide
theorem wit_FetchFence :
    (u0.ctx (.fencei (X 41)) (X 41)).en ≠ 0 ∧ u0.acqOut 0 = false ∧ (∀ r ∈ u0.reqs, r.gid = 0 → r.op ≠ .store) := by decide
theorem wit_Wfi : let c := (sys []).ctx (.wfiX (X 42)) (X 42)
    isSystem c.gid = true ∧ 1 ≤ c.g.priv ∧ c.chk [(X 42).srcA 2] .none 0 = .ok ∧ c.en.first = some 0 ∧ ((sys []).core (coreOf c.gid)).wakeHeld = false := by decide
/-- A system core that waits. -/
def waiter : State := (sys []).setGroup 65536 { (sys []).group 65536 with wait := .wfi 50 }
theorem wit_Wake : (waiter.group (2048 * 32)).wait = .wfi 50 ∧ isSystem (2048 * 32) = true ∧ (∀ d, ((sys []).group (2048 * 32)).wait ≠ .wfi d) ∧
    (50 : DWord).toNat ≤ ({ waiter with clock := 50 } : State).clock := ⟨by decide, by decide, (by intro d h; cases h), by decide⟩
theorem wit_Wfi_low : let s := (sys []).setGroup 65536 (((sys []).group 65536).setPriv 0)
    isSystem (s.ctx (.wfiX (X 42)) (X 42)).gid = true ∧ (s.ctx (.wfiX (X 42)) (X 42)).g.priv = 0 ∧ isSystem (u0.ctx (.wfiX (X 42)) (X 42)).gid = false := by decide
theorem wit_Tlbi : let x := Xt 43 0 .dflt .dflt
    let c := (lvl 2 []).ctx (.tlbiX x) x
    2 ≤ c.g.priv ∧ c.chk [x.srcA 2, x.srcB 1] .none 0 = .ok ∧ maskOf (fun l => c.en.has l && c.g.foreign (c.rd32 l x.b).toNat) = 0 ∧ c.en ≠ 0 ∧
    (u0.ctx (.tlbiX x) x).g.priv < 1 := by decide
theorem wit_Tlbi_foreign : let x := Xt 43 1 .dflt .dflt
    let c := (lvl 1 [(1, 4, 6)]).ctx (.tlbiX x) x
    1 ≤ c.g.priv ∧ c.chk [x.srcB 1] .none 0 = .ok ∧ (maskOf (fun l => c.en.has l && c.g.foreign (c.rd32 l x.b).toNat)).first = some 1 := by decide
/-- Kind 2 with bits above the identifier, and without. -/
theorem wit_Tlbi_world : let x := Xt 43 2 .dflt .dflt
    let c := fun n => (lvl 2 [(1, 4, n)]).ctx (.tlbiX x) x
    2 ≤ (c 0).g.priv ∧ (∀ n ∈ [4095, 4096], (c n).chk [x.srcB 1] .none 0 = .ok) ∧ x.imm % 4 = 2 ∧
    (maskOf (fun l => (c 4096).en.has l && decide (4096 ≤ ((c 4096).rd32 l x.b).toNat))).first = some 1 ∧
    maskOf (fun l => (c 4095).en.has l && decide (4096 ≤ ((c 4095).rd32 l x.b).toNat)) = 0 := by decide
theorem wit_Genb : let x := Yt 43 0 .dflt .dflt
    let c := (lvl 2 []).ctx (.genb x) x
    1 ≤ c.g.priv ∧ c.chk [x.srcA 1] x.d 1 = .ok ∧ c.en ≠ 0 ∧ (∀ l, c.en.has l = true → c.g.foreign (c.rd32 l x.a).toNat = false) ∧ (u0.ctx (.genb x) x).g.priv = 0 :=
  ⟨by decide, by decide, by decide, allLanes (by decide), by decide⟩
theorem wit_GenbCompletion : let s := ofGroup { grp [0] [] with wait := .genb (.v 8) [(0, 1)] [(0, 0)] }
    (s.group 0).wait = .genb (.v 8) [(0, 1)] [(0, 0)] ∧ ([(0, (1 : Word))].map Prod.fst).Nodup ∧ (∀ p ∈ [(0, (1 : Word))], p.1 < 32) ∧ s.genbDue 0 = true := by decide
theorem wit_Xacq : let x := { X 44 with a := .v 2 }
    let c := fun (s : State) => s.ctx (.xacqX x) x
    let s := ofGroup { grp [0] [(0, 2, 10)] with ext := 16 }
    let s2 := ofGroup { grp [0] [(0, 2, 17)] with ext := 16, k := { Kernel.zero with xq := true } }
    let s3 := ofGroup { grp [0] [(0, 2, 17)] with ext := 16 }
    (∀ t ∈ [s, s2, s3], (c t).chk [x.srcA 1] x.d 1 = .ok ∧ (c t).en.first = some 0) ∧ ((c s).rd32 0 x.a).toNat ≤ 128 ∧ (10 + 15) / 16 * 16 ≤ (c s).g.ext ∧ (c s2).g.ext < (17 + 15) / 16 * 16 ∧
    (c s2).g.k.xq = true ∧ (c s3).g.k.xq = false ∧ (c s3).g.k.ext < (17 + 15) / 16 * 16 ∧ isSystem (c s3).gid = false := by decide
theorem wit_Xacq_system : let s := { State.reset with groups := [(65536, { Group.system.wrReg 0 2 17 with ext := 16 })] }
    let x := { X 44 with a := .v 2 }
    let c := s.ctx (.xacqX x) x
    c.chk [x.srcA 1] x.d 1 = .ok ∧ c.en.first = some 0 ∧ (c.rd32 0 x.a).toNat = 17 ∧ c.g.ext < 32 ∧ isSystem c.gid = true := by decide
theorem wit_XacqGrant : let s := (ofGroup { grp [0] [] with wait := .xacq 16 (.v 8) 1 }).setCore 0 { Core.reset with xacqs := [0] }
    (s.group 0).wait = .xacq 16 (.v 8) 1 ∧ s.xacqDue 0 = true ∧ (s.group 0).ext ≤ 16 := by decide
theorem wit_Shrink : let s := ofGroup { grp [0] [] with ext := 32 }
    let c := s.ctx (.xrel (X 44)) (X 44)
    c.en ≠ 0 ∧ s.runBusy c.gid 64 32 = false ∧ c.chk [(X 44).srcA 1] (X 44).d 1 = .ok := by decide
theorem wit_Slots : let x := { Yt 45 0 .dflt .dflt with d := .oc 7, b := .none }
    let c := u0.ctx (.ocld x) x
    c.chk [(x.srcA 1).over laneList] .none 0 = .ok ∧ c.en ≠ 0 := by decide
theorem wit_FullEmpty : let x := { Yt 45 3 .dflt .dflt with d := .v 60 }
    let y := { x with d := .v 61 }
    let c := u0.ctx (.feset x) x
    c.en ≠ 0 ∧ x.d.code + (x.imm % 64 + 1) ≤ c.g.bound ∧ u0.runBusy c.gid x.d.code 4 = false ∧ (u0.ctx (.feset y) y).g.bound < y.d.code + (y.imm % 64 + 1) ∧
    (∀ i < 4, c.g.isEmpty (x.d.code + i) = false) := by decide

/-- A gang of group 0 alone with wire tag 2. -/
def Ga : Gang := { id := 1, launch := 1, vdev := 0, die := 0, core := 0, members := 1, idx := 0, record := 0, wire := some 2, wgs := [5], groups := [0] }
/-- Group 0 in that gang, with 64 bytes of scratchpad, the row at 16 tagged. -/
def ganged (g : Group) : State :=
  { ofGroup { g with gang := 1, wg := 5, launch := 1 } with
    gangs := [Ga], wgs := [(5, { Workgroup.none with gang := 1, size := 64, live := true })], cores := [(0, { Core.reset with bar := [(1, true)] })] }
theorem wit_Barriers_tree : let s := ganged (grp [0, 1] [])
    let c := s.ctx (.gbarX (X 52)) (X 52)
    isSystem c.gid = false ∧ s.wireOf c.gid = some (0, 2) ∧ c.en ≠ 0 ∧ c.en = c.at_ ∧ c.g.live &&& ~~~c.at_ = 0 ∧ c.g.arr = false ∧ s.arrivalHeld c.gid = false := by decide
theorem wit_Barriers_uniform : let s := ganged ((grp [0, 1] []).setLane 1 { Lane.vacant with occupied := true, pc := 0x1000, p := 0x7F })
    let x := { X 52 with pred := 1 }
    let c := s.ctx (.gbarX x) x
    c.en ≠ 0 ∧ c.en ≠ c.at_ := by decide
theorem wit_Barriers_mask : let s := ganged ((grp [0, 1] []).setLane 1 { Lane.vacant with occupied := true, pc := 0x2000 })
    let c := s.ctx (.gbarX (X 52)) (X 52)
    c.en ≠ 0 ∧ c.en = c.at_ ∧ c.g.live &&& ~~~c.at_ ≠ 0 := by decide
theorem wit_PhaseComplete : let s := (ganged { grp [0] [] with wait := .tree, arr := true }).setDie 0 { Die.reset with wires := [(2, { gang := some 1, arrivals := 1 })] }
    s.phaseDue 0 2 = some Ga ∧ 0 ∈ Ga.groups ∧ (s.group 0).wait = .tree := by decide
theorem wit_Barriers_rows : let s := ganged (grp [0] [(0, 2, 16), (0, 4, 1)])
    let x := Yt 53 0 .dflt .dflt
    let c := s.ctx (.barv x) x
    c.chk [x.srcA 1, x.srcB 1] x.d 1 = .ok ∧ c.en.lanes = [0] ∧ s.rowChk c.gid (c.rd32 0 x.a).toNat true = 0 ∧ s.spadAt c.gid (c.rd32 0 x.a).toNat 16 = some (0, 16) ∧
    s.arrivalHeld c.gid = false ∧ s.windowOut c.gid = false ∧ s.rowChk c.gid 48 false = 0 ∧ s.spadAt c.gid 48 16 = some (0, 48) := by decide
theorem wit_Barriers_denied : let s := ganged (grp [0, 1] [(0, 2, 48), (1, 2, 64)])
    let x := Yt 53 0 .dflt .dflt
    let c := s.ctx (.bwait x) x
    let fails := fun k => maskOf (fun l => c.en.has l && s.rowChk c.gid (c.rd32 l x.a).toNat true == k)
    c.chk [x.srcA 1, x.srcB 1] .none 1 = .ok ∧ fails 1 = 0 ∧ fails 2 = 3 ∧ (fails 2).first = some 0 := by decide
theorem wit_Barriers_misaligned : let s := ganged (grp [0] [(0, 2, 24)])
    let x := Yt 53 0 .dflt .dflt
    let c := s.ctx (.bwait x) x
    (maskOf (fun l => c.en.has l && s.rowChk c.gid (c.rd32 l x.a).toNat true == 1)).first = some 0 := by decide

/-- A memory form at scope grp with a width. -/
def M (maj : Nat) (w : Wid) : Ext := { B maj with w2 := .m .grp .none .rlx .ca w 0 }
/-- Lanes 0 and 1 with addresses 0x2000 and 0x2008. -/
def addressed : State := mapped (one [(0, 2, 0x2000), (1, 2, 0x2008), (0, 4, 7), (1, 4, 9)])
def acc0 (l : Nat) : LaneAcc := { lane := l, ea := 0x2000 + 8 * l, pa := 0x100002000 + 8 * l, dev := false }
theorem wit_Loads : let s := addressed
    let x := M 0x38 .b64
    let c := s.ctx (.ldX x) x
    c.chk [x.srcA 2] x.d (regsOfBytes 8) = .ok ∧ c.en ≠ 0 ∧ s.acqOut c.gid = false ∧ (∀ l, c.en.has l = true → s.laneChk c l (wrapInt 64 ((c.rd64 l x.a).toNat + x.off)) 8 .load = .ok (acc0 l)) ∧
    (∀ l, c.en.has l = true → (acc0 l).lane = l ∧ (acc0 l).ea = wrapInt 64 ((c.rd64 l x.a).toNat + x.off)) :=
  ⟨by decide, by decide, by decide, allLanes (by decide), allLanes (by decide)⟩
theorem wit_Loads_misaligned : let s := mapped (one [(0, 2, 0x2000), (1, 2, 0x2004)])
    let x := M 0x38 .b64
    let c := s.ctx (.ldX x) x
    (maskOf (fun l => c.en.has l && wrapInt 64 ((c.rd64 l x.a).toNat + x.off) % 8 != 0)).first = some 1 ∧ c.chk [x.srcA 2] x.d (regsOfBytes 8) = .ok ∧ s.acqOut c.gid = false ∧
    (∀ k, c.en.has k = true → s.laneChk c k (wrapInt 64 ((c.rd64 k x.a).toNat + x.off)) 8 .load ≠ .miss) := ⟨by decide, by decide, by decide, allLanes (by decide)⟩
/-- Register windows: lane 0 at core 0's own SPAD window. -/
theorem wit_Loads_window : let s := { one [(0, 2, 0x100000)] with groups := [(0, (grp [0] [(0, 2, 0x100000)]).setPriv 2)] }
    let x := M 0x38 .b32
    let c := s.ctx (.ldw x) x
    s.winChk c 0 0x100000 4 false = .ok { lane := 0, ea := 0x100000, pa := 0x0F0000100000, dev := false } ∧ s.winChk c 0 0x100000 4 true ≠ .miss ∧ wrapInt 64 ((c.rd64 0 x.a).toNat + x.off) = 0x100000 := by decide
theorem wit_Scratchpad : let s := ganged (grp [0] [(0, 2, 60)])
    let x := M 0x38 .b32
    let c := s.ctx (.lds x) x
    c.chk [x.srcA 1] x.d (regsOfBytes 4) = .ok ∧ c.en ≠ 0 ∧ s.acqOut c.gid = false ∧ s.windowOut c.gid = false ∧ s.holdStore c.gid x.ord x.scope 0 = false ∧
    (∀ l, c.en.has l = true → wrapInt 32 ((c.rd32 l x.a).toNat + x.off) % 4 = 0 ∧ s.spadAt c.gid (wrapInt 32 ((c.rd32 l x.a).toNat + x.off)) 4 = some (0, 60) ∧ (s.core 0).tagged 60 = false ∧
      (s.core 0).spadBad 60 4 = false) :=
  ⟨by decide, by decide, by decide, by decide, by decide, allLanes (by decide)⟩
theorem wit_Stores : let s := addressed
    let x := M 0x39 .b64
    let c := s.ctx (.stX x) x
    c.chk [x.srcA 2, x.srcB (regsOfBytes 8)] .none 0 = .ok ∧ c.en ≠ 0 ∧ s.holdStore c.gid x.ord x.scope (c.en.lanes.length * halvesOf 8) = false ∧
    (∀ l, c.en.has l = true → s.laneChk c l (wrapInt 64 ((c.rd64 l x.a).toNat + x.off)) 8 .store = .ok (acc0 l)) := ⟨by decide, by decide, by decide, allLanes (by decide)⟩
/-- A request of group 0 to die 0's memory. -/
def rq (op : ReqOp) : Req :=
  { u0.blankReq (u0.ctx .nop (X 1)) 0 with
    id := 5, op := op, tgt := .mem 0, pa := 0x100002000, lpa := 0x100002000, data := 0x11223344, dst := .v 8, members := [⟨0, 1, 5, 0⟩, ⟨1, 1, 6, 0⟩] }
def asked (r : Req) : State := { u0 with reqs := [r] }
/-- A store of space 0 that has left bytes in its core's L1. -/
theorem wit_Genb_ahead : let s := (asked (rq .store)).setCore 0 { Core.reset with l1d := [((rq .store).sector, Sector.absent)] }
    s.bytesAhead [0] = true ∧ u0.bytesAhead [0] = false := by decide
theorem wit_Home : ∀ op ∈ [ReqOp.store, .load, .atomic .add .s32], (asked (rq op)).req? 5 = some (rq op) ∧ (rq op).tgt = .mem 0 ∧ (asked (rq op)).performable (rq op) = true ∧
    (asked (rq op)).homeRefuses 0 (rq op).lpa (rq op).level (rq op).asid (rq op).gen (rq op).world ((rq op).isLoad || (rq op).isAtomic) = none ∧
    (∀ i < 8, tagByte ((rq op).lpa + i) = false) := by decide
theorem wit_Home_refuses : let r := { rq .store with lpa := 0x1000 }
    ((asked r).homeRefuses 0 r.lpa r.level r.asid r.gen r.world false).isSome = true ∧ (asked r).performable r = true := by decide
/-- A load waits for an earlier store of its group to the same bytes. -/
theorem wit_Home_waits : let r := { rq .load with id := 6 }
    let s := { u0 with reqs := [rq .store, r] }
    s.req? 6 = some r ∧ r.tgt = .mem 0 ∧ s.performable r = false := by decide
theorem wit_Atomics : let s := addressed
    let x := { M 0x3A .b64 with c := .v 6 }
    let c := s.ctx (.acas x) x
    c.chk ([x.srcA 2, x.srcB 2] ++ [x.srcC 2]) x.d 2 = .ok ∧ c.en ≠ 0 ∧ s.holdStore c.gid x.ord x.scope c.en.lanes.length = false ∧
    (∀ l, c.en.has l = true → s.laneChk c l (wrapInt 64 ((c.rd64 l x.a).toNat + x.off)) 8 .atomic = .ok (acc0 l)) := ⟨by decide, by decide, by decide, allLanes (by decide)⟩
/-- The configuration window of the root port of port 3, which answers. -/
theorem wit_Returns : (∀ r ∈ [{ rq .load with performed := true, result := [(0, 7)] }, { rq (.atomic .add .s32) with performed := true }, { rq .store with performed := true, dst := .none },
      { rq .load with performed := true, tgt := .pcie 3, pa := 0x0C3000000000 }, { rq .store with performed := true, dst := .none, tgt := .remote 3 }],
      (asked r).req? 5 = some r ∧ r.performed = true ∧ r.pa ≤ 2 ^ 64) ∧ u0.answers 3 0x0C3000000000 = true ∧
    (u0.setIo 32 { IoDie.reset with removed := [(3, true)] }).answers 3 0x0C3000100000 = false ∧ (rq .load).since + 2 ^ 23 ≤ ({ u0 with cycles := 2 ^ 23 }).cycles ∧
    u0.cycles < (rq .load).since + 2 ^ 23 := by decide
theorem wit_Fences : let x := { Ext.ofBase 0x3B .none .none .none with w2 := .m .sys .none .ar .ca .b32 0 }
    (u0.ctx (.fenceX x) x).en ≠ 0 ∧ u0.fenceWaits 0 x.ord x.scope = false ∧ (asked (rq .load)).fenceWaits 0 x.ord x.scope = true ∧ 8 ≤ x.scope.rank := by decide
theorem wit_Cache : let s := addressed
    let x := { M 0x3B .b32 with w2 := .m .die .none .rlx .ca .b32 0 }
    let c := s.ctx (.cwb x) x
    c.chk [x.srcA 2] .none 0 = .ok ∧ c.en ≠ 0 ∧ s.acqOut c.gid = false ∧ s.relHeld c.gid = false ∧ (∀ l, c.en.has l = true → s.cacheChk c l (wrapInt 64 ((c.rd64 l x.a).toNat + x.off)) = .ok (acc0 l)) ∧
    (∀ l, c.en.has l = true → s.prefChk c l (wrapInt 64 ((c.rd64 l x.a).toNat + x.off)) = .ok (acc0 l)) := ⟨by decide, by decide, by decide, by decide, allLanes (by decide), allLanes (by decide)⟩
/-- A page of 64 KiB. -/
def bigLeaf : TlbEntry := { asid := 0, vbase := 0x20000, sz := 16, leaf := BitVec.ofNat 64 (0x100020000 + 31 + 4 * 2 ^ 59), world := 0 }
/-- A window of 64 KiB, SZ 16, FADE 1. -/
theorem wit_Cpin : let b := 2 ^ 16 + 16 * 4
    let s := (ofGroup (grp [0] [(0, 2, 0x20000), (0, 4, b)])).setCore 0 { Core.reset with tlb := [bigLeaf] }
    let x := M 0x3B .b32
    let c := s.ctx (.cpin x) x
    c.chk [x.srcA 2, x.srcB 1] x.d 1 = .ok ∧ c.en.first = some 0 ∧ s.acqOut c.gid = false ∧ s.translate c.gid c.g.asid 0x20000 .load c.g.priv = .ok 0x100020000 false bigLeaf ∧
    pinOk b = true ∧ 0x20000 % 2 ^ bitsOf b 7 2 = 0 ∧ bitsOf b 7 2 ≤ bigLeaf.sz ∧ (List.range 16).find? (fun w => !(Tab.get 0 (s.die 0).lkctl w).getLsbD 0) = some 0 := by decide
/-- An operand whose reserved bits are set, and a die without a free window. -/
theorem wit_Cpin_refused : let x := M 0x3B .b32
    let t := fun b => (ofGroup (grp [0] [(0, 2, 0x20000), (0, 4, b)])).setCore 0 { Core.reset with tlb := [bigLeaf] }
    let full := (t (2 ^ 16 + 64)).setDie 0 { Die.reset with lkctl := (List.range 16).map (fun w => (w, 1)) }
    (∀ s ∈ [t 1, full], let c := s.ctx (.cpin x) x
      c.chk [x.srcA 2, x.srcB 1] x.d 1 = .ok ∧ c.en.first = some 0 ∧ s.acqOut c.gid = false ∧ s.translate c.gid c.g.asid 0x20000 .load c.g.priv = .ok 0x100020000 false bigLeaf) ∧
    pinOk 1 = false ∧ (List.range 16).all (fun w => (Tab.get 0 (full.die 0).lkctl w).getLsbD 0) = true := by decide
theorem wit_Cunpin : let s := (one [(0, 2, 15), (1, 2, 15)]).setDie 0 { Die.reset with lkctl := [(15, 0x0000000300000001)] }
    let x := M 0x3B .b32
    let c := s.ctx (.cunpin x) x
    c.chk [x.srcA 1] .none 0 = .ok ∧ c.en.first = some 0 ∧ (∀ k, c.en.has k = true → (c.rd32 k x.a).toNat = 0 * 2 ^ 8 + 15) ∧ (Tab.get 0 (s.die 0).lkctl 15).getLsbD 0 = true ∧
    bitsOf (Tab.get 0 (s.die 0).lkctl 15).toNat 15 8 = c.g.vdev.toNat ∧ Tab.get false (s.die 0).lkhit 15 = false := ⟨by decide, by decide, allLanes (by decide), by decide, by decide, by decide⟩

/-- 464 lies between 448 and 480, the next value were .e4m3 unbounded (04 R61); 896 lies beyond, 1 below. -/
theorem wit_Overflow : let b := 2 ^ (5 - 4 : Int).toNat
    14 * b < 29 * 2 ^ (4 - 5 : Int).toNat ∧ 29 * 2 ^ (4 - 5 : Int).toNat < (14 + 1) * b ∧ (roundMag .rne 0 false 29 (5 - 4 : Int).toNat).1 = 14 ∧
    (roundMag .rup 0 false 29 (5 - 4 : Int).toNat).1 = 15 ∧ (14 + 1) * 2 ^ (5 - 7 : Int).toNat ≤ 7 * 2 ^ (7 - 5 : Int).toNat ∧
    1 * 2 ^ (0 - 5 : Int).toNat ≤ 14 * 2 ^ (5 - 0 : Int).toNat := by decide
theorem wit_ToInt : Ty.s8.minInt ≤ (5 : Int) ∧ (5 : Int) ≤ Ty.s8.maxInt ∧ (roundMag .rne 0 true 600 1).1 = 300 ∧ (-300 : Int) < Ty.s8.minInt ∧ Ty.s8.maxInt < (300 : Int) := by decide
theorem wit_MinMax : let d := Fmt.f32.decode
    (d 0x7FC00001).isNan = true ∧ (d 0x7F800001).isSnan = true ∧ (d 0).isNan = false ∧ (d 0x80000000).isZero = true ∧ (d 0).isZero = true ∧ (d 0x3F800000).lt (d 0x40000000) = true := by decide
theorem wit_Segment : Fmt.f32.decode 0x40000000 = .fin false (2 ^ 23) (-22) ∧ Fmt.f32.decode 0xFF800000 = .inf true ∧ (Fmt.f32.decode 0x7FC00000).isNan = true ∧
    Fmt.f32.decode (lutWord [] 0) = .fin false 0 (-149) := by decide

/-! The matrix path. -/

/-- Both pages, tile 5 of core 0 under ac0 and owned by the group, of a kind. -/
def tiled (k : TileKind) (rs : List (Nat × Nat × Nat)) : State :=
  let g := { grp [0, 1] rs with ac0 := 5, ac1 := 0xFF }
  (ofGroup g).setCore 0 { Core.reset with tlb := [leafAt 0x1000 0x100001000, leafAt 0x2000 0x100002000], tiles := [(5, { Tile.reset with own := 1#1 ++ 0#16, kind := k })] }
/-- Lanes 0 and 1 with the A row at 0x2000 (128 bytes on for each lane) and B at 0x2000 with a stride. -/
def mats (k : TileKind) (st : Nat) : State :=
  tiled k [(0, 2, 0x2000), (1, 2, 0x2000), (0, 4, 0x2000), (1, 4, 0x2000), (0, 6, 0x00800000 + st), (1, 6, 0x00800000 + st)]
def Mx : Ext := { X 60 with w2 := .x 0 false false false false false false (.v 8) (.v 10) }
/-- The rows of a lane pass its checks. -/
def rowPasses (r : RowChk) : Bool := match r with | .ok _ => true | _ => false
def rowOf (r : RowChk) : List Nat := match r with | .ok l => l | _ => []
theorem rowOf_ok {r : RowChk} (h : rowPasses r = true) : r = .ok (rowOf r) := by
  cases r <;> first | rfl | (cases h)
theorem wit_MatrixIssues : ∀ f ∈ [(Instr.mma Mx, PassKind.mma, TileKind.f32), (.mmaq Mx, .mmaq, .f32), (.mmai Mx, .mmai, .s32)],
    let s := mats f.2.2 (if f.2.1 = .mma then 64 else 32)
    let c := s.ctx f.1 Mx
    isSystem c.gid = false ∧ c.chk (c.mmaSrcs Mx f.2.1) .none 0 = .ok ∧ c.en ≠ 0 ∧ c.g.tileOf Mx.d = some 5 ∧ s.ownsTile (coreOf c.gid) 5 c.g.ctxid = true ∧
    (s.tile (coreOf c.gid) 5).kind = f.2.2 ∧ c.unevenQuarters Mx (Ext.mmaX Mx f.2.1) = 0 ∧ s.holdLoad c.gid = false ∧ (Ext.mmaX Mx f.2.1).bs = false ∧
    (∀ l, l < 32 → c.en.has l = true → Tab.get false (s.tile (coreOf c.gid) 5).bad l = false ∧ rowPasses (s.mmaRow c Mx f.2.1 (Ext.mmaX Mx f.2.1) (.ok []) l) = true) := by decide
/-- A pass of lane 8 that MMAI of lanes 0 and 1 may join. -/
def Jo : Pass :=
  let s := mats .s32 32
  let c := s.ctx (.mmai Mx) Mx
  { q := { s.blankReq c 0 with id := 1 }, kind := .mmai, tile := 5
    rows := [{ lane := 8, gen := 0, issueNo := 0, pc := 0, src := [], data := [], scale := 0, rb := 0 }]
    brows := ((rowOf (s.mmaRow c Mx .mmai (Ext.mmaX Mx .mmai) (.ok []) 0)).drop 1).zip ((List.range 64).map (fun i =>
      BitVec.ofNat 64 ((c.rd64 0 Mx.b).toNat + i * ((c.rd32 0 Mx.c).toNat % 65536))))
    bdata := [], wscale := 0, af := (Ext.mmaX Mx .mmai).af, bf := (Ext.mmaX Mx .mmai).bf, sat := Mx.sat, rnd := c.mode }
theorem wit_MatrixIssues_join : let s := { mats .s32 32 with passes := [Jo] }
    let c := s.ctx (.mmai Mx) Mx
    c.en.has 0 = true ∧ Jo.q.gid = c.gid ∧ Jo.q.gen = (s.space c.g.asid.toNat).gen ∧ Jo.q.level = c.g.priv ∧ s.cycles ≤ Jo.q.since + 4 ∧
    (∀ r ∈ Jo.rows, quarterOf r.lane ≠ quarterOf 0) ∧ s.reqs = [] ∧ s.holdLoad c.gid = false ∧
    (∀ l, l < 32 → c.en.has l = true → rowPasses (s.mmaRow c Mx .mmai (Ext.mmaX Mx .mmai) (.ok []) l) = true) ∧
    Jo.brows = ((rowOf (s.mmaRow c Mx .mmai (Ext.mmaX Mx .mmai) (.ok []) 0)).drop 1).zip ((List.range 64).map (fun i =>
      BitVec.ofNat 64 ((c.rd64 0 Mx.b).toNat + i * ((c.rd32 0 Mx.c).toNat % 65536)))) ∧ Jo.brows.length = 64 := by decide
theorem wit_TileForms : let s := tiled .none []
    let z := X 60
    let c := s.ctx (.acz z) z
    isSystem c.gid = false ∧ c.chk [] .none 0 = .ok ∧ c.en ≠ 0 ∧ c.g.tileOf z.d = some 5 ∧ s.ownsTile (coreOf c.gid) 5 c.g.ctxid = true ∧ s.rowsBusy (coreOf c.gid) 5 c.en = false ∧
    (s.tile (coreOf c.gid) 5).kind = .none ∧ isSystem ((sys []).ctx (.acz z) z).gid = true := by decide
theorem wit_TileForms_names : let c := u0.ctx (.acst (X 60)) (X 60)
    c.chk (c.acstSrcs (X 60)) .none 0 = .ok ∧ c.en ≠ 0 ∧
    u0.ownsTile (coreOf c.gid) 255 c.g.ctxid = false ∧ ((ofGroup { grp [0] [] with ac0 := 0xFF }).ctx (.acst (X 60)) (X 60)).g.tileOf (X 60).d = none := by decide
/-- A quarter-op of MMAI on one row, its A row and its B tile read. -/
def Pa : Pass :=
  { q := { u0.blankReq (u0.ctx .nop (X 1)) 0 with id := 5 }, kind := .mmai, tile := 5, rows := [{ lane := 1, gen := 0, issueNo := 0, pc := 0, src := [], data := [1, 2], scale := 0, rb := 0 }], brows := [], bdata := [3, 4]
    wscale := 0, af := true, bf := true, sat := false, rnd := .rne }
theorem wit_Passes : let s := { tiled .s32 [] with passes := [Pa], cycles := 5 }
    Pa ∈ s.passes ∧ (∀ o ∈ s.passes, o.q.id = Pa.q.id → o = Pa) ∧ s.passReady Pa = true ∧ (Pa.bdata ≠ [] ∨ Pa.brows = []) ∧ (Pa.rows.map PassRow.lane).Nodup ∧
    (∀ row ∈ Pa.rows, row.lane < 32 ∧ row.data ≠ []) ∧ Pa.kind ≠ .acmov := by decide
/-- A move of columns 30 and 31, and of one beyond. -/
theorem wit_Passes_move : let p := { Pa with kind := .acmov, wscale := 30 + 32 * 2, q := { Pa.q with dst := .v 8 } }
    let s := { tiled .s32 [] with passes := [p] }
    p ∈ s.passes ∧ (∀ o ∈ s.passes, o.q.id = p.q.id → o = p) ∧ s.passReady p = true ∧ p.moves = (30, 3) := by decide
theorem wit_Passes_wait : let p := { Pa with q := { Pa.q with id := 6 } }
    let s := { tiled .s32 [] with passes := [Pa, p], cycles := 5 }
    p ∈ s.passes ∧ (∀ o ∈ s.passes, o.q.id = p.q.id → o = p) ∧ s.passReady p = false := by decide
/-- ACMOV of the last four columns. -/
def Mv : Ext := { Ext.ofBase 0x3C (.v 4) (.v 0) .none with w2 := .t (28 + 32 * 3) .dflt .dflt (.v 0) }
theorem wit_Acmov : let s := tiled .f32 []
    let c := s.ctx (.acmov Mv) Mv
    c.g.tileOf Mv.a = some 5 ∧ c.chk [] Mv.d (Mv.imm / 32 + 1) = .ok ∧ Mv.imm < 1024 ∧ Mv.d = .v 4 ∧ c.en ≠ 0 ∧ (s.tile (coreOf c.gid) 5).kind ≠ .none ∧
    (∀ l, l < 32 → c.en.has l = true → Tab.get false (s.tile (coreOf c.gid) 5).bad l = false) := by decide
/-- An accumulator form at addresses in v2:v3. -/
def Ld (imm : Nat) : Ext := { X 60 with d := .v 0, c := .none, w2 := .t (BitVec.ofNat 16 imm) .dflt .f32 (.v 0) }
theorem wit_Acld : let s := tiled .f32 [(0, 2, 0x2000), (1, 2, 0x2080)]
    let x := Ld 0
    let c := s.ctx (.acld x) x
    c.g.tileOf x.d = some 5 ∧ bitAt x.imm 4 = false ∧ c.chk [x.srcA 2] .none 0 = .ok ∧ (s.tile (coreOf c.gid) 5).kind = kindOf x.dty ∧ s.holdLoad c.gid = false ∧
    (∀ l, l < 32 → c.en.has l = true → rowPasses (s.memRow c (c.rd64 l x.a).toNat 128 .load) = true) := by decide
/-- A read of pieces answers. -/
def reads (e : Pieces) : Bool := match e with | .ok _ _ => true | _ => false
theorem reads_ok {e : Pieces} (h : reads e = true) : ∃ bs u, e = .ok bs u := by
  unfold reads at h; split at h
  · next bs u => exact ⟨bs, u, rfl⟩
  · cases h
theorem wit_Acst : let s := tiled .f32 [(0, 2, 0x2000), (1, 2, 0x2080)]
    let x := Ld 0
    let c := s.ctx (.acst x) x
    c.chk (c.acstSrcs x) .none 0 = .ok ∧ (s.tile (coreOf c.gid) 5).kind ≠ .none ∧ s.rowsBusy (coreOf c.gid) 5 c.en = false ∧ s.holdStore c.gid .rlx .grp (c.en.lanes.length * (32 * outBytes x.dty / 16)) = false ∧ bitAt x.imm 1 = false ∧
    (∀ l, l < 32 → c.en.has l = true → Tab.get false (s.tile (coreOf c.gid) 5).bad l = false) ∧
    (∀ l, l < 32 → c.en.has l = true → rowPasses (s.memRow c (c.rd64 l x.a).toNat (32 * outBytes x.dty) .store) = true) := by decide
theorem wit_Acst_row : let s := { ganged { grp [0] [(0, 2, 128)] with ac0 := 5 } with wgs := [(5, { Workgroup.none with gang := 1, size := 256, live := true })] }
    let x := { Ld 16 with w2 := .t 16 .dflt .e4m3 (.v 0) }
    let c := s.ctx (.acst x) x
    c.en = 1#32 <<< 0 ∧ bitAt x.imm 4 = true ∧ s.windowOut c.gid = false ∧ s.spadRow c (c.rd32 0 x.a).toNat (32 * outBytes x.dty) true = .ok [0, 0] ∧ s.spadPiece c.gid 144 = (0, 144) := by decide
/-- n sectors from a on, held in the L2 of their home. -/
def near (a n : Nat) (s : State) : State := s.setDie 0 { s.die 0 with l2here := (List.range n).map (fun k => (a / 256 + k, true)) }
theorem wit_Alut : let s := near 0x100002000 9 (tiled .f32 [(0, 2, 0x2000), (1, 2, 0x2000)])
    let x := Ld 1
    let c := s.ctx (.alut x) x
    let row := s.memRow c (c.rd64 0 x.a).toNat 2064 .load
    let pas := rowOf row
    isSystem c.gid = false ∧ c.chk [x.srcA 2] .none 0 = .ok ∧ c.en.first = some 0 ∧ allSame (c.en.lanes.map (fun k => c.rd64 k x.a)) = true ∧ rowPasses row = true ∧ s.holdLoad c.gid = false ∧
    s.ownBefore c.gid s.seq .cb (pas.map (fun p => (p, 16))) = false ∧
    reads (s.tfuReads (s.blankReq c 0) 16 ((pas.zip (List.range pas.length)).map (fun p => (p.1, BitVec.ofNat 64 ((c.rd64 0 x.a).toNat + 16 * p.2))))) = true := by decide +kernel
/-- The group at level 2 names a tile in v4. -/
def imaged : State :=
  let s := tiled .f32 [(0, 2, 0x20000), (1, 2, 0x20000), (0, 4, 5), (1, 4, 5)]
  near 0x100020000 17 ((s.setGroup 0 ((s.group 0).setPriv 2)).setCore 0 { s.core 0 with tlb := [bigLeaf] })
theorem wit_Afill : let s := imaged
    let x := X 60
    let c := s.ctx (.afill x) x
    let row := s.memRow c (c.rd64 0 x.a).toNat 4112 .load
    let pas := rowOf row
    c.g.priv = 2 ∧ c.chk [x.srcA 2, x.srcB 1] .none 0 = .ok ∧ c.en.first = some 0 ∧ (c.rd32 0 x.b).toNat = 5 ∧ (s.tile (coreOf c.gid) 5).world = c.g.world ∧
    s.rowsBusy (coreOf c.gid) 5 (BitVec.allOnes 32) = false ∧ rowPasses row = true ∧ s.holdLoad c.gid = false ∧ s.ownBefore c.gid s.seq .cb (pas.map (fun p => (p, 16))) = false ∧
    reads (s.tfuReads (s.blankReq c 0) 16 ((pas.zip (List.range pas.length)).map (fun p => (p.1, BitVec.ofNat 64 ((c.rd64 0 x.a).toNat + 16 * p.2))))) = true ∧
    rowPasses (s.memRow c (c.rd64 0 x.a).toNat 4112 .store) = true ∧ s.holdStore c.gid .rlx .grp 257 = false ∧ (s.tile (coreOf c.gid) 5).bad.any (fun p => p.2) = false := by decide +kernel
theorem wit_TileImages_low : let c := u0.ctx (.aown (X 60)) (X 60)
    isSystem c.gid = false ∧ c.g.priv < 2 ∧ isSystem ((sys []).ctx (.aown (X 60)) (X 60)).gid = true := by decide
theorem wit_Aown : let s := (lvl 2 [(0, 2, 63), (1, 2, 64)])
    let c := s.ctx (.aown (X 60)) (X 60)
    2 ≤ c.g.priv ∧ c.chk [(X 60).srcA 1] .none 0 = .ok ∧ c.en.first = some 0 ∧ (c.rd32 0 (X 60).a).toNat = 63 ∧ 63 < (c.rd32 1 (X 60).a).toNat ∧
    (s.tile (coreOf c.gid) 63).world = c.g.world ∧ s.rowsBusy (coreOf c.gid) 63 (BitVec.allOnes 32) = false := by decide

/-! Streams. -/

/-- Stream 1 of die 0, generation 2, three tiles of MMA at 0x100, with a subscriber. -/
def St (subs : List Sub) : Stream := { Stream.reset with opened := true, gen := 2, base := 0x100, n := 3, size := 2048, subs := subs, tiles := [⟨1, [7], none⟩] }
def streamed (subs : List Sub) (rs : List (Nat × Nat × Nat)) : State := (one rs).setDie 0 { Die.reset with streams := [(0, St []), (1, St subs)] }
/-- A stream form without C, D at v8. -/
def Sx (imm : Nat) : Ext := { X 61 with d := .v 8, c := .none, w2 := .t (BitVec.ofNat 16 imm) .dflt .dflt (.v 0) }
theorem wit_Osopen : ∀ b ∈ [0x10001, 0x20001, 0x10000], let s := streamed [] [(0, 2, 0x100), (1, 2, 0x100), (0, 4, b), (1, 4, b)]
    let c := s.ctx (.osopenX (Sx 0)) (Sx 0)
    isSystem c.gid = false ∧ c.chk [(Sx 0).srcA 2, (Sx 0).srcB 1] (Sx 0).d 1 = .ok ∧ c.en.first = some 0 ∧
    (∀ k, k < 32 → c.en.has k = true → c.rd64 k (Sx 0).a = c.rd64 0 (Sx 0).a ∧ c.rd32 k (Sx 0).b = c.rd32 0 (Sx 0).b) ∧ (c.rd32 0 (Sx 0).b).toNat = b ∧ (c.rd64 0 (Sx 0).a).toNat % 256 = 0 ∧
    (s.stream 0 2).opened = false ∧ (∀ j < 2, (s.stream 0 j).opened = true) := by decide
theorem wit_Osopen_full : let s := u0.setDie 0 { Die.reset with streams := (List.range 64).map (fun k => (k, St [])) }
    ∀ k < 64, (s.stream 0 k).opened = true := by decide
/-- Handle 0x81 names generation 2 of slot 1. -/
theorem wit_Ossub : ∀ f ∈ [(Sx 5, ([] : List Sub)), (Sx 0x10, []), (Sx 5, [⟨0, 3, 0⟩]), (Sx 0x10, [⟨0, 3, 0⟩])],
    let s := streamed f.2 [(0, 2, 0x81), (1, 2, 0x81), (0, 4, 9), (1, 4, 9)]
    let c := s.ctx (.ossub f.1) f.1
    isSystem c.gid = false ∧ c.chk (f.1.srcA 1 :: (if bitAt f.1.imm 4 then [f.1.srcB 1] else [])) f.1.d 1 = .ok ∧ c.en.first = some 0 ∧
    (∀ k, k < 32 → c.en.has k = true → c.rd32 k f.1.a = c.rd32 0 f.1.a ∧ c.rd32 k f.1.b = c.rd32 0 f.1.b) ∧ s.handleOk c.gid ((c.rd32 0 f.1.a).toNat % 65536) = true ∧
    s.handleOk c.gid 0xC1 = false ∧ (s.stream 0 1).subs.find? (fun w => w.gid == c.gid) = f.2.head? := by decide
theorem wit_Osclose : let s := streamed [⟨0, 3, 0⟩] [(0, 2, 0x81), (1, 2, 0x81)]
    let x := { Sx 1 with d := .none, b := .none }
    let c := s.ctx (.osclose x) x
    c.chk [x.srcA 1] .none 1 = .ok ∧ c.en.first = some 0 ∧ (∀ k, k < 32 → c.en.has k = true → c.rd32 k x.a = c.rd32 0 x.a) ∧ s.handleOk c.gid ((c.rd32 0 x.a).toNat % 65536) = true ∧
    bitAt x.imm 0 = true := by decide
theorem wit_StreamReads : let s := streamed [⟨0, 3, 0⟩] []
    s.tileReadable 0 1 0 = true ∧ s.tileReadable 0 1 1 = false ∧ s.tileReadable 0 1 3 = false ∧
    (asked { rq .load with performed := true, pa := 2 ^ 64 + 1 }).req? 5 = some { rq .load with performed := true, pa := 2 ^ 64 + 1 } := by decide

/-! Queues and engines. -/

/-- Queue 0 of core 0, enabled. -/
def Qa : Queue := { Queue.reset with qctl := 1, qprev := 0x2000, qlast := 0x2000 }
def queued (q : Queue) (s : State) : State := s.setQueue 0 0 q
/-- The page at 0x2000 by a table at 0x3000 of die 0's shared memory; at 0x2008 the link to 0x2040, where the entry is all zero. -/
def walked (s : State) : State :=
  { s.setDie 0 { Die.reset with wcache := [⟨0, nodeKey 2 0x2000, 0x100003001, 0⟩], l2here := [0x100002000, 0x100003000, 0x100004000, 0x100005000].map (fun a => (a / 256, true)) } with
    mem := [(0x100002008, 0x40), (0x100002009, 0x20), (0x100003010, 0x1F), (0x100003011, 0x20), (0x100003014, 1)] }
/-- Lanes 0 and 1 with queue 0 in v2 and n in v4. -/
def qs (n : Nat) : State := queued Qa (one [(0, 2, 0), (1, 2, 0), (0, 4, n), (1, 4, n)])
theorem wit_QueueForms : let s := qs 2
    let x := { X 62 with d := .v 8, w2 := .t 5 .dflt .dflt (.v 0) }
    let c := s.ctx (.cqadvX x) x
    c.chk [x.srcA 1, x.srcB 1] x.d 2 = .ok ∧ c.en.first = some 0 ∧ (∀ k, k < 32 → c.en.has k = true → c.rd32 k x.a = c.rd32 0 x.a ∧ c.rd32 k x.b = c.rd32 0 x.b) ∧ s.relHeld c.gid = false ∧
    s.queueBars c 0 = false ∧ s.queueBars c 8 = true ∧ s.outstanding c.gid (qScope (s.queue (coreOf c.gid) 0)) = false ∧ s.acqOut c.gid = false ∧ bitAt x.imm 2 = true ∧
    (c.rd32 0 x.b).toNat ≤ 63 ∧ (Tab.get 0 c.g.dc (x.imm % 4)).toNat + 2 ≤ 63 ∧ c.chk [x.srcA 1] x.d 2 = .ok := by decide
theorem wit_QueueForms_none : let x := { X 62 with d := .v 8, pred := 1 }
    let s := { one [] with groups := [(0, (grp [0] []).setLane 0 { Lane.vacant with occupied := true, pc := 0x1000, p := 0 })] }
    let c := s.ctx (.cqseq x) x
    c.chk [x.srcA 1] x.d 2 = .ok ∧ c.en = 0 := by decide
theorem wit_QueueForms_uniform : let s := queued Qa (one [(0, 2, 0), (1, 2, 1)])
    let x := { X 62 with d := .v 8 }
    let c := s.ctx (.cqseq x) x
    c.chk [x.srcA 1] x.d 2 = .ok ∧ c.en.first = some 0 ∧ c.en.has 1 = true ∧ c.rd32 1 x.a ≠ c.rd32 0 x.a := by decide
theorem wit_QueueForms_waits : let x := { X 62 with d := .none, w2 := .t 1 .dflt .dflt (.v 0) }
    let s := ofGroup { grp [0, 1] [(0, 2, 1), (1, 2, 1)] with dc := [(1, 2)] }
    let c := s.ctx (.dcwait x) x
    c.chk [x.srcA 1] .none 0 = .ok ∧ c.en.first = some 0 ∧ (∀ k, k < 32 → c.en.has k = true → c.rd32 k x.a = c.rd32 0 x.a) ∧ (c.rd32 0 x.a).toNat < (Tab.get 0 c.g.dc (x.imm % 4)).toNat ∧
    (u0.ctx (.tready x) x).chk [x.srcA 1] .none 0 = .ok ∧ (u0.ctx (.tready x) x).en ≠ 0 ∧ u0.outstanding 0 .die = false ∧ (asked (rq .load)).outstanding 0 .die = true := by decide
theorem wit_Cqput : let s := queued Qa (mapped (one [(0, 4, 0x2040)]))
    let s := s.setGroup 0 ((grp [0] [(0, 4, 0x2040)]))
    let x := X 62
    let c := s.ctx (.cqput x) x
    c.chk [x.srcA 1, x.srcB 2, (x.srcC 4).over [0, 1, 2, 3]] x.d 0 = .ok ∧ c.en.first = some 0 ∧ s.queueBars c 0 = false ∧ (c.rd64 0 x.b).toNat % 64 = 0 ∧ s.holdStore c.gid .rlx .grp 9 = false ∧
    s.laneChk c 0 (c.rd64 0 x.b).toNat 16 .store = .ok { lane := 0, ea := 0x2040, pa := 0x100002040, dev := false } ∧
    s.laneChk c 0 (a64 ((s.queue (coreOf c.gid) 0).qlast.toNat + 8)) 8 .store = .ok { lane := 0, ea := 0x2008, pa := 0x100002008, dev := false } ∧ s.passReads c.gid 0x100002040 64 = false := by decide
/-- The batch decisions: accepted, refused for want of an entry, for its size, for a queue not enabled. -/
def Ad (n : Nat) : Adv := { gid := 0, seq := 0, n := n, cnt := some 1, d := .v 8, en := 3, level := 1 }
def batch (q : Queue) (n : Nat) : Except Nat Nat :=
  let s := queued { q with advs := [Ad n] } (walked u0)
  let g := s.group 0
  match s.decideBatch { cid := 0, q := 0, asid := qAsid q, level := 1, vdev := BitVec.ofNat 8 (qVdev q), ctxid := g.ctxid, world := g.world, gen := (s.space (qAsid q)).gen, own := false } (Ad n) with
  | .ok r => .ok (r.1.map Prod.fst).sum
  | .error e => .error e.1
theorem wit_Batches : (batch Qa 1).toOption = some 0x2040 ∧ (match batch Qa 2 with | .error e => e | _ => 0) = 2 ∧ (match batch Qa 257 with | .error e => e | _ => 0) = 2 ∧
    (match batch Queue.reset 1 with | .error e => e | _ => 0) = 1 ∧ (queued Qa (walked u0)).settled (coreDie 0) = true := by decide
/-- An entry of a queue: one row of 16 bytes from the scratchpad of core 0 to its row at 32, by group 0 under counter 2. -/
def En : Entry :=
  { addr := 0x2040, words := [1, 0, 0x100000, 0x100020, 0x100000010, 0, 0x11, 0], promise := 500, extend := [], handed := 0, gen := 0, gid := 0, level := 1, ctxid := 0, world := 0, dc := some 2, begun := true,
    missed := false, done := 0, seq := 1, fenceFault := none }
def held (e : Entry) : State := queued { Qa with entries := [e] } ((one []).setDie 0 { Die.reset with cmt := [(0, 1)] })
theorem wit_Entries : (held { En with begun := false }).beginDue 0 0 = true ∧ (held { En with begun := false, fenceFault := some 1 }).beginDue 0 0 = true ∧ (held En).beginDue 0 0 = false ∧
    (held En).engineDue 0 0 = true ∧ (held { En with begun := false }).engineDue 0 0 = false ∧ bitsOf (En.w 6) 7 4 = 1 ∧ En.done < unitsOf En.w ∧ (held En).missOf 0 0 = none ∧
    ({ held En with clock := 500 }).missOf 0 0 = some En ∧ ((held En).group En.gid).status = .running := by decide
/-- What running the head of queue 0 gives: the entries left and QCW, or the cause. -/
def headOf (e : Entry) : Nat ⊕ Bool :=
  match (held e).runHead 0 0 e with
  | .error ((c, _), _) => .inl c
  | .ok s1 => .inr ((s1.queue 0 0).qcw == 0 && (s1.queue 0 0).entries == [e])
theorem wit_Entries_run : headOf En = .inr true ∧ headOf { En with words := [1, 0, 0x2000000000, 0x100020, 0x100000010, 0, 0x11, 0] } = .inl cPermission := by decide
theorem wit_Entries_misses : (held En).misses 0 0 = held En ∧ ((held En).queue 0 0).entries = [En] ∧ ((held En).misses 0 0).engineDue 0 0 = true := by decide +kernel
theorem wit_Entries_world : entW (({ En with words := [0x201] }).w 0) = true ∧ entW (En.w 0) = false := by decide

/-! Traps between issues. -/

def pended (p : Pend) : State := ofGroup { grp [0, 1] [] with pend := p }
theorem wit_TrapsBetween :
    (pended { Pend.none with step := true }).pendingTrap 0 = some .step ∧ (pended { Pend.none with promise := some (0x40, 0) }).pendingTrap 0 = some .promise ∧
    (pended { Pend.none with watchdog := true }).pendingTrap 0 = some .watchdog ∧ (pended { Pend.none with preempt := true }).pendingTrap 0 = some .preempt ∧
    (pended { Pend.none with integrity := some 0x40 }).pendingTrap 0 = some (.integrity 0x40) ∧ u0.pendingTrap 0 = none ∧ (u0.group 0).issueAddr = some 0x1000 ∧ isSystem 0 = false ∧
    (u0.core (coreOf 0)).level cIntegrity = 3 ∧ (u0.group 0).act 3 = false := by decide
theorem wit_TrapsBetween_breakpoint : let s := u0.setCore 0 { Core.reset with ibrk := [(2, 0x1001)] }
    s.pendingTrap 0 = some .breakpoint ∧ s.breakpointAt 0 0x1000 = some 2 := by decide
theorem wit_TrapsBetween_reports : let r : Report := { cause := 1, pc := 0x1000, lanes := 2, addr := 0x2000, issue := 0, precise := true, pr := false }
    let q := { r with precise := false, pc := 0x0FF0 }
    (pended { Pend.none with reports := [q, r] }).pendingTrap 0 = some .report ∧ firstPrecise [q, r] = some r ∧ firstPrecise [q] = none ∧
    (pended { Pend.none with reports := [q] }).pendingTrap 0 = some .report := by decide
theorem wit_TrapsBetween_halts : (ofGroup { grp [0] [] with world := 4 }).pendingTrap 0 = none ∧ ((ofGroup { grp [0] [] with world := 4 }).group 0).resident = true ∧
    ((ofGroup { grp [0] [] with world := 4 }).group 0).pend.integrity = none := by decide
/-- A walk for the page at 0x2000 finds its leaf, one for 0x3000 a fault. -/
def Wk (p : Nat) : Walk := { asid := 0, page := p, level := 0, world := 0, gen := 0, waiters := [0], fromRoot := false }
theorem wit_Walks : let s := walked u0
    let s := s.setDie 0 { s.die 0 with walks := [Wk 2, Wk 3] }
    (s.die 0).walks[1]? = some (Wk 3) ∧ (s.walk 0 (Wk 3)).1 = .fault cPageFault 0 ∧ (s.walk 0 (Wk 2)).1 = .leaf { asid := 0, vbase := 0x2000, sz := 12, leaf := 0x10000201F, world := 0 } ∧ cPageFault ≠ cIntegrity := by decide +kernel

/-! Fabric, endpoints and peers. -/

theorem wit_Fabric : (0 : Nat) < 32 ∧ -8 ≤ refCount (Tab.get 0 (u0.die 0).refrec 0) ∧ refCount (Tab.get 0 (u0.die 0).refrec 0) ≤ 8 ∧ refCount (BitVec.ofInt 5 (-8)) = -8 ∧
    (0x100002000 : DWord).toNat / 2 ^ 36 = 0 ∧ u0.retries 0 1 < 7 ∧ 7 ≤ (u0.setDie 0 { Die.reset with retry := [(1, 7)] }).retries 0 1 ∧ neighbour 0 1 = some (8, 0) ∧
    neighbour 7 2 = some (33, 0) ∧ neighbour 33 0 = some (7, 2) ∧ u0.usesLink 0 8 0 1 = true ∧ u0.usesLink 33 0 33 0 = true ∧
    (∀ r ∈ (asked { rq .load with use := .spec }).reqs, r.use = .spec → r.performed = false) ∧ (∀ u ∈ u0.unapplied, u.1 ≠ 0 ∨ u.2.1 ≠ 1) := by decide
theorem wit_Qnt : let r := { rq (.atomic .add .s32) with use := .qnt, num := none }
    (asked r).req? 5 = some r ∧ r.use = .qnt ∧ r.num = none ∧ r.performed = false ∧ (asked r).farAheadBy r.src 1 = false ∧ u0.reaches 0 1 = true ∧ (u0.setDie 0 { Die.reset with linkst := 0xFFFFFFFFFFFFFFFF }).reaches 0 1 = false := by decide
/-- Port 3 with its requester table at 0x4000 of die 0's shared memory, function 0 valid with ATE and PRE, the page at 0x2000 known. -/
def ported : State := { u0.setIo 32 { IoDie.reset with rqtbase := [(3, 0x100004000)], tlb := [leafAt 0x2000 0x100002000] } with mem := [(0x100004007, 0xB0)] }
def Tp (a : DWord) : Tlp := { port := 3, rid := 0, pasid := none, translated := false, protectedIde := none, addr := a }
theorem wit_Inbound : let s := ported
    let p := s.looked (Tp 0x2010)
    s.delivers 3 0x2010 4 512 = true ∧ s.opAccepts 32 = true ∧ inClasp 0x2010 = false ∧ (p.inbound (Tp 0x2010) true).1 = .ok (0x100002010, some (0, 0)) ∧
    (p.inbound (Tp 0x2010) false).1 = .ok (0x100002010, some (0, 0)) ∧ ((u0.looked (Tp 0x7010)).inbound (Tp 0x7010) true).1 = .refuse false ∧ ((u0.looked (Tp 0x7010)).inbound (Tp 0x7010) false).1 = .refuse false ∧ s.looksReady (Tp 0x2010) = true ∧ u0.looksReady (Tp 0x7010) = true ∧ s.readsNow 32 = true ∧
    s.delivers 3 0x2010 513 512 = false ∧ s.settled 32 = true ∧ rqtWorld (s.rqt 3 0).1 = 0 ∧ p.readRefused 32 0 (some (0, 0)) 0x100002010 4 = none := by decide
/-- A store of die 32 that is not performed yet: a read that must see it waits. -/
theorem wit_Inbound_waits : let s := { ported with reqs := [{ rq .store with src := 32, num := some 1 }], ios := (ported.setIo 32 { ported.io 32 with kio := [(32, 1)] }).ios }
    s.settled 32 = false ∧ ((s.looked (Tp 0x2010)).inbound (Tp 0x2010) false).1 = .ok (0x100002010, some (0, 0)) ∧
    (let t := { s with ios := (s.setIo 32 { s.io 32 with tlb := [] }).ios, spaces := [(0, { root := 0x100006000, gen := 0 })] }
     ((t.looked (Tp 0x2010)).inbound (Tp 0x2010) true).1 = .wait ∧ ((t.looked (Tp 0x2010)).inbound (Tp 0x2010) false).1 = .wait) := by decide
/-- A store of die 0 that was performed and waits for its acknowledgement; a load that waits for a write of die 0. -/
theorem wit_Acks : let r := { rq .store with performed := true, num := some 1, dst := .none }
    (asked r).unappliedTo 0 0 1 = false ∧ (∀ q ∈ (asked r).reqs, q.isAtomic = false) ∧ r ∈ (asked r).reqs ∧ r.src = 0 ∧ r.tgt = .mem 0 ∧ r.isStore = true ∧
    serialGe 1 (1 : BitVec 24) = true ∧
    (let q := { rq .store with num := some 1 }; (asked q).settled 0 = false ∨ (asked q).unappliedTo 0 0 1 = true) := by decide
theorem wit_PostedWrite : let p : Part := { home := 0, pa := 0x100002010, lpa := 0x100002010, data := [1, 2], world := 0, asid := some (0, 0), red := none, stamp := [] }
    let s := u0.setIo 32 { IoDie.reset with entries := [.write 1 3 [p]] }
    (s.io 32).entries = [.write 1 3 [p]] ∧ s.covers p.home 32 p.stamp = true ∧ s.coreBefore 32 p.home 1 = false ∧ serialGe 1 (1 : BitVec 24) = true ∧ cxlHole p.pa = false ∧
    s.inboundRefuses p.home p.lpa p.world p.asid false = none ∧ tagByte p.lpa = false := by decide
/-- An answer with a leaf. -/
def hasLeaf (o : Inb TlbEntry × State) : Bool := match o.1 with | .ok _ => true | _ => false
theorem hasLeaf_ok {o : Inb TlbEntry × State} (h : hasLeaf o = true) : ∃ e s, o = (.ok e, s) := by
  obtain ⟨a, s⟩ := o
  cases a with
  | ok e => exact ⟨e, s, rfl⟩
  | _ => cases h
theorem wit_Ats : let s := ported
    s.delivers 3 0 1 512 = true ∧ rqtAte (s.rqt 3 0).1 = true ∧ rqtAte (u0.rqt 3 0).1 = false ∧ rqtPre (u0.rqt 3 0).1 = false ∧ Tab.get false (s.io 32).noAte (fnKey 3 0) = false ∧
    s.inboundSpace (Tp 0x2000) = some 0 ∧ hasLeaf ((s.looked (Tp 0x2000)).inboundLeaf (Tp 0x2000) 0) = true ∧ rqtV (s.rqt 3 0).1 = true ∧ rqtPre (s.rqt 3 0).1 = true ∧ s.entryPasses (Tp 0x2000) = true := by decide
theorem wit_Invalidation : let s := (ofGroup { grp [0] [] with wait := .tlbi }).setIo 32 { IoDie.reset with inval := [(fnKey 3 0, 0, 0)] }
    (s.io 32).inval = [(fnKey 3 0, 0, 0)] ∧ (s.io 33).inval = [] ∧ (s.group 0).wait = .tlbi ∧ (∀ p ∈ (s.io 32).inval, s.cycles < p.2.2 + 2 ^ 22) ∧
    (∀ p ∈ (s.io 32).inval, p.1 = fnKey 3 0 ∧ p.2.2 + 2 ^ 22 ≤ ({ s with cycles := 2 ^ 22 }).cycles) := by decide
theorem wit_Bezel : let r := { rq .store with tgt := .bezel 5, dst := .none, vdev := 0 }
    let s := (asked r).setIo 32 { IoDie.reset with bzb := [(5, 0x8000000000000000)], bzt := [(5, 0x0C3000001000)] }
    s.req? 5 = some r ∧ s.performable r = true ∧ bitAt (Tab.get 0 (s.io 32).bzb 5).toNat 63 = true ∧ bitsOf (Tab.get 0 (s.io 32).bzb 5).toNat 23 16 = r.vdev.toNat ∧
    ioOfPort 3 = 32 ∧ (Tab.get 0 (s.io 32).bzt 5).toNat = 0x0C0000000000 + 3 * 2 ^ 36 + 0x1000 ∧ (0x0C3000001000 : Nat) % 4096 = 0 ∧ s.portGone 3 = false ∧ bitAt (Tab.get 0 ((asked r).io 32).bzb 5).toNat 63 = false ∧
    s.bezelPort 5 = some 3 ∧ (asked r).bezelPort 5 = none := by decide
/-- A Clasp message of four bytes to entry 2, with the entry and its target. -/
def clasped (w t : DWord) : State := u0.setIo 32 { IoDie.reset with entries := [.msg (Tp 0x0E8000000020) [5, 0, 0, 0] 0 0 w t] }
def Ms (w t : Nat) : Message := { q := Tp 0x0E8000000020, io := 32, idx := 2, clt := w, target := t, data := [5, 0, 0, 0], vdev := 0, world := 0 }
def heads (w t : Nat) (kind lost : Nat) : Bool :=
  let m := Ms w t
  decide ((clasped (BitVec.ofNat 64 w) (BitVec.ofNat 64 t)).claspHead 32 = some m) && m.kind == kind && claspDrop m.clt m.target m.data.length m.vdev == lost
theorem wit_Clasp : heads 0x8000000000000000 0x0F0000100010 0 0 = true ∧ heads 0xA000000000000000 0x100002000 1 0 = true ∧ heads 0xC000000000000000 3 2 0 = true ∧
    heads 0xA000000000000000 0x100002001 1 1 = true ∧ heads 0xC000000000000000 32 2 6 = true ∧ claspDrop 0xC000000000000000 3 8 0 = 2 ∧
    (clasped 0xA000000000000000 0x100002000).settled 32 = true ∧ ((clasped 0 0).io 32).clasperr.getLsbD 63 = false ∧
    u0.inboundRefuses (homeOf (u0.pool 32) 0x100002000) (localOf (u0.pool 32) 0x100002000) 0 none true = none ∧ (∀ i < 4, tagByte (0x100002000 + i) = false) ∧
    (u0.core 0).tagged 16 = false ∧ u0.holdsCore 0 (cltVdev 0x8000000000000000) = true ∧ u0.holdsCore 0 (cltVdev 0x8000000000010000) = false ∧
    ((u0.setCore 0 { Core.reset with bar := [(1, true)] }).core 0).tagged 16 = true := by decide +kernel
/-- A counter whose home refuses it: the private region. -/
theorem wit_Clasp_refused : heads 0xA000000000000000 0x1000 1 0 = true ∧ (u0.inboundRefuses (homeOf (u0.pool 32) 0x1000) (localOf (u0.pool 32) 0x1000) 0 none true).isSome = true := by decide +kernel
/-- Window 7 of die 32 accepts 4 KiB at generation 0, a sum of s32 over two packages. -/
def peered (e : DWord) : State := u0.setIo 32 { IoDie.reset with rhcfg := [(3, 0x8000000000000000)], rwin := [(7, e)], rwinb := [(7, 0x100002000)] }
def Rt : RemoteTlp := { port := 3, pkg := 2, win := 7, off := 16, gen := 0, part := 0 }
theorem wit_Remote : let s := peered 0xC50200000000000C
    (Tab.get 0 (s.io 32).rhcfg 3).getLsbD 63 = true ∧ s.opAccepts 32 = true ∧ s.rwinAccepts Rt 4 = true ∧ s.rwinAccepts { Rt with gen := 1 } 4 = false ∧ s.rwinAccepts { Rt with off := 4094 } 4 = false ∧ s.isRhadin Rt.port = true ∧ Rt.off % 4 = 0 ∧
    (peered 0x800000000000000C).reduces Rt = none ∧ s.reduces Rt = some (0, 5, 2) ∧ s.reductions = [] ∧ (s.io 32).rwrstat.getLsbD 63 = false := by decide
theorem wit_Reduction : let x : Reduction := ⟨Rt, [[1, 0, 0, 0]], [2], 0⟩
    ({ u0 with reductions := [x] }).reductions[0]? = some x ∧ ({ u0 with reductions := [x] }).cycles < x.since + 2 ^ 16 ∧
    x.since + 2 ^ 16 ≤ ({ u0 with reductions := [x], cycles := 2 ^ 16 }).cycles ∧ (peered 0xC50200000000000C).forwards x = true ∧ u0.forwards x = false := by decide

/-! Launches, gangs, virtual devices. -/

/-- A ring of virtual device 0 with one entry: its table at 0x4000 and the ring at 0x5000 of die 0's shared memory, the descriptor at 0x2040; nx items in a row. -/
def ringed (nx : Byte) : State :=
  let s := walked u0
  { s.setDie 0 { s.die 0 with vdtbase := 0x100004000 } with
    rings := [(0, { Ring.reset with tail := 1 })]
    mem := s.mem ++ [(0x100004007, 0x80), (0x100004009, 0x50), (0x10000400C, 1), (0x100004010, 2), (0x100005000, 0x40), (0x100005001, 0x20)] ++
      (if nx = 0 then [] else [(0x100005008, nx)]) ++ [(0x10000500C, 2), (0x100005010, 1), (0x10000501C, 1)] }
theorem wit_Launch : u0.coreVdev 0 = some 0 ∧ u0.coreVdev 5 = none ∧ u0.copyDue 0 = none := by decide
/-- What copying the entry at the head of the ring of virtual device 0 comes to: 0 for a launch, else 1 more than the error. -/
def copied (s : State) : Nat :=
  let rd := (s.vdtLook 0 0).agentRead 0 (s.pool 0) (s.vdt 0 0).2.1 128
  match rd.2.launchOf 0 0 rd.1 with | .ok _ => 0 | .error c => c.1 + 1
def copies (nx : Byte) : Bool :=
  let s := ringed nx
  let pa := (s.vdt 0 0).2.1
  decide (s.copyDue 0 = some 0) && (regionOf (s.pool 0) pa).memory &&
    decide ((s.vdtLook 0 0).homeRefuses (homeOf (s.pool 0) pa) (localOf (s.pool 0) pa) 1 0 (s.space 0).gen (s.worldOfVdev 0) true = none) && bitsOf (wordAt ((s.vdtLook 0 0).agentRead 0 (s.pool 0) pa 128).1 1) 31 0 == nx.toNat
theorem wit_LaunchCopy : copies 4 = true ∧ copied (ringed 4) = 0 := by decide +kernel
theorem wit_LaunchCopy_malformed : copies 0 = true ∧ copied (ringed 0) = 2 := by decide +kernel
/-- A store of the die to the table's sector is under way. -/
def tableBusy (s : State) : State :=
  { s.setDie 0 { s.die 0 with wcache := [⟨0, nodeKey 2 0x2000, 0x1100003001, 0⟩] } with
    reqs := [{ rq .store with use := .spec, num := none, tgt := .mem 1, pa := 0x1100003010, lpa := 0x1100003010 }] }
/-- The completion write of the entry to a completion word: 0 done, 1 it waits, 2 a fault. -/
def cwOf (qcw : DWord) (f : State → State) : Nat :=
  let s := walked (one [])
  let s := f ((s.setDie 0 { s.die 0 with cmt := [(0, 1)] }).setQueue 0 0 { Qa with entries := [En], qcw := qcw })
  match s.runHead 0 0 En with
  | .error _ => 3
  | .ok s1 => match s1.engWrite (En.agent 0 0 (s1.queue 0 0)) 0 qcw.toNat (bytesLE 8 1) true with
    | .ok _ => 0
    | .error ((0, _), _) => 1
    | .error _ => 2
theorem wit_Entries_write : cwOf 0x2010 id = 0 ∧ cwOf 0x20010 id = 2 ∧ cwOf 0x2010 tableBusy = 1 := by decide +kernel
theorem wit_LaunchCopy_waits : copied (tableBusy (ringed 4)) = 1 := by decide +kernel
/-- A ring in the on-chip map. -/
theorem wit_LaunchCopy_nowhere : let s := { ringed 4 with mem := [(0x100004007, 0x80), (0x10000400D, 0x0F), (0x100004010, 2)] }
    s.copyDue 0 = some 0 ∧ (regionOf (s.pool 0) (s.vdt 0 0).2.1).memory = false := by decide +kernel
theorem wit_Poll : let s := { u0 with launches := [La, { La with seq := 2, eligible := true }] }
    s.launch? 1 = some La ∧ s.pollDue La = true ∧ s.pollDue { La with eligible := true } = false := by decide
/-- An eligible launch with a kernel that needs no save record's bytes, one record, on die 0. -/
def Lb : Launch := { La with vdev := 0, k := Kernel.zero, savecnt := 1, eligible := true }
def turned (s : State) : State := s.setDie 0 { s.die 0 with turn := some 0, cmt := [(0, BitVec.allOnes 64)] }
theorem wit_Place : let s := turned { State.reset with launches := [Lb] }
    s.launch? 1 = some Lb ∧ (∀ k ∈ s.launches, k.seq = 1 → k = Lb) ∧ (s.die 0).turn = some Lb.vdev.toNat ∧ s.settled 0 = true ∧ s.cand 0 Lb.vdev = some (.steal 1) ∧
    (turned { State.reset with launches := [{ Lb with dry := [(0, true)] }] }).cand 0 Lb.vdev = some (.place 1 0) := by decide +kernel
/-- A launch with a tile for its group, whose save pool begins at 0x2000, at a page without a leaf, or in a table that is being written. -/
def Lt (base : DWord) : Launch := { Lb with k := { Kernel.zero with acc := 1 }, savebase := base, dry := [(0, true)] }
theorem wit_Place_tile : let s := turned (walked { State.reset with launches := [Lt 0x20000] })
    s.settled 0 = true ∧ s.cand 0 0 = some (.place 1 0) ∧ ((s.clearSlots 0 (Lt 0x20000) 0).any (fun t => (t.launch? 1).any (fun x => x.halted))) = true ∧
    (let s := turned (walked { State.reset with launches := [Lt 0x1000] })
     let t := s.setDie 0 { s.die 0 with wcache := [⟨0, nodeKey 2 0x2000, 0x1100003001, 0⟩] }
     let t := { t with reqs := [{ rq .store with use := .spec, num := none, tgt := .mem 1, pa := 0x1100003010, lpa := 0x1100003010 }] }
     t.settled 0 = true ∧ t.cand 0 0 = some (.place 1 0) ∧ (t.clearSlots 0 (Lt 0x1000) 0).isNone = true) := by decide +kernel
theorem wit_Place_turn : (u0.die 0).turn ≠ some Lb.vdev.toNat := by decide
theorem wit_Chunk : let s := { ganged (grp [0] []) with launches := [La], wgs := [(5, { Workgroup.none with gang := 1, live := true, fetching := true })] }
    let s := s.setGroup 0 { s.group 0 with wg := 5 }
    s.chunkDue 5 = true ∧ s.gang? (s.wg 5).gang = some Ga ∧ s.launch? Ga.launch = some La ∧ (La.deal 0).isSome = true ∧
    (s.wg 5).waiters = [] := by decide
theorem wit_Steals : ∀ a ∈ [none, some [], some [3]], let x : Steal := { seq := 1, asker := 2, left := [0], answer := a }
    let s := { u0 with launches := [La], steals := [x] }
    s.steal? 1 2 = some x ∧ s.launch? x.seq = some La ∧ x.left = [0] := by decide
theorem wit_Release : let s := ofGroup { grp [] [] with status := .draining, ac0 := 5 }
    let s := s.setCore 0 { Core.reset with tiles := [(5, { Tile.reset with own := 1#1 ++ 0#16 })] }
    s.releaseDue 0 = true ∧ (s.group 0).ac0.toNat ≠ 0xFF ∧ (s.tile 0 5).own = 1#1 ++ (s.group 0).ctxid ∧ (s.tile 0 5).recAddr = (s.group 0).slotFor 5 ∧ u0.releaseDue 0 = false ∧
    (let t := (s.setCore 0 { Core.reset with tiles := [(5, { Tile.reset with own := 1#1 ++ 7#16 })] }).setGroup 0 { s.group 0 with world := 4 }
     t.releaseDue 0 = true ∧ (t.group 0).world ≠ 0 ∧ (t.tile 0 5).own.getLsbD 16 = true ∧ (t.tile 0 5).own ≠ 1#1 ++ (t.group 0).ctxid) := by decide
/-- A launch whose only item has been dealt, with CVAL 7 for 0x2008. -/
def Lc : Launch := { Lb with nx := 1, ny := 1, first := [(0, 1)], cwaddr := 0x2008 }
theorem wit_Complete : let s := { walked State.reset with launches := [Lc] }
    s.launch? 1 = some Lc ∧ s.launchDone Lc = true ∧ (s.gather Lc).settled Lc.home = true ∧ Lc.cwaddr ≠ 0 ∧ s.launchDone La = false := by decide
/-- The write of CVAL: 0 done, 1 it waits, 2 a fault. -/
def wrote (s : State) (l : Launch) : Nat :=
  match (s.gather l).engWrite ((s.gather l).launchAgent l.home l.level l) 0 l.cwaddr.toNat (bytesLE 8 l.cval.toNat) true with
  | .ok _ => 0
  | .error ((0, _), _) => 1
  | .error _ => 2
theorem wit_Complete_write : let s := { walked State.reset with launches := [Lc] }
    wrote s Lc = 0 ∧ Lc.cwaddr.toNat % 8 = 0 ∧ (∀ i < 8, tagByte (0x100002008 + i) = false) ∧
    (match ((s.gather Lc).nextNum Lc.home).2.engPiece ((s.gather Lc).launchAgent Lc.home Lc.level Lc) Lc.cwaddr.toNat .store with | .ok (pa, _) => pa | _ => 0) = 0x100002008 ∧
    wrote s { Lc with cwaddr := 0x20008 } = 2 ∧ wrote (tableBusy s) Lc = 1 := by decide +kernel
theorem wit_Turn : let s := { (State.reset).setDie 0 { Die.reset with cmt := [(0, BitVec.allOnes 64)], vdtbase := 0x100004000 } with mem := [(0x100004001, 1)] }
    let s := { s with launches := [{ Lb with dry := [(0, true)] }] }
    s.turnDue 0 = true ∧ (s.die 0).turn = none ∧ s.nextTurn 0 = some 0 ∧ u0.turnDue 0 = false := by decide +kernel
theorem wit_Turn_over : let s := State.reset.setDie 0 { Die.reset with turn := some 3 }
    s.turnDue 0 = true ∧ (s.die 0).turn = some 3 ∧ (s.endTurn 0 3).nextTurn 0 = none := by decide +kernel
/-- The gang of group 0 has stopped on request. -/
def stopped : State :=
  let s := ganged { grp [0] [(0, 8, 77)] with held := true }
  { s.setDie 0 { Die.reset with preqs := [⟨1, 0⟩] } with launches := [{ Lb with dry := [(0, true)] }] }
theorem wit_Save : stopped.gang? 1 = some Ga ∧ stopped.saveDue Ga = true ∧ (stopped.group 0).saves (stopped.stopEntry 0 (stopped.group 0)) 8 = true ∧ (ganged (grp [0] [])).saveDue Ga = false := by decide
/-- The record of a gang is written, or waits for its table. -/
theorem wit_Save_record : (stopped.launch? Ga.launch).any (fun l => (stopped.writeRecord 0 l 0).isSome) = true ∧
    (let l := { Lb with k := { Kernel.zero with recsz := 64 }, savebase := 0x2000, dry := [(0, true)] }
     let s := { tableBusy (walked stopped) with launches := [l] }
     let s := s.setDie 0 { s.die 0 with preqs := [⟨1, 0⟩] }
     let s := { s with reqs := s.reqs.map (fun (r : Req) => { r with gid := 7 }) }
     s.gang? 1 = some Ga ∧ s.saveDue Ga = true ∧ s.launch? Ga.launch = some l ∧ (s.writeRecord 0 l 0).isNone = true) := by decide +kernel
/-- The saved gang of group 0 may come back. -/
def Sv : Saved := { gang := Ga, groups := [(0, (grp [0] [(0, 8, 77)]).saved none (fun _ _ => (0, 0)))], wgs := [(5, { Workgroup.none with gang := 1 })], bytes := [], tags := [] }
theorem wit_Restore : let l := { Lb with dry := [(0, true)], first := [(0, 1)], nx := 1, ny := 1 }
    let s := turned { State.reset with launches := [l], saved := [Sv] }
    s.saved.find? (fun v => v.gang.id == 1) = some Sv ∧ s.launch? Sv.gang.launch = some l ∧ Sv.groups.length = 1 ∧ (s.die 0).turn = some l.vdev.toNat ∧ s.settled 0 = true ∧
    s.cand 0 l.vdev = some (.restore 1 0) := by decide +kernel
theorem wit_Vdreset : let s := (queued Qa stopped).setDie 0 { Die.reset with vdrstat := 0x8000000000000000 }
    s.vdresetDue 0 0 = true ∧ u0.vdresetDue 0 0 = false ∧ Ga ∈ s.gangs ∧ Ga.die = 0 ∧ Ga.vdev = BitVec.ofNat 8 0 ∧ qVdev (s.queue 0 0) = 0 := by decide
theorem wit_RegisterWrite : let w : Who := { gid := 65536, level := 2, vdev := 0, ctxid := 0, world := 0, engine := false }
    regionOf 0 0x0F0000100010 = .onchip 0 ∧ u0.winRefuses w 0x100010 true = false ∧ coreSlice 0 (0x100010 % 2 ^ 32) = some (0, 0x100010) ∧ inRegWin 0x100010 = false ∧ inSpadWin 0x100010 = true ∧
    u0.winDiscards w 0 (0x100010 % 2 ^ 32) = false ∧ u0.winRefuses w (2 ^ 37) true = true := by decide

theorem wit_RegisterWrite_registers : let w : Who := { gid := 65536, level := 2, vdev := 0, ctxid := 0, world := 0, engine := false }
    (∀ off ∈ [0x40000000, 0x40020000, 0x40020008, 0x40020010, 0x40021000, 0x40030010], regionOf 0 (0x0F0000000000 + off) = .onchip 0 ∧ u0.winRefuses w off true = false) ∧
    (∀ r ∈ [0x00, 0x08, 0x10, 0x18], regionOf 0 (0x0F0000181000 + r) = .onchip 0 ∧ u0.winRefuses w (0x181000 + r) true = false ∧
      coreSlice 0 (0x181000 + r) = some (0, 0x181000 + 0x40 * 0 + r)) ∧ (u0.queue 0 0).hseq = (u0.queue 0 0).cseq ∧
    ((queued { Qa with hseq := 1 } u0).queue 0 0).hseq ≠ ((queued { Qa with hseq := 1 } u0).queue 0 0).cseq ∧
    ∀ o ∈ [0x000000, 0x000008, 0x100000, 0x200000, 0x300010, 0x300018, 0x400000, 0x500000], regionOf 0 (0x0EFF00000000 + o) = .ctl 32 ∧ (0x0EFF00000000 + o) % 0x80000000 = o := by decide

/-! Signet and the platform. -/

/-- A call block at 0x6000 of die 0's shared memory, by system core 0 of die 32: its OP byte, then words as (offset, byte). -/
def called (op : Byte) (ws : List (Nat × Byte)) : State :=
  { State.reset.setIo 32 { IoDie.reset with calls := [(2048, 0x100006000)] } with
    worlds := [(3, { World.none with keyed := true, vdevs := 1 })]
    mem := (0x100006000, op) :: ws.map (fun p => (0x100006000 + p.1, p.2)) }
/-- The call is in progress, its block answers, and names its operation, world and word 1, with 0 in the reserved bits. -/
def calls (s : State) (op id w1 : Nat) : Bool :=
  match s.call with
  | some (cid, a, ws) => cid == 2048 && a == 0x100006000 && s.blockOk a && callOp (ws.getD 0 0) == op && callWorld (ws.getD 0 0) == id && ws.getD 1 0 == w1 && bitsOf (ws.getD 0 0) 31 20 == 0
  | none => false
/-- A call with a reserved bit of word 0 set. -/
theorem wit_Signet_reserved : (match (called 6 [(1, 3), (2, 0x10)]).call with
    | some (_, a, ws) => (called 6 [(1, 3), (2, 0x10)]).blockOk a && callOp (ws.getD 0 0) == 6 && bitsOf (ws.getD 0 0) 31 20 != 0 && decide (a + 64 ≤ 0x020000000000)
    | none => false) = true := by decide +kernel
theorem wit_Signet_none : u0.call = none := by decide
/-- World 3 in word 0: bits 19:8. -/
theorem wit_Signet : calls (called 1 [(8, 2)]) 1 0 2 = true ∧ calls (called 2 [(1, 3), (11, 0x80)]) 2 3 0x80000000 = true ∧ calls (called 3 [(1, 3), (11, 0x80)]) 3 3 0x80000000 = true ∧
    calls (called 4 [(1, 3), (8, 1), (16, 3)]) 4 3 1 = true ∧ calls (called 5 [(1, 3), (9, 0x70), (12, 1)]) 5 3 0x100007000 = true ∧ calls (called 6 [(1, 3)]) 6 3 0 = true ∧
    calls (called 7 [(1, 3), (8, 4), (16, 2)]) 7 3 4 = true ∧ calls (called 8 [(1, 3), (9, 0x10)]) 8 3 0x1000 = true ∧ calls (called 6 [(1, 4)]) 6 4 0 = true := by decide +kernel
theorem wit_Signet_create : let s := called 1 [(8, 2)]
    s.slotsUsed < 2048 ∧ (∀ p ∈ s.worlds, p.2.keyed = true → p.2.vdevs &&& (2 : BitVec 256) = 0) := by decide
theorem wit_Signet_regions : let s := called 2 [(1, 3)]
    (s.world 3).keyed = true ∧ (s.world 3).halted = false ∧ (s.world 4).keyed = false ∧ regionOk 0x80000000 = true ∧ (s.ownerOf 0x80000000).getLsbD 15 = false ∧
    (s.setOwner 0x80000000 (BitVec.ofNat 16 (2 ^ 15 + 3))).ownerOf 0x80000000 = BitVec.ofNat 16 (2 ^ 15 + 3) := by decide
theorem wit_Signet_ways : let s := called 4 [(1, 3)]
    (s.die 1).waysOfOthers 3 &&& 3 = 0 ∧ ones12 ((s.die 1).waysOfOthers 3 ||| 3) ≤ 8 ∧ ¬ ones12 ((s.die 1).waysOfOthers 3 ||| 0x3FF) ≤ 8 := by decide
theorem wit_Signet_attest : 3425 + 128 * (switchesOf 3).length ≤ 3425 + 128 * 65535 ∧ (called 5 []).sharedRange 0x100007000 64 = true := by
  refine ⟨?_, by decide⟩
  have := List.length_take_le 65535 (Config.switches 3)
  unfold switchesOf; omega
theorem wit_Signet_shared : (called 5 []).sharedRange 0x180000000 (3425 + 128 * 65535) = true := by decide +kernel
theorem wit_Signet_destroy : (called 6 []).groups.any (fun p => !isSystem p.1 && p.2.resident && ((called 6 []).world 3).vdevs.getLsbD p.2.vdev.toNat) = false ∧
    ((called 8 []).group (2048 * 32)).world = 0 := by decide
/-- Package 1 of a pod, by RHCFG of port 0. -/
def pod1 : State := State.reset.setIo 32 { IoDie.reset with rhcfg := [(0, 0x8000000000000001)] }
theorem wit_Resets : State.reset.tripped = false ∧ ({ State.reset with tripped := true }).tripped = true ∧ State.reset.follows = false ∧ pod1.follows = true ∧
    pod1.launched = false ∧ ({ pod1 with launched := true }).launched = true := by decide

/-! The step, encodings, the machine as a whole. -/

/-- At 0x1000 stands the word of NOP. -/
def noppy : State := { mapped u0 with mem := [(0x100001000, 0x04), (0x100001001, 0xFE), (0x100001002, 0xFE), (0x100001003, 0xFE)], agenda := [.issue 0] }
/-- The words that the fetch of group 0 finds. -/
def wordsAt (s : State) (pc : DWord) : Option (List Nat) := match s.fetchInstr 0 0 pc with | .ok ws _ => some ws | _ => none
theorem wit_StepRuns : let s0 := { noppy with agenda := [], cur := 0 }
    noppy.agenda = [.issue 0] ∧ s0.canIssue 0 = true ∧ s0.pendingTrap 0 = none ∧ (s0.group 0).issueAddr = some 0x1000 ∧ wordsAt s0 0x1000 = some [0xFEFEFE04] := by decide +kernel
theorem wit_StepRuns_decodes : decodeWords 0xFEFEFE04 0 0 0 0 = .ok .nop ∧ ∃ e, decodeWords 0 0 0 0 0 = .error e := ⟨rfl, _, rfl⟩
theorem wit_StepRuns_illegal : wordsAt { mapped u0 with cur := 0 } 0x1000 = some [0] := by decide +kernel
theorem wit_StepRuns_turn : let s := { mapped u0 with boot := none }
    s.agenda = [] ∧ s.due = none ∧ s.nextGroup = some 0 := by decide +kernel
theorem wit_StepRuns_fetch : Memory.wf noppy.mem = true ∧ (match noppy.fetchWord 0 0x1000 (noppy.group 0).priv with | .ok w _ => w | _ => 0) = 0xFEFEFE04 ∧
    Tab.find (noppy.core (coreOf 0)).l1i (0x100001000 / 256) = none ∧ (∀ q ∈ (noppy.die 0).l2i, Tab.find q.2 (0x100001000 / 256) = none) ∧
    Tab.find (noppy.die 0).l2 (0x100001000 / 256) = none ∧ cxlHole 0x100001000 = false ∧ beyondPool (noppy.pool 0) 0x100001000 = false ∧ (0x100001000 : Nat) % 4 = 0 ∧
    (∀ i < 4, tagByte (localOf (noppy.pool 0) 0x100001000 + i) = false) := by decide +kernel
theorem wit_StepRuns_event : ({ u0 with agenda := [.event (.ptmCorrection 5)] }).agenda = .event (.ptmCorrection 5) :: [] := by decide
theorem wit_DecodeEncode : WellFormed (.iadd (.v 0) (.v 1) (.v 2)) = true ∧ (Instr.iadd (.v 0) (.v 1) (.v 2)).encodes = true ∧ (Instr.ptmCorrection 5).encodes = false := by decide
theorem wit_MemoryCanonical : Memory.wf State.reset.mem = true ∧ Memory.wf noppy.mem = true ∧ (match step noppy with | .next t => Memory.wf t.mem | _ => false) = true := by decide +kernel

end Sys2Proof.Tests
end

section
/-!
PROOF. Every code of an encoding reads back (01 R9, 03 R44 to R47), and so does every word of it (R37, R38, R43): each field of a word is the digit
of a mixed-radix number.
-/

namespace Sys2Proof

/-! Codes. -/

theorem SpecialReg.code_range (r : SpecialReg) : 0xD0 ≤ r.code ∧ r.code < 0xE0 := by cases r <;> decide

theorem Opnd.code_lt (o : Opnd) : o.code < 256 := by
  cases o with
  | sp r => have := r.code_range; simp only [Opnd.code]; omega
  | _ => simp only [Opnd.code]; omega

/-- A specifier code names its operand again. -/
@[simp] theorem Opnd.ofCode_code (o : Opnd) : Opnd.ofCode o.code = some o := by
  cases o with
  | v n => simp [Opnd.code, Opnd.ofCode]
  | oc n => revert n; decide
  | la n => revert n; decide
  | lc n => revert n; decide
  | sp r => cases r <;> rfl
  | imm k => revert k; decide
  | none => rfl
  | lit => rfl

@[simp] theorem Rnd.ofCode_code (r : Rnd) : Rnd.ofCode r.code = r := by cases r <;> rfl
theorem Rnd.code_lt (r : Rnd) : r.code < 8 := by cases r <;> decide
@[simp] theorem Ty.ofCode_code (t : Ty) : Ty.ofCode t.code = some t := by cases t <;> rfl
theorem Ty.code_lt (t : Ty) : t.code < 16 := by cases t <;> decide
@[simp] theorem Wid.ofCode_code (w : Wid) : Wid.ofCode w.code = some w := by cases w <;> rfl
theorem Wid.code_lt (w : Wid) : w.code < 8 := by cases w <;> decide
@[simp] theorem Cls.ofCode_code (c : Cls) : Cls.ofCode c.code = some c := by cases c <;> rfl
theorem Cls.code_lt (c : Cls) : c.code < 4 := by cases c <;> decide
@[simp] theorem Ord.ofCode_code (o : Ord) : Ord.ofCode o.code = o := by cases o <;> rfl
theorem Ord.code_lt (o : Ord) : o.code < 4 := by cases o <;> decide
@[simp] theorem Use.ofCode_code (u : Use) : Use.ofCode u.code = some u := by cases u <;> rfl
theorem Use.code_lt (u : Use) : u.code < 8 := by cases u <;> decide
@[simp] theorem Scope.ofCode_code (s : Scope) : Scope.ofCode s.code = some s := by cases s <;> rfl
theorem Scope.code_lt (s : Scope) : s.code < 16 := by cases s <;> decide

/-! Fields of a word. -/

theorem bitAt_eq (x i : Nat) : bitAt x i = decide (x / 2 ^ i % 2 = 1) := Nat.testBit_eq_decide_div_mod_eq

/-- A bit that a word holds reads back. -/
theorem bitAt_of_digit {w i : Nat} {b : Bool} (h : w / 2 ^ i % 2 = b.toNat) : bitAt w i = b := by
  rw [bitAt_eq, h]; cases b <;> rfl

theorem encodeWord0_lt {b a d maj len : Nat} (hb : b < 256) (ha : a < 256) (hd : d < 256) (hm : maj < 64) (hl : len < 4) :
    encodeWord0 b a d maj len < 2 ^ 32 := by unfold encodeWord0; omega

/-- Word 0 read back: LEN, MAJ, D, A and B. -/
theorem encodeWord0_fields {b a d maj len : Nat} (hb : b < 256) (ha : a < 256) (hd : d < 256) (hm : maj < 64) (hl : len < 4) :
    encodeWord0 b a d maj len % 4 = len ∧ bitsOf (encodeWord0 b a d maj len) 7 2 = maj ∧ bitsOf (encodeWord0 b a d maj len) 15 8 = d ∧
    bitsOf (encodeWord0 b a d maj len) 23 16 = a ∧ bitsOf (encodeWord0 b a d maj len) 31 24 = b := by
  simp only [bitsOf, encodeWord0]
  refine ⟨?_, ?_, ?_, ?_, ?_⟩ <;> omega

section Word1
variable (min : Nat) (x : Ext)

theorem encodeWord1_lt (h : min < 256) : encodeWord1 min x < 2 ^ 31 := by
  have := x.c.code_lt; have := x.rnd.code_lt; have := x.pred.isLt
  have := x.uni.toNat_le; have := x.dc.toNat_le; have := x.db.toNat_le; have := x.da.toNat_le; have := x.fc.toNat_le; have := x.fb.toNat_le
  have := x.fa.toNat_le; have := x.pneg.toNat_le; have := x.sat.toNat_le
  unfold encodeWord1; omega

/-- The low half of Word 1 read back: C, MIN, RND, SAT, PRED and PNEG. -/
theorem encodeWord1_low (h : min < 256) :
    bitsOf (encodeWord1 min x) 7 0 = x.c.code ∧ bitsOf (encodeWord1 min x) 15 8 = min ∧ bitsOf (encodeWord1 min x) 18 16 = x.rnd.code ∧
    bitAt (encodeWord1 min x) 19 = x.sat ∧ bitsOf (encodeWord1 min x) 22 20 = x.pred.val ∧ bitAt (encodeWord1 min x) 23 = x.pneg := by
  have := x.c.code_lt; have := x.rnd.code_lt; have := x.pred.isLt; have := x.pneg.toNat_le; have := x.sat.toNat_le
  refine ⟨?_, ?_, ?_, bitAt_of_digit ?_, ?_, bitAt_of_digit ?_⟩ <;> simp only [bitsOf, encodeWord1] <;> omega

/-- The high half of Word 1 read back: the policies, the dead bits, UNI, and bit 31, which is 0. -/
theorem encodeWord1_high (h : min < 256) :
    bitAt (encodeWord1 min x) 24 = x.fa ∧ bitAt (encodeWord1 min x) 25 = x.fb ∧ bitAt (encodeWord1 min x) 26 = x.fc ∧
    bitAt (encodeWord1 min x) 27 = x.da ∧ bitAt (encodeWord1 min x) 28 = x.db ∧ bitAt (encodeWord1 min x) 29 = x.dc ∧
    bitAt (encodeWord1 min x) 30 = x.uni ∧ bitAt (encodeWord1 min x) 31 = false := by
  have := x.c.code_lt; have := x.rnd.code_lt; have := x.pred.isLt; have := x.pneg.toNat_le; have := x.sat.toNat_le
  have := x.uni.toNat_le; have := x.dc.toNat_le; have := x.db.toNat_le; have := x.da.toNat_le; have := x.fc.toNat_le; have := x.fb.toNat_le
  have := x.fa.toNat_le
  refine ⟨?_, ?_, ?_, ?_, ?_, ?_, ?_, ?_⟩ <;> refine bitAt_of_digit ?_ <;> simp only [encodeWord1, Bool.toNat_false] <;> omega

end Word1

/-- The layout that a value of Word 2 has. -/
def W2.lay : W2 → Lay
  | .t .. => .t
  | .w _ => .w
  | .m .. => .m
  | .x .. => .x

theorem W2.encode_lt (v : W2) : v.encode < 2 ^ 32 := by
  cases v with
  | t imm sty dty r =>
    have := imm.isLt; have := sty.code_lt; have := dty.code_lt; have := r.code_lt
    simp only [W2.encode]; omega
  | w v => exact v.isLt
  | m s u o c wid off =>
    have := s.code_lt; have := u.code_lt; have := o.code_lt; have := c.code_lt; have := wid.code_lt; have := off.isLt
    simp only [W2.encode]; omega
  | x wsl ag bs sa sb afm bfm sca scw =>
    have := wsl.isLt; have := sca.code_lt; have := scw.code_lt; have := ag.toNat_le; have := bs.toNat_le; have := sa.toNat_le
    have := sb.toNat_le; have := afm.toNat_le; have := bfm.toNat_le
    simp only [W2.encode]; omega

/-- Layout T, field by field. -/
theorem decodeW2_t_eq {w : Nat} {imm : BitVec 16} {sty dty : Ty} {r : Opnd} (himm : bitsOf w 31 16 = imm.toNat) (hsty : bitsOf w 15 12 = sty.code)
    (hdty : bitsOf w 11 8 = dty.code) (hr : bitsOf w 7 0 = r.code) : decodeW2 .t w = some (.t imm sty dty r) := by
  unfold decodeW2
  rw [hsty, hdty, hr, himm]
  simp

/-- Layout M, field by field. -/
theorem decodeW2_m_eq {w : Nat} {s : Scope} {u : Use} {o : Ord} {c : Cls} {wid : Wid} {off : BitVec 18} (hs : bitsOf w 31 28 = s.code)
    (hu : bitsOf w 27 25 = u.code) (ho : bitsOf w 24 23 = o.code) (hc : bitsOf w 22 21 = c.code) (hw : bitsOf w 20 18 = wid.code)
    (hoff : bitsOf w 17 0 = off.toNat) : decodeW2 .m w = some (.m s u o c wid off) := by
  unfold decodeW2
  rw [hs, hu, ho, hc, hw, hoff]
  simp

/-- Layout X, field by field. -/
theorem decodeW2_x_eq {w : Nat} {wsl : Fin 32} {ag bs sa sb afm bfm : Bool} {sca scw : Opnd} (hwsl : bitsOf w 31 27 = wsl.val)
    (hres : bitsOf w 20 16 = 0) (hag : bitAt w 26 = ag) (hbs : bitAt w 25 = bs) (hsa : bitAt w 24 = sa) (hsb : bitAt w 23 = sb)
    (hafm : bitAt w 22 = afm) (hbfm : bitAt w 21 = bfm) (hsca : bitsOf w 15 8 = sca.code) (hscw : bitsOf w 7 0 = scw.code) :
    decodeW2 .x w = some (.x wsl ag bs sa sb afm bfm sca scw) := by
  unfold decodeW2
  rw [hwsl, hres, hag, hbs, hsa, hsb, hafm, hbfm, hsca, hscw]
  simp

/-- Word 2 reads back in its own layout. -/
theorem decodeW2_encode (v : W2) : decodeW2 v.lay v.encode = some v := by
  cases v with
  | t imm sty dty r =>
    have := imm.isLt; have := sty.code_lt; have := dty.code_lt; have := r.code_lt
    apply decodeW2_t_eq <;> simp only [bitsOf, W2.encode] <;> omega
  | w v => simp [decodeW2, W2.lay, W2.encode]
  | m s u o c wid off =>
    have := s.code_lt; have := u.code_lt; have := o.code_lt; have := c.code_lt; have := wid.code_lt; have := off.isLt
    apply decodeW2_m_eq <;> simp only [bitsOf, W2.encode] <;> omega
  | x wsl ag bs sa sb afm bfm sca scw =>
    have := wsl.isLt; have := sca.code_lt; have := scw.code_lt; have := ag.toNat_le; have := bs.toNat_le; have := sa.toNat_le
    have := sb.toNat_le; have := afm.toNat_le; have := bfm.toNat_le
    refine decodeW2_x_eq ?_ ?_ (bitAt_of_digit ?_) (bitAt_of_digit ?_) (bitAt_of_digit ?_) (bitAt_of_digit ?_) (bitAt_of_digit ?_)
      (bitAt_of_digit ?_) ?_ ?_ <;> simp only [bitsOf, W2.encode] <;> omega

end Sys2Proof
end

section
/-!
PROOF. The decoder gives back every well-formed instruction (01 R13, 03 R36 to R50): the words of each of the four lengths read back field by field, and the
opcode map gives back the instruction at its place.
-/

namespace Sys2Proof

/-! A legal form has the layout of its place. -/

/-- Layout T has no form at a place of another layout. -/
theorem formT_layout {maj min imm : Nat} {c : Opnd} {sty dty : Ty} (h : (formT maj min c imm sty dty).isSome) : layoutOf maj min = .t := by
  have hw : ¬ (0x20 ≤ maj ∧ maj ≤ 0x24 ∨ maj = 0x28) := fun hw => by
    have : maj = 0x20 ∨ maj = 0x21 ∨ maj = 0x22 ∨ maj = 0x23 ∨ maj = 0x24 ∨ maj = 0x28 := by omega
    rcases this with rfl | rfl | rfl | rfl | rfl | rfl <;> exact absurd h Bool.false_ne_true
  have hm : ¬ (0x38 ≤ maj ∧ maj ≤ 0x3B) := fun hm => by
    have : maj = 0x38 ∨ maj = 0x39 ∨ maj = 0x3A ∨ maj = 0x3B := by omega
    rcases this with rfl | rfl | rfl | rfl <;> exact absurd h Bool.false_ne_true
  have hx : ¬ (maj = 0x3C ∧ min ≤ 2) := fun ⟨hmaj, hmin⟩ => by
    have : min = 0 ∨ min = 1 ∨ min = 2 := by omega
    subst hmaj
    rcases this with rfl | rfl | rfl <;> exact absurd h Bool.false_ne_true
  unfold layoutOf
  rw [if_neg hw, if_neg hm, if_neg hx]

theorem formW_layout {maj min val : Nat} {l : Bool} (h : (formW maj min l val).isSome) : layoutOf maj min = .w := by
  unfold formW at h
  extract_lets at h
  split at h
  any_goals rfl
  cases h

theorem formM_layout {maj min : Nat} {d : Opnd} {scope : Scope} {use : Use} {ord : Ord} {cls : Cls} {wid : Wid} {off : BitVec 18}
    (h : (formM maj min d scope use ord cls wid off).isSome) : layoutOf maj min = .m := by
  unfold formM at h
  extract_lets at h
  split at h
  any_goals rfl
  cases h

theorem formX_layout {min : Nat} {wsl : Fin 32} {bs sa sb afm bfm : Bool} {sca scw : Opnd}
    (h : (formX min wsl bs sa sb afm bfm sca scw).isSome) : layoutOf 0x3C min = .x := by
  unfold formX at h
  extract_lets at h
  split at h
  any_goals rfl
  cases h

/-- A form that R49 assigns has the layout of R43. -/
theorem formOf_layout {maj min : Nat} {x : Ext} (h : (formOf maj min x).isSome) : layoutOf maj min = x.w2.lay := by
  unfold formOf at h
  split at h
  · next e => rw [e]; exact formT_layout h
  · next e => rw [e]; exact formW_layout h
  · next e => rw [e]; exact formM_layout h
  · next e =>
    rw [e]
    split at h
    · next hm => rw [hm]; exact formX_layout h
    · cases h

/-! Words as bytes. -/

theorem bytesLE_length (n x : Nat) : (bytesLE n x).length = n := by
  induction n generalizing x with
  | zero => rfl
  | succ n ih => simp [bytesLE, ih]

theorem ofBytesLE_bytesLE (n x : Nat) : ofBytesLE (bytesLE n x) = x % 256 ^ n := by
  induction n generalizing x with
  | zero => simp [bytesLE, ofBytesLE, Nat.mod_one]
  | succ n ih => simp [bytesLE, ofBytesLE, ih, Nat.pow_succ', Nat.mod_mul]

theorem wordsOf_bytesLE (w : Nat) (r : List Byte) : wordsOf (bytesLE 4 w ++ r) = w % 2 ^ 32 :: wordsOf r := by
  have h := ofBytesLE_bytesLE 4 w
  simp only [bytesLE] at h
  simp [bytesLE, wordsOf, h]

theorem flatMap_bytesLE_length (ws : List Nat) : (ws.flatMap (bytesLE 4)).length = 4 * ws.length := by
  induction ws with
  | nil => rfl
  | cons w ws ih =>
    rw [List.flatMap_cons, List.length_append, bytesLE_length, ih, List.length_cons]
    omega

/-- Words written out as bytes read back, with the words of what follows. -/
theorem wordsOf_flatMap {ws : List Nat} (h : ∀ w ∈ ws, w < 2 ^ 32) (r : List Byte) : wordsOf (ws.flatMap (bytesLE 4) ++ r) = ws ++ wordsOf r := by
  induction ws with
  | nil => rfl
  | cons w ws ih =>
    obtain ⟨hw, hws⟩ := List.forall_mem_cons.mp h
    rw [List.flatMap_cons, List.append_assoc, wordsOf_bytesLE, ih hws, Nat.mod_eq_of_lt hw, List.cons_append]

/-- The bytes of an instruction, as many as LEN says, decode as its words do, whatever follows them. -/
theorem decode_flatMap {w0 : Nat} {ws : List Nat} {i : Instr} (rest : List Byte) (hw : ∀ w ∈ w0 :: ws, w < 2 ^ 32)
    (hlen : lenOf w0 = 4 * (w0 :: ws).length)
    (hd : ∀ tail, let v := ws ++ tail; decodeWords w0 (v.getD 0 0) (v.getD 1 0) (v.getD 2 0) (v.getD 3 0) = .ok i) :
    decode ((w0 :: ws).flatMap (bytesLE 4) ++ rest) = .ok (i, rest) := by
  have hb := flatMap_bytesLE_length (w0 :: ws)
  have h20 : lenOf w0 ≤ 20 := by unfold lenOf; split <;> decide
  have htake : wordsOf (((w0 :: ws).flatMap (bytesLE 4) ++ rest).take 20) = w0 :: (ws ++ wordsOf (rest.take (20 - lenOf w0))) := by
    rw [List.take_append, List.take_of_length_le (by omega), hb, ← hlen, wordsOf_flatMap hw, List.cons_append]
  have hdrop : ((w0 :: ws).flatMap (bytesLE 4) ++ rest).drop (lenOf w0) = rest := by
    rw [hlen, ← hb, List.drop_left]
  have hlong : ¬ ((w0 :: ws).flatMap (bytesLE 4) ++ rest).length < lenOf w0 := by
    rw [List.length_append, hb, hlen]; omega
  unfold decode
  rw [htake]
  simp only [hlong, if_false, hd, hdrop]

/-! The words of each length. -/

section Words
variable {maj min len : Nat} {x : Ext} {i : Instr}

/-- Word 0 of the fields of a form. -/
def Ext.word0 (x : Ext) (maj len : Nat) : Nat := encodeWord0 x.b.code x.a.code x.d.code maj len

theorem Ext.word0_lt (hm : maj < 64) (hl : len < 4) : x.word0 maj len < 2 ^ 32 :=
  encodeWord0_lt x.b.code_lt x.a.code_lt x.d.code_lt hm hl

theorem Ext.word0_fields (hm : maj < 64) (hl : len < 4) :
    x.word0 maj len % 4 = len ∧ bitsOf (x.word0 maj len) 7 2 = maj ∧ Opnd.ofCode (bitsOf (x.word0 maj len) 15 8) = some x.d ∧
    Opnd.ofCode (bitsOf (x.word0 maj len) 23 16) = some x.a ∧ Opnd.ofCode (bitsOf (x.word0 maj len) 31 24) = some x.b := by
  obtain ⟨h0, h1, h2, h3, h4⟩ := encodeWord0_fields x.b.code_lt x.a.code_lt x.d.code_lt hm hl
  unfold Ext.word0
  simp [h0, h1, h2, h3, h4]

/-- LEN 10 and 11: Words 0 to 2 of an extended form decode to the instruction at its place (R37, R38). -/
theorem decodeExt_encode (hm : maj < 64) (hn : min < 256) (hl : len < 4) (hs : x.short = false) (hlay : layoutOf maj min = x.w2.lay)
    (hi : Instr.ofExt maj min x = some i) (hwf : WellFormed i = true) : decodeExt (x.word0 maj len) (encodeWord1 min x) x.w2.encode x.lit = .ok i := by
  obtain ⟨-, hmaj, hd, ha, hb⟩ := Ext.word0_fields (x := x) hm hl
  obtain ⟨hc, hmin, hrnd, hsat, hpred, hpneg⟩ := encodeWord1_low min x hn
  obtain ⟨hfa, hfb, hfc, hda, hdb, hdc, huni, hres⟩ := encodeWord1_high min x hn
  unfold decodeExt
  simp only [hres, Bool.false_eq_true, if_false]
  rw [hmaj, hd, ha, hb, hc, Opnd.ofCode_code, hmin, hlay, decodeW2_encode, hfa, hfb, hfc, hda, hdb, hdc, huni, hsat, hrnd, Rnd.ofCode_code, hpred,
    hpneg, Fin.ofNat_val_eq_self, ← hs]
  simp only [hi, hwf, if_true]

/-- LEN 01, field by field: the form with the implied Word 1 (01 R12) and the literal. -/
theorem decodeShort_eq {w0 lit : Nat} {d a b : Opnd} (hmaj : bitsOf w0 7 2 = maj) (hbase : hasBase maj = true)
    (hd : Opnd.ofCode (bitsOf w0 15 8) = some d) (ha : Opnd.ofCode (bitsOf w0 23 16) = some a) (hb : Opnd.ofCode (bitsOf w0 31 24) = some b)
    (hi : Instr.ofExt maj 0 { Ext.ofBase maj d a b with short := true, lit := some (BitVec.ofNat 64 lit) } = some i) (hwf : WellFormed i = true) :
    decodeShort w0 lit = .ok i := by
  subst hmaj
  unfold decodeShort
  rw [hd, ha, hb]
  dsimp only at hi ⊢
  simp only [hi, hbase, hwf, Bool.not_true, Bool.false_eq_true, if_false, if_true]

/-- A base word with a literal behind it decodes to its instruction. -/
theorem decodeShort_encode (hm : maj < 64) (hbase : hasBase maj = true) {l : BitVec 64}
    (hx : x = { Ext.ofBase maj x.d x.a x.b with short := true, lit := some l }) (hi : Instr.ofExt maj 0 x = some i) (hwf : WellFormed i = true) :
    decodeShort (x.word0 maj 1) l.toNat = .ok i := by
  obtain ⟨-, hmaj, hd, ha, hb⟩ := Ext.word0_fields (x := x) hm (by decide : 1 < 4)
  exact decodeShort_eq hmaj hbase hd ha hb (by rw [BitVec.ofNat_toNat, BitVec.setWidth_eq, ← hx, hi]) hwf

end Words

/-! What a legal form is known to be. -/

theorem legalExt_checks {maj min : Nat} {x : Ext} (h : legalExt maj min x = true) :
    (formOf maj min x).isSome ∧ litOk maj min x = true ∧ shortOk maj min x = true := by
  unfold legalExt at h
  split at h
  · cases h
  · next f hf =>
    simp only [Bool.and_eq_true] at h
    obtain ⟨⟨⟨⟨⟨-, hlit⟩, hshort⟩, -⟩, -⟩, -⟩ := h
    exact ⟨by rw [hf]; rfl, hlit, hshort⟩

/-- Behind a base word stands a literal, R39. -/
theorem litOk_short {maj min : Nat} {x : Ext} (h : litOk maj min x = true) (hl : x.lit = none) : x.short = false := by
  unfold litOk at h
  rw [hl] at h
  simp only [Bool.and_eq_true, Bool.not_eq_true'] at h
  exact h.2

/-- Word 2 of zero, by its layout. -/
theorem zeroW2_eq (maj : Nat) :
    (layoutOf maj 0 = .t → zeroW2 maj = .t 0 .dflt .dflt (.v 0)) ∧ (layoutOf maj 0 = .w → zeroW2 maj = .w 0) ∧
    (layoutOf maj 0 = .m → zeroW2 maj = .m .grp .none .rlx .ca .b32 0) := by
  unfold layoutOf zeroW2
  by_cases hw : 0x20 ≤ maj ∧ maj ≤ 0x24 ∨ maj = 0x28
  · rw [if_pos hw, if_pos hw]
    exact ⟨nofun, fun _ => rfl, nofun⟩
  · by_cases hm : 0x38 ≤ maj ∧ maj ≤ 0x3B
    · rw [if_neg hw, if_neg hw, if_pos hm, if_pos hm]
      exact ⟨nofun, nofun, fun _ => rfl⟩
    · rw [if_neg hw, if_neg hw, if_neg hm, if_neg hm]
      refine ⟨fun _ => rfl, fun h => ?_, fun h => ?_⟩ <;> (split at h <;> cases h)

/-- A form behind a base word is the extended form of that word, with the literal (01 R12). -/
theorem shortOk_eq {maj min : Nat} {x : Ext} (h : shortOk maj min x = true) (hlay : layoutOf maj min = x.w2.lay) (hs : x.short = true) :
    hasBase maj = true ∧ min = 0 ∧ x = { Ext.ofBase maj x.d x.a x.b with short := true, lit := x.lit } := by
  obtain ⟨short, d, a, b, c, fa, fb, fc, da, db, dc, uni, sat, rnd, pred, pneg, v, lit⟩ := x
  simp only at hs hlay
  subst hs
  simp only [shortOk, Bool.not_true, Bool.false_or, Bool.and_eq_true, beq_iff_eq, Bool.not_eq_true'] at h
  obtain ⟨⟨⟨⟨⟨⟨⟨⟨⟨⟨⟨⟨⟨⟨hbase, rfl⟩, rfl⟩, rfl⟩, rfl⟩, rfl⟩, rfl⟩, rfl⟩, rfl⟩, rfl⟩, rfl⟩, rfl⟩, rfl⟩, rfl⟩, hv⟩ := h
  have hz : v = zeroW2 maj := by
    obtain ⟨ht, hw, hm⟩ := zeroW2_eq maj
    cases v with
    | t imm sty dty r => simp only [Bool.and_eq_true, beq_iff_eq] at hv; rw [ht hlay]; simp [hv]
    | w v => simp only [beq_iff_eq] at hv; rw [hw hlay, hv]
    | m s u o c wid off => simp only [Bool.and_eq_true, beq_iff_eq] at hv; rw [hm hlay]; simp [hv]
    | x => cases hv
  exact ⟨hbase, rfl, by simp [Ext.ofBase, hz]⟩

/-! Base words. -/

theorem ofBranch_maj {maj : Nat} {d : Opnd} {off : BitVec 16} {i : Instr} (h : Instr.ofBranch maj d off = some i) : 0x20 ≤ maj ∧ maj ≤ 0x23 := by
  unfold Instr.ofBranch at h
  split at h
  any_goals decide
  cases h

theorem ofBase_maj {maj : Nat} {d a b : Opnd} {i : Instr} (h : Instr.ofBase maj d a b = some i) : ¬ (0x20 ≤ maj ∧ maj ≤ 0x23) := by
  rintro ⟨hlo, hhi⟩
  have : maj = 0x20 ∨ maj = 0x21 ∨ maj = 0x22 ∨ maj = 0x23 := by omega
  rcases this with rfl | rfl | rfl | rfl <;> cases h

/-- The two offset bytes of a base-form branch hold its offset (R45). -/
theorem branch_offset (off : BitVec 16) :
    BitVec.ofNat 16 ((off.signExtend 32).toNat / 256 % 256 * 256 + (off.signExtend 32).toNat % 256) = off := by
  have h : (off.signExtend 32).toNat / 256 % 256 * 256 + (off.signExtend 32).toNat % 256 = (off.signExtend 32).toNat % 2 ^ 16 := by omega
  have ht : (off.signExtend 32).setWidth 16 = off := by
    apply BitVec.eq_of_getLsbD_eq
    intro k hk
    have hk' : k < 32 := by omega
    rw [BitVec.getLsbD_setWidth, BitVec.getLsbD_signExtend, decide_eq_true hk, decide_eq_true hk', if_pos hk, Bool.true_and, Bool.true_and]
  apply BitVec.eq_of_toNat_eq
  rw [h, BitVec.toNat_ofNat, Nat.mod_mod, ← BitVec.toNat_setWidth, ht]

section Base
variable {maj : Nat} {d a b : Opnd} {i : Instr}

/-- LEN 00 of a branch: the offset stands in A and B. -/
theorem decodeBase_branch {off : BitVec 16} (hm : maj < 64) (hi : Instr.ofBranch maj d off = some i) (hwf : WellFormed i = true) :
    decodeBase (encodeWord0 ((off.signExtend 32).toNat % 256) ((off.signExtend 32).toNat / 256 % 256) d.code maj 0) = .ok i := by
  obtain ⟨-, hmaj, hd, ha, hb⟩ := encodeWord0_fields (len := 0) (Nat.mod_lt (off.signExtend 32).toNat (by decide : 256 > 0))
    (Nat.mod_lt ((off.signExtend 32).toNat / 256) (by decide : 256 > 0)) d.code_lt hm (by decide)
  unfold decodeBase
  rw [hmaj, if_pos (ofBranch_maj hi), hd, ha, hb, Opnd.ofCode_code, branch_offset]
  simp only [hi, hwf, if_true]

/-- LEN 00 of any other form. -/
theorem decodeBase_word (hm : maj < 64) (hbase : hasBase maj = true) (hf : (formOf maj 0 (Ext.ofBase maj d a b)).isSome)
    (hi : Instr.ofBase maj d a b = some i) (hwf : WellFormed i = true) : decodeBase (encodeWord0 b.code a.code d.code maj 0) = .ok i := by
  obtain ⟨-, hmaj, hd, ha, hb⟩ := encodeWord0_fields (len := 0) b.code_lt a.code_lt d.code_lt hm (by decide)
  have hform : ((formOf maj 0 (Ext.ofBase maj d a b)).isNone || !hasBase maj) = false := by
    rw [hbase, Option.isNone_eq_false_iff.mpr hf]; rfl
  unfold decodeBase
  rw [hmaj, if_neg (ofBase_maj hi), hd, ha, hb]
  simp only [Opnd.ofCode_code, hform, hi, hwf, Bool.false_eq_true, if_false, if_true]

end Base

namespace Laws.Encodes

/-- Every instruction reads back from its place in the opcode map, R49 and R50. -/
theorem placed : ∀ i : Instr, Statement i
  | .nop => nop | .nopX x => nopX x | .yield x => yield x | .mov d a => mov d a | .movX x => movX x | .sel x => sel x | .mov64 x => mov64 x
  | .movx x => movx x | .movxw x => movxw x | .iadd d a b => iadd d a b | .iaddX x => iaddX x | .iadd64 x => iadd64 x | .lea x => lea x
  | .iaddc x => iaddc x | .isubb x => isubb x | .isub d a b => isub d a b | .isubX x => isubX x | .isub64 x => isub64 x | .ineg x => ineg x
  | .iabs x => iabs x | .imul d a b => imul d a b | .imulX x => imulX x | .imulh x => imulh x | .imulw x => imulw x | .imad x => imad x
  | .imadw x => imadw x | .imad64 x => imad64 x | .imin d a b => imin d a b | .iminX x => iminX x | .imax x => imax x | .and d a b => and d a b
  | .andX x => andX x | .andn x => andn x | .bfun x => bfun x | .or d a b => or d a b | .orX x => orX x | .xor d a b => xor d a b | .xorX x => xorX x
  | .not x => not x | .shl d a b => shl d a b | .shlX x => shlX x | .shl64 x => shl64 x | .shr d a b => shr d a b | .shrX x => shrX x
  | .sar x => sar x | .shr64 x => shr64 x | .sar64 x => sar64 x | .rotl x => rotl x | .fshl x => fshl x | .fshr x => fshr x | .bfx d a b => bfx d a b
  | .bfxX x => bfxX x | .bfi x => bfi x | .bmsk x => bmsk x | .popc d a => popc d a | .popcX x => popcX x | .clz x => clz x | .ctz x => ctz x
  | .brev x => brev x | .bytep x => bytep x | .icmp d a b => icmp d a b | .icmpX x => icmpX x | .icmp64 x => icmp64 x | .plop x => plop x
  | .cvti x => cvti x | .fadd d a b => fadd d a b | .faddX x => faddX x | .fsub x => fsub x | .fmul d a b => fmul d a b | .fmulX x => fmulX x
  | .ffma d a b => ffma d a b | .ffmaX x => ffmaX x | .fmin d a b => fmin d a b | .fminX x => fminX x | .fmax x => fmax x | .fminn x => fminn x
  | .fmaxn x => fmaxn x | .fcmp d a b => fcmp d a b | .fcmpX x => fcmpX x | .fclass x => fclass x | .fcvt x => fcvt x | .fcvti x => fcvti x
  | .icvtf x => icvtf x | .frnd x => frnd x | .fscale x => fscale x | .frcp d a => frcp d a | .frcpX x => frcpX x | .frsq x => frsq x
  | .fsqrt x => fsqrt x | .fex2 x => fex2 x | .flg2 x => flg2 x | .fsin x => fsin x | .fcos x => fcos x | .ftanh x => ftanh x | .fdot2 x => fdot2 x
  | .fma2 x => fma2 x | .fadd2 x => fadd2 x | .fmul2 x => fmul2 x | .dot4 x => dot4 x | .bra off => bra off | .braX x => braX x
  | .brc d off => brc d off | .brcX x => brcX x | .bru d off => bru d off | .bruX x => bruX x | .call d off => call d off | .callX x => callX x
  | .calli x => calli x | .ret x => ret x | .jmpi x => jmpi x | .loop x => loop x | .brkl x => brkl x | .exit => exit | .exitX x => exitX x
  | .rfl x => rfl x | .sleep a => sleep a | .sleepX x => sleepX x | .sleepd x => sleepd x | .sleepWake gid => sleepWake gid | .trap => trap
  | .trapX x => trapX x | .tfence x => tfence x | .bkpt x => bkpt x | .rett x => rett x | .mfs d => mfs d | .mfsX x => mfsX x | .mts x => mts x
  | .ipf a => ipf a | .ipfX x => ipfX x | .fencei x => fencei x | .wfi a => wfi a | .wfiX x => wfiX x | .wfiDeadline gid => wfiDeadline gid
  | .tlbi a b => tlbi a b | .tlbiX x => tlbiX x | .genb x => genb x | .xacq d a => xacq d a | .xacqX x => xacqX x | .xacqGrant gid => xacqGrant gid
  | .xrel x => xrel x | .xshr x => xshr x | .ocld x => ocld x | .ocinv x => ocinv x | .feset x => feset x | .feclr x => feclr x
  | .fewait x => fewait x | .qxch d a => qxch d a | .qxchX x => qxchX x | .qbc x => qbc x | .gshf d a b => gshf d a b | .gshfX x => gshfX x
  | .gshfx x => gshfx x | .gshfup x => gshfup x | .gshfdn x => gshfdn x | .gvote d a => gvote d a | .gvoteX x => gvoteX x | .gmatch x => gmatch x
  | .gbcast x => gbcast x | .gred d a => gred d a | .gredX x => gredX x | .gscan x => gscan x | .gbar => gbar | .gbarX x => gbarX x
  | .gbara x => gbara x | .gbarw x => gbarw x | .phaseComplete die w => phaseComplete die w | .binit a b => binit a b | .binitX x => binitX x
  | .barv x => barv x | .bwait x => bwait x | .barw x => barw x | .btest x => btest x | .ld d a => ld d a | .ldX x => ldX x | .lds x => lds x
  | .ldw x => ldw x | .st a b => st a b | .stX x => stX x | .sts x => sts x | .stw x => stw x | .loadReturn id dev => loadReturn id dev
  | .storeAck id => storeAck id | .aadd d a b => aadd d a b | .aaddX x => aaddX x | .amin x => amin x | .amax x => amax x | .aand x => aand x
  | .aor x => aor x | .axor x => axor x | .axch x => axch x | .acas x => acas x | .ainc x => ainc x | .adec x => adec x | .afadd x => afadd x
  | .afmin x => afmin x | .afmax x => afmax x | .atomicReturn id => atomicReturn id | .qntApply id => qntApply id | .fence => fence
  | .fenceX x => fenceX x | .pref x => pref x | .cinv x => cinv x | .cwb x => cwb x | .cpin x => cpin x | .cunpin x => cunpin x
  | .locketFade die w => locketFade die w | .mma x => mma x | .mmaq x => mmaq x | .mmai x => mmai x | .passStart id => passStart id | .acz x => acz x
  | .acld x => acld x | .acmov x => acmov x | .acst x => acst x | .alut x => alut x | .osopen d a b => osopen d a b | .osopenX x => osopenX x
  | .ossub x => ossub x | .osclose x => osclose x | .streamTileRead die slot t => streamTileRead die slot t | .aspill x => aspill x
  | .afill x => afill x | .aown x => aown x | .cqadv d a b => cqadv d a b | .cqadvX x => cqadvX x | .batchDecision cid q => batchDecision cid q
  | .cqwait x => cqwait x | .cqseq x => cqseq x | .dcwait x => dcwait x | .tready x => tready x | .cqput x => cqput x
  | .entryBegin cid q => entryBegin cid q | .entryComplete cid q => entryComplete cid q | .engineWindowWrite cid q => engineWindowWrite cid q
  | .queueHalt cid q cause addr => queueHalt cid q cause addr | .promiseMiss cid q => promiseMiss cid q | .qstatClrc cid q => qstatClrc cid q
  | .qstatHaltClear cid q => qstatHaltClear cid q | .deferredReport gid => deferredReport gid | .step gid => step gid
  | .promiseMissed gid => promiseMissed gid | .watchdog gid => watchdog gid | .preempt gid => preempt gid | .breakpoint gid => breakpoint gid
  | .integrity gid pa => integrity gid pa | .walkResult die idx => walkResult die idx | .homePerform id => homePerform id
  | .stampAnnouncement src dst => stampAnnouncement src dst | .refresh die ch act => refresh die ch act | .hotRowWindowEnd die => hotRowWindowEnd die
  | .clearSweep die line => clearSweep die line | .scrub die pa res => scrub die pa res | .flitRetry die port => flitRetry die port
  | .linkFailover die port => linkFailover die port | .writeAck src home num => writeAck src home num
  | .inboundPostedWrite q data => inboundPostedWrite q data | .inboundRead q len => inboundRead q len
  | .atsTranslationRequest q => atsTranslationRequest q | .atsInvalidationCompletion port rid => atsInvalidationCompletion port rid
  | .atsInvalidationTimeout port rid => atsInvalidationTimeout port rid | .pageRequest q rd wr last prg => pageRequest q rd wr last prg
  | .prgrsp io v => prgrsp io v | .completionTimeout id => completionTimeout id | .intxMessage port => intxMessage port
  | .ptmRequest port => ptmRequest port | .ideCheckFailure q => ideCheckFailure q | .surpriseRemoval port => surpriseRemoval port
  | .bezelStore id => bezelStore id | .claspBarrierArrival io => claspBarrierArrival io | .claspCounterAdd io => claspCounterAdd io
  | .claspInterrupt io => claspInterrupt io | .wake cid => wake cid | .remoteWrite r data => remoteWrite r data
  | .remoteWriteAck id ok => remoteWriteAck id ok | .rwrev io w => rwrev io w | .reductionContribution r data => reductionContribution r data
  | .reductionTimeout idx => reductionTimeout idx | .launch cid tail => launch cid tail | .launchCopy vdev => launchCopy vdev
  | .dependencePoll seq => dependencePoll seq | .placeGang die seq => placeGang die seq | .chunkArrival wg => chunkArrival wg
  | .stealMessage seq asker => stealMessage seq asker | .stealAnswer seq asker => stealAnswer seq asker | .groupRelease gid => groupRelease gid
  | .launchComplete seq => launchComplete seq | .turnEnd die => turnEnd die | .gangSave gang => gangSave gang | .gangRestore gang => gangRestore gang
  | .vdreset die v => vdreset die v | .clrsize die size => clrsize die size | .cecntRead die off width => cecntRead die off width
  | .registerWrite addr width val level => registerWrite addr width val level | .create => create | .admitCall => admitCall | .release => release
  | .ways => ways | .attest => attest | .destroy => destroy | .idekey => idekey | .enter => enter | .coldReset r => coldReset r
  | .warmReset r => warmReset r | .throttleCheck die power junction stack => throttleCheck die power junction stack
  | .thermalTrip die => thermalTrip die | .ptmCorrection ahead => ptmCorrection ahead | .standbySupplyApplied die => standbySupplyApplied die
  | .genbCompletion gid => genbCompletion gid | .distributorReply id => distributorReply id

end Laws.Encodes

open Laws.Encodes (Placed Statement placed)

/-- The place of an instruction with an encoding. -/
theorem Instr.placed_of_parts {i : Instr} {p : Parts} (h : i.parts = some p) : Placed p i := by
  have hi := placed i
  unfold Statement at hi
  rwa [h] at hi

section Words
variable {i : Instr} {p : Parts}

/-- A base word alone. -/
theorem decode_base (rest : List Byte) (hp : i.parts = some p) (hb : p.base = true) (hwf : WellFormed i = true) (hleg : p.legal = true) :
    decode (encodeBytes i ++ rest) = .ok (i, rest) := by
  obtain ⟨hm, -, -, hbase⟩ := Instr.placed_of_parts hp
  obtain ⟨hhas, hmin, hof⟩ := hbase hb
  simp only [Parts.legal, Bool.and_eq_true] at hleg
  obtain ⟨hform, -, -⟩ := legalExt_checks hleg.1
  rw [hmin] at hform
  have hone : ∃ w, encode i = [w] ∧ w < 2 ^ 32 ∧ w % 4 = 0 ∧ decodeBase w = .ok i := by
    obtain ⟨off, hx, hi⟩ | ⟨hx, hi⟩ := hof
    · refine ⟨_, ?_, encodeWord0_lt (Nat.mod_lt _ (by decide)) (Nat.mod_lt _ (by decide)) p.x.d.code_lt hm (by decide),
        (encodeWord0_fields (Nat.mod_lt _ (by decide)) (Nat.mod_lt _ (by decide)) p.x.d.code_lt hm (by decide)).1, decodeBase_branch hm hi hwf⟩
      have hw2 : p.x.w2 = .w (off.signExtend 32) := by rw [hx]; rfl
      simp only [encode, hp, hb, if_true, if_pos (ofBranch_maj hi), hw2]
    · refine ⟨_, ?_, Ext.word0_lt (x := p.x) hm (by decide), (Ext.word0_fields hm (by decide)).1,
        decodeBase_word hm hhas (hx ▸ hform) hi hwf⟩
      simp only [encode, hp, hb, if_true, if_neg (ofBase_maj hi), Ext.word0]
  obtain ⟨w, he, hlt, hlen, hd⟩ := hone
  rw [encodeBytes, he]
  refine decode_flatMap rest (by simpa using hlt) (by simp [lenOf, hlen]) (fun tail => ?_)
  simp only [decodeWords, hlen, hd]

/-- A base word with a literal behind it. -/
theorem decode_short (rest : List Byte) (hp : i.parts = some p) (hb : p.base = false) (hs : p.x.short = true) (hwf : WellFormed i = true)
    (hleg : legalExt p.maj p.min p.x = true) : decode (encodeBytes i ++ rest) = .ok (i, rest) := by
  obtain ⟨hm, -, hext, -⟩ := Instr.placed_of_parts hp
  obtain ⟨hform, hlit, hshort⟩ := legalExt_checks hleg
  obtain ⟨hbase, hmin, hx⟩ := shortOk_eq hshort (formOf_layout hform) hs
  obtain ⟨l, hl⟩ : ∃ l, p.x.lit = some l := by
    cases hl : p.x.lit with
    | none => rw [litOk_short hlit hl] at hs; cases hs
    | some l => exact ⟨l, rfl⟩
  have hi := hext hb
  rw [hmin] at hi
  rw [hl] at hx
  have hw0 := (Ext.word0_fields (x := p.x) hm (by decide : 1 < 4)).1
  have hd := decodeShort_encode hm hbase hx hi hwf
  have he : encode i = p.x.word0 p.maj 1 :: litWords l := by simp [encode, hp, hb, hl, hs, Ext.word0]
  have hjoin : l.toNat % 2 ^ 32 + 2 ^ 32 * (l.toNat / 2 ^ 32) = l.toNat := Nat.mod_add_div _ _
  rw [encodeBytes, he]
  refine decode_flatMap rest ?_ (by simp [lenOf, hw0, litWords]) (fun tail => ?_)
  · have := l.isLt
    simp only [litWords, List.forall_mem_cons, List.not_mem_nil, false_imp_iff, implies_true, and_true]
    exact ⟨Ext.word0_lt hm (by decide), Nat.mod_lt _ (by decide), by omega⟩
  · simp only [decodeWords, hw0, litWords, List.cons_append, List.getD_cons_zero, List.getD_cons_succ, hjoin, hd]

/-- An extended form, with a literal or without. -/
theorem decode_ext (rest : List Byte) (hp : i.parts = some p) (hb : p.base = false) (hs : p.x.short = false) (hwf : WellFormed i = true)
    (hleg : legalExt p.maj p.min p.x = true) : decode (encodeBytes i ++ rest) = .ok (i, rest) := by
  obtain ⟨hm, hn, hext, -⟩ := Instr.placed_of_parts hp
  have hlay := formOf_layout (legalExt_checks hleg).1
  have hd := fun {len : Nat} (hl : len < 4) => decodeExt_encode hm hn hl hs hlay (hext hb) hwf
  have hw1 : encodeWord1 p.min p.x < 2 ^ 32 := Nat.lt_trans (encodeWord1_lt p.min p.x hn) (by decide)
  rw [encodeBytes]
  cases hl : p.x.lit with
  | none =>
    have hw0 := (Ext.word0_fields (x := p.x) hm (by decide : 2 < 4)).1
    have he : encode i = [p.x.word0 p.maj 2, encodeWord1 p.min p.x, p.x.w2.encode] := by simp [encode, hp, hb, hl, Ext.word0]
    rw [hl] at hd
    rw [he]
    refine decode_flatMap rest ?_ (by simp [lenOf, hw0]) (fun tail => ?_)
    · simp only [List.forall_mem_cons, List.not_mem_nil, false_imp_iff, implies_true, and_true]
      exact ⟨Ext.word0_lt hm (by decide), hw1, p.x.w2.encode_lt⟩
    · simp only [decodeWords, hw0, List.cons_append, List.getD_cons_zero, List.getD_cons_succ, hd (by decide : 2 < 4)]
  | some l =>
    have hw0 := (Ext.word0_fields (x := p.x) hm (by decide : 3 < 4)).1
    have he : encode i = p.x.word0 p.maj 3 :: encodeWord1 p.min p.x :: p.x.w2.encode :: litWords l := by simp [encode, hp, hb, hl, hs, Ext.word0]
    have hjoin : BitVec.ofNat 64 (l.toNat % 2 ^ 32 + 2 ^ 32 * (l.toNat / 2 ^ 32)) = l := by
      rw [Nat.mod_add_div, BitVec.ofNat_toNat, BitVec.setWidth_eq]
    rw [hl] at hd
    rw [he]
    refine decode_flatMap rest ?_ (by simp [lenOf, hw0, litWords]) (fun tail => ?_)
    · have := l.isLt
      simp only [litWords, List.forall_mem_cons, List.not_mem_nil, false_imp_iff, implies_true, and_true]
      exact ⟨Ext.word0_lt hm (by decide), hw1, p.x.w2.encode_lt, Nat.mod_lt _ (by decide), by omega⟩
    · simp only [decodeWords, hw0, litWords, List.cons_append, List.getD_cons_zero, List.getD_cons_succ, hjoin, hd (by decide : 3 < 4)]

end Words

/-- The bytes of a well-formed instruction decode to it, whatever follows them. -/
theorem decode_encodeBytes {i : Instr} (rest : List Byte) (hwf : WellFormed i = true) (he : i.encodes = true) :
    decode (encodeBytes i ++ rest) = .ok (i, rest) := by
  obtain ⟨p, hp⟩ := Option.isSome_iff_exists.mp he
  have hleg : p.legal = true := by simpa [WellFormed, hp] using hwf
  have hext : legalExt p.maj p.min p.x = true := by simp only [Parts.legal, Bool.and_eq_true] at hleg; exact hleg.1
  cases hb : p.base with
  | true => exact decode_base rest hp hb hwf hleg
  | false =>
    cases hs : p.x.short with
    | true => exact decode_short rest hp hb hs hwf hext
    | false => exact decode_ext rest hp hb hs hwf hext

end Sys2Proof
end

section
/-!
PROOF. `exec` answers a next state for every row of the opcode table (03 R51 to R53, 18 R321): what an instruction may not do traps, and taking a trap is a next state.
Each meaning is a tree of conditions; at every leaf stands a next state, or the gate of an issue, which leads to one.
-/

namespace Sys2Proof.Machine

/-- An outcome is a next state. -/
def GoesOn (o : Host.Outcome State Fault Refusal) : Prop := ∃ t, o = .next t

@[simp] theorem GoesOn.next (t : State) : GoesOn (.next t) := ⟨t, rfl⟩
theorem GoesOn.ite {a b : Host.Outcome State Fault Refusal} {p : Prop} [Decidable p] (h : GoesOn a) (k : GoesOn b) : GoesOn (if p then a else b) := by
  split <;> assumption

/-! The shared operations. -/

/-- The checks of an issue stall it, trap it or let it pass. -/
@[simp] theorem State.gate_goesOn (s : State) (c : Ctx) (k : Chk) (ok : State) : GoesOn (s.gate c k ok) := by
  cases k <;> exact ⟨_, rfl⟩

@[simp] theorem State.runLanes_goesOn (s : State) (c : Ctx) (srcs : List Src) (dk : Dst) (d : Opnd) (latch : Bool) (f : Nat → Eff) :
    GoesOn (s.runLanes c srcs dk d latch f) := s.gate_goesOn _ _ _

theorem State.checkIndex_goesOn (s : State) (c : Ctx) (k : Nat → Nat) {rest : Host.Outcome State Fault Refusal} (hr : GoesOn rest) :
    GoesOn (s.checkIndex c k rest) := by
  unfold State.checkIndex
  split
  · exact .next _
  · exact hr

theorem State.special_goesOn (s : State) (i : Instr) (x : Ext) (fn : Nat) : GoesOn (s.special i x fn) := by
  simp only [State.special]; repeat' split
  all_goals simp
theorem exitMeaning_goesOn (i : Instr) (x : Ext) (s : State) : GoesOn (exitMeaning i x s) := by
  simp only [exitMeaning]; repeat' split
  all_goals simp
theorem State.sleepTo_goesOn (s : State) (i : Instr) (x : Ext) (n : Nat) (wake : Ctx → Nat → Nat) : GoesOn (s.sleepTo i x n wake) := by
  simp only [State.sleepTo]; repeat' split
  all_goals simp
theorem mfsMeaning_goesOn (i : Instr) (x : Ext) (s : State) : GoesOn (mfsMeaning i x s) := by
  simp only [mfsMeaning]; repeat' split
  all_goals simp
theorem wfiMeaning_goesOn (i : Instr) (x : Ext) (s : State) : GoesOn (wfiMeaning i x s) := by
  simp only [wfiMeaning]; repeat' split
  all_goals simp
theorem tlbiMeaning_goesOn (i : Instr) (x : Ext) (s : State) : GoesOn (tlbiMeaning i x s) := by
  simp only [tlbiMeaning]; repeat' split
  all_goals simp
theorem State.gbarForm_goesOn (s : State) (i : Instr) (x : Ext) (arrive wait : Bool) : GoesOn (s.gbarForm i x arrive wait) := by
  simp only [State.gbarForm]; repeat' split
  all_goals simp
theorem State.tileGate_goesOn (s : State) (c : Ctx) (srcs : List Src) (d tile : Opnd) (dn : Nat) (kind : TileKind → Bool) (reads : Bool) (ok : Nat → State) :
    GoesOn (s.tileGate c srcs d tile dn kind reads ok) := by
  simp only [State.tileGate]; repeat' split
  all_goals simp
theorem State.onTile_goesOn (s : State) (i : Instr) (x : Ext) (srcs : List Src) (num : Opnd) (reads : Bool) (ok : Ctx → Nat → State) :
    GoesOn (s.onTile i x srcs num reads ok) := by
  simp only [State.onTile]; repeat' split
  all_goals simp
theorem State.streamForm_goesOn (s : State) (i : Instr) (x : Ext) (srcs : List Src) (d : Opnd) (same : Ctx → Bool) (ok : Ctx → Nat → State) :
    GoesOn (s.streamForm i x srcs d same ok) := by
  simp only [State.streamForm]; repeat' split
  all_goals simp
theorem State.signetCall_goesOn (s : State) (op : Nat) (go : State → Nat → Nat → (Nat → Nat) → Nat × Nat × State) : GoesOn (s.signetCall op go) := by
  simp only [State.signetCall]; repeat' split
  all_goals simp

/-! Meanings that are such an operation. -/

theorem sleepMeaning_goesOn (i : Instr) (x : Ext) (s : State) : GoesOn (sleepMeaning i x s) := by
  unfold sleepMeaning
  exact s.sleepTo_goesOn _ _ _ _
theorem execSleepd_goesOn (x : Ext) (s : State) : GoesOn (execSleepd x s) := by
  unfold execSleepd
  exact s.sleepTo_goesOn _ _ _ _
theorem State.mmaForm_goesOn (s : State) (i : Instr) (x : Ext) (k : PassKind) : GoesOn (s.mmaForm i x k) := by
  unfold State.mmaForm
  exact s.tileGate_goesOn _ _ _ _ _ _ _ _
theorem execAcz_goesOn (x : Ext) (s : State) : GoesOn (execAcz x s) := by
  unfold execAcz
  exact s.tileGate_goesOn _ _ _ _ _ _ _ _
theorem execAcld_goesOn (x : Ext) (s : State) : GoesOn (execAcld x s) := by
  unfold execAcld
  exact s.tileGate_goesOn _ _ _ _ _ _ _ _
theorem execAcmov_goesOn (x : Ext) (s : State) : GoesOn (execAcmov x s) := by
  unfold execAcmov
  exact s.tileGate_goesOn _ _ _ _ _ _ _ _
theorem execAcst_goesOn (x : Ext) (s : State) : GoesOn (execAcst x s) := by
  unfold execAcst
  exact s.tileGate_goesOn _ _ _ _ _ _ _ _
theorem osopenMeaning_goesOn (i : Instr) (x : Ext) (s : State) : GoesOn (osopenMeaning i x s) := by
  unfold osopenMeaning
  exact s.streamForm_goesOn _ _ _ _ _ _
theorem execOssub_goesOn (x : Ext) (s : State) : GoesOn (execOssub x s) := by
  unfold execOssub
  exact s.streamForm_goesOn _ _ _ _ _ _
theorem execOsclose_goesOn (x : Ext) (s : State) : GoesOn (execOsclose x s) := by
  unfold execOsclose
  exact s.streamForm_goesOn _ _ _ _ _ _
theorem execAspill_goesOn (x : Ext) (s : State) : GoesOn (execAspill x s) := by
  unfold execAspill
  exact s.onTile_goesOn _ _ _ _ _ _
theorem execAfill_goesOn (x : Ext) (s : State) : GoesOn (execAfill x s) := by
  unfold execAfill
  exact s.onTile_goesOn _ _ _ _ _ _
theorem execAown_goesOn (x : Ext) (s : State) : GoesOn (execAown x s) := by
  unfold execAown
  exact s.onTile_goesOn _ _ _ _ _ _
theorem execCreate_goesOn (s : State) : GoesOn (execCreate s) := by
  unfold execCreate
  exact s.signetCall_goesOn _ _
theorem execAdmit_goesOn (s : State) : GoesOn (execAdmit s) := by
  unfold execAdmit
  exact s.signetCall_goesOn _ _
theorem execRelease_goesOn (s : State) : GoesOn (execRelease s) := by
  unfold execRelease
  exact s.signetCall_goesOn _ _
theorem execWays_goesOn (s : State) : GoesOn (execWays s) := by
  unfold execWays
  exact s.signetCall_goesOn _ _
theorem execAttest_goesOn (s : State) : GoesOn (execAttest s) := by
  unfold execAttest
  exact s.signetCall_goesOn _ _
theorem execDestroy_goesOn (s : State) : GoesOn (execDestroy s) := by
  unfold execDestroy
  exact s.signetCall_goesOn _ _
theorem execIdekey_goesOn (s : State) : GoesOn (execIdekey s) := by
  unfold execIdekey
  exact s.signetCall_goesOn _ _
theorem execEnter_goesOn (s : State) : GoesOn (execEnter s) := by
  unfold execEnter
  exact s.signetCall_goesOn _ _

/-! Each meaning that branches by itself. -/

theorem execMovx_goesOn (x : Ext) (s : State) : GoesOn (execMovx x s) := by
  simp only [execMovx]
  split
  · refine s.checkIndex_goesOn _ _ ?_
    split <;> simp
  · exact s.gate_goesOn _ _ _
theorem execMovxw_goesOn (x : Ext) (s : State) : GoesOn (execMovxw x s) := by
  simp only [execMovxw]
  split
  · exact s.checkIndex_goesOn _ _ (s.gate_goesOn _ _ _)
  · exact s.gate_goesOn _ _ _
theorem execRfl_goesOn (x : Ext) (s : State) : GoesOn (execRfl x s) := by
  simp only [execRfl]; repeat' split
  all_goals simp
theorem execTfence_goesOn (x : Ext) (s : State) : GoesOn (execTfence x s) := by
  simp only [execTfence]; repeat' split
  all_goals simp
theorem execRett_goesOn (x : Ext) (s : State) : GoesOn (execRett x s) := by
  simp only [execRett]; repeat' split
  all_goals simp
theorem execMts_goesOn (x : Ext) (s : State) : GoesOn (execMts x s) := by
  simp only [execMts]; repeat' split
  all_goals simp
theorem execFencei_goesOn (x : Ext) (s : State) : GoesOn (execFencei x s) := by
  simp only [execFencei]; repeat' split
  all_goals simp
theorem execGenb_goesOn (x : Ext) (s : State) : GoesOn (execGenb x s) := by
  simp only [execGenb]; repeat' split
  all_goals simp
theorem execXacqGrant_goesOn (gid : Nat) (s : State) : GoesOn (execXacqGrant gid s) := by
  simp only [execXacqGrant]; repeat' split
  all_goals simp
theorem execPhaseComplete_goesOn (die w : Nat) (s : State) : GoesOn (execPhaseComplete die w s) := by
  simp only [execPhaseComplete]; repeat' split
  all_goals simp
theorem execLoadReturn_goesOn (id : Nat) (dev : Option (BitVec 128)) (s : State) : GoesOn (execLoadReturn id dev s) := by
  simp only [execLoadReturn]; repeat' split
  all_goals simp
theorem execStoreAck_goesOn (id : Nat) (s : State) : GoesOn (execStoreAck id s) := by
  simp only [execStoreAck]; repeat' split
  all_goals simp
theorem execAtomicReturn_goesOn (id : Nat) (s : State) : GoesOn (execAtomicReturn id s) := by
  simp only [execAtomicReturn]; repeat' split
  all_goals simp
theorem execQntApply_goesOn (id : Nat) (s : State) : GoesOn (execQntApply id s) := by
  simp only [execQntApply]; repeat' split
  all_goals simp
theorem execPassStart_goesOn (id : Nat) (s : State) : GoesOn (execPassStart id s) := by
  simp only [execPassStart]; repeat' split
  all_goals simp
theorem execAlut_goesOn (x : Ext) (s : State) : GoesOn (execAlut x s) := by
  simp only [execAlut]; repeat' split
  all_goals simp
theorem execStreamTileRead_goesOn (die slot t : Nat) (s : State) : GoesOn (execStreamTileRead die slot t s) := by
  simp only [execStreamTileRead]; repeat' split
  all_goals simp
theorem execBatchDecision_goesOn (cid q : Nat) (s : State) : GoesOn (execBatchDecision cid q s) := by
  simp only [execBatchDecision]; repeat' split
  all_goals simp
theorem execEntryBegin_goesOn (cid q : Nat) (s : State) : GoesOn (execEntryBegin cid q s) := by
  simp only [execEntryBegin]; repeat' split
  all_goals simp
theorem execEntryComplete_goesOn (cid q : Nat) (s0 : State) : GoesOn (execEntryComplete cid q s0) := by
  simp only [execEntryComplete]; repeat' split
  all_goals simp
theorem execEngineWindowWrite_goesOn (cid q : Nat) (s : State) : GoesOn (execEngineWindowWrite cid q s) := by
  simp only [execEngineWindowWrite]; repeat' split
  all_goals simp
theorem execQueueHalt_goesOn (cid q : Nat) (cause : BitVec 8) (addr : DWord) (s : State) : GoesOn (execQueueHalt cid q cause addr s) := by
  simp only [execQueueHalt]; repeat' split
  all_goals simp
theorem execDeferredReport_goesOn (gid : Nat) (s : State) : GoesOn (execDeferredReport gid s) := by
  simp only [execDeferredReport]; repeat' split
  all_goals simp
theorem execIntegrity_goesOn (gid : Nat) (pa : DWord) (s : State) : GoesOn (execIntegrity gid pa s) := by
  simp only [execIntegrity]; repeat' split
  all_goals simp
theorem execWalkResult_goesOn (die idx : Nat) (s : State) : GoesOn (execWalkResult die idx s) := by
  simp only [execWalkResult]; repeat' split
  all_goals simp
theorem execHomePerform_goesOn (id : Nat) (s : State) : GoesOn (execHomePerform id s) := by
  simp only [execHomePerform]; repeat' split
  all_goals simp
theorem execStampAnnouncement_goesOn (src dst : Nat) (s : State) : GoesOn (execStampAnnouncement src dst s) := by
  simp only [execStampAnnouncement]; repeat' split
  all_goals simp
theorem execScrub_goesOn (die : Nat) (pa : DWord) (res : ScrubResult) (s : State) : GoesOn (execScrub die pa res s) := by
  simp only [execScrub]; repeat' split
  all_goals simp
theorem execWriteAck_goesOn (src home : Nat) (num : BitVec 24) (s : State) : GoesOn (execWriteAck src home num s) := by
  simp only [execWriteAck]; repeat' split
  all_goals simp
theorem execInboundPostedWrite_goesOn (q : Tlp) (data : List Byte) (s : State) : GoesOn (execInboundPostedWrite q data s) := by
  simp only [execInboundPostedWrite]; repeat' split
  all_goals simp
theorem execInboundRead_goesOn (q : Tlp) (len : Nat) (s : State) : GoesOn (execInboundRead q len s) := by
  simp only [execInboundRead]; repeat' split
  all_goals simp
theorem execAtsTranslationRequest_goesOn (q : Tlp) (s : State) : GoesOn (execAtsTranslationRequest q s) := by
  simp only [execAtsTranslationRequest]; repeat' split
  all_goals simp
theorem execAtsInvalidationTimeout_goesOn (port : Nat) (rid : BitVec 16) (s : State) : GoesOn (execAtsInvalidationTimeout port rid s) := by
  simp only [execAtsInvalidationTimeout]; repeat' split
  all_goals simp
theorem execPageRequest_goesOn (q : Tlp) (rd wr last : Bool) (prg : BitVec 9) (s : State) : GoesOn (execPageRequest q rd wr last prg s) := by
  unfold execPageRequest
  exact .ite (.next _) (.ite (.next _) (.next _))
theorem execCompletionTimeout_goesOn (id : Nat) (s : State) : GoesOn (execCompletionTimeout id s) := by
  simp only [execCompletionTimeout]; repeat' split
  all_goals simp
theorem execBezelStore_goesOn (id : Nat) (s : State) : GoesOn (execBezelStore id s) := by
  simp only [execBezelStore]; repeat' split
  all_goals simp
theorem execClaspCounterAdd_goesOn (io : Nat) (s : State) : GoesOn (execClaspCounterAdd io s) := by
  simp only [execClaspCounterAdd]; repeat' split
  all_goals simp
theorem execRemoteWriteAck_goesOn (id : Nat) (ok : Bool) (s : State) : GoesOn (execRemoteWriteAck id ok s) := by
  simp only [execRemoteWriteAck]; repeat' split
  all_goals simp
theorem execReductionContribution_goesOn (r : RemoteTlp) (data : List Byte) (s : State) : GoesOn (execReductionContribution r data s) := by
  simp only [execReductionContribution]; repeat' split
  all_goals simp
theorem execReductionTimeout_goesOn (idx : Nat) (s : State) : GoesOn (execReductionTimeout idx s) := by
  simp only [execReductionTimeout]; repeat' split
  all_goals simp
theorem execLaunchCopy_goesOn (vdev : Nat) (s : State) : GoesOn (execLaunchCopy vdev s) := by
  simp only [execLaunchCopy]; repeat' split
  all_goals simp
theorem execDependencePoll_goesOn (seq : Nat) (s : State) : GoesOn (execDependencePoll seq s) := by
  simp only [execDependencePoll]; repeat' split
  all_goals simp
theorem execPlaceGang_goesOn (die seq : Nat) (s : State) : GoesOn (execPlaceGang die seq s) := by
  simp only [execPlaceGang]; repeat' split
  all_goals simp
theorem execChunkArrival_goesOn (wg : Nat) (s : State) : GoesOn (execChunkArrival wg s) := by
  simp only [execChunkArrival]; repeat' split
  all_goals simp
theorem execStealMessage_goesOn (seq asker : Nat) (s : State) : GoesOn (execStealMessage seq asker s) := by
  simp only [execStealMessage]; repeat' split
  all_goals simp
theorem execStealAnswer_goesOn (seq asker : Nat) (s : State) : GoesOn (execStealAnswer seq asker s) := by
  simp only [execStealAnswer]; repeat' split
  all_goals simp
theorem execGroupRelease_goesOn (gid : Nat) (s : State) : GoesOn (execGroupRelease gid s) := by
  simp only [execGroupRelease]; repeat' split
  all_goals simp
theorem execLaunchComplete_goesOn (seq : Nat) (s : State) : GoesOn (execLaunchComplete seq s) := by
  simp only [execLaunchComplete]; repeat' split
  all_goals simp
theorem execTurnEnd_goesOn (die : Nat) (s : State) : GoesOn (execTurnEnd die s) := by
  simp only [execTurnEnd]; repeat' split
  all_goals simp
theorem execGangSave_goesOn (gang : Nat) (s : State) : GoesOn (execGangSave gang s) := by
  simp only [execGangSave]; repeat' split
  all_goals simp
theorem execGangRestore_goesOn (gang : Nat) (s : State) : GoesOn (execGangRestore gang s) := by
  simp only [execGangRestore]; repeat' split
  all_goals simp
theorem execRegisterWrite_goesOn (addr : DWord) (width : Nat) (val : BitVec 128) (level : Nat) (s : State) :
    GoesOn (execRegisterWrite addr width val level s) := by
  simp only [execRegisterWrite]; repeat' split
  all_goals simp
theorem execGenbCompletion_goesOn (gid : Nat) (s : State) : GoesOn (execGenbCompletion gid s) := by
  simp only [execGenbCompletion]; repeat' split
  all_goals simp
theorem execDistributorReply_goesOn (id : Nat) (s : State) : GoesOn (execDistributorReply id s) := by
  simp only [execDistributorReply]; repeat' split
  all_goals simp

/-! Every row of the opcode table. -/

theorem exec_goesOn (i : Instr) (s : State) : GoesOn (exec i s) := by
  cases i with
  | nop | nopX | yield | brkl | sleepWake | trap | trapX | bkpt | wfiDeadline | xrel | ocinv | feset | feclr | fewait | fence | fenceX | locketFade
  | promiseMiss | qstatClrc | qstatHaltClear | step | promiseMissed | watchdog | preempt | breakpoint | refresh | hotRowWindowEnd | clearSweep
  | flitRetry | linkFailover | atsInvalidationCompletion | prgrsp | intxMessage | ptmRequest | ideCheckFailure | surpriseRemoval
  | claspBarrierArrival | claspInterrupt | wake | remoteWrite | rwrev | launch | vdreset | clrsize | cecntRead | coldReset | warmReset
  | throttleCheck | thermalTrip | ptmCorrection | standbySupplyApplied => exact .next _
  | mov | movX | sel | mov64 | iadd | iaddX | iadd64 | lea | iaddc | isubb | isub | isubX | isub64 | ineg | iabs | imul | imulX | imulh | imulw
  | imad | imadw | imad64 | imin | iminX | imax | and | andX | andn | bfun | or | orX | xor | xorX | not | shl | shlX | shl64 | shr | shrX | sar
  | shr64 | sar64 | rotl | fshl | fshr | bfx | bfxX | bfi | bmsk | popc | popcX | clz | ctz | brev | bytep | icmp | icmpX | icmp64 | plop | cvti
  | fadd | faddX | fsub | fmul | fmulX | ffma | ffmaX | fmin | fminX | fmax | fminn | fmaxn | fcmp | fcmpX | fclass | fcvt | fcvti | icvtf | frnd
  | fscale | frcp | fdot2 | fma2 | fadd2 | fmul2 | dot4 | bra | braX | brc | brcX | bru | bruX | call | callX | calli | ret | jmpi | loop | mfs | ipf
  | ipfX | xacq | xacqX | xshr | ocld | qxch | qxchX | qbc | gshf | gshfX | gshfx | gshfup | gshfdn | gvote | gvoteX | gmatch | gbcast | gred | gredX
  | gscan | binit | binitX | barv | bwait | barw | btest | ld | ldX | lds | ldw | st | stX | sts | stw | aadd | aaddX | amin | amax | aand | aor
  | axor | axch | acas | ainc | adec | afadd | afmin | afmax | pref | cinv | cwb | cpin | cunpin | cqadv | cqadvX | cqwait | cqseq | dcwait | tready
  | cqput => exact s.gate_goesOn _ _ _
  | movx => exact execMovx_goesOn _ s
  | movxw => exact execMovxw_goesOn _ s
  | frcpX | frsq | fsqrt | fex2 | flg2 | fsin | fcos | ftanh => exact s.special_goesOn _ _ _
  | exit | exitX => exact exitMeaning_goesOn _ _ s
  | rfl => exact execRfl_goesOn _ s
  | sleep | sleepX => exact sleepMeaning_goesOn _ _ s
  | sleepd => exact execSleepd_goesOn _ s
  | tfence => exact execTfence_goesOn _ s
  | rett => exact execRett_goesOn _ s
  | mfsX => exact mfsMeaning_goesOn _ _ s
  | mts => exact execMts_goesOn _ s
  | fencei => exact execFencei_goesOn _ s
  | wfi | wfiX => exact wfiMeaning_goesOn _ _ s
  | tlbi | tlbiX => exact tlbiMeaning_goesOn _ _ s
  | genb => exact execGenb_goesOn _ s
  | xacqGrant => exact execXacqGrant_goesOn _ s
  | gbar | gbarX | gbara | gbarw => exact s.gbarForm_goesOn _ _ _ _
  | phaseComplete => exact execPhaseComplete_goesOn _ _ s
  | loadReturn => exact execLoadReturn_goesOn _ _ s
  | storeAck => exact execStoreAck_goesOn _ s
  | atomicReturn => exact execAtomicReturn_goesOn _ s
  | qntApply => exact execQntApply_goesOn _ s
  | mma | mmaq | mmai => exact s.mmaForm_goesOn _ _ _
  | passStart => exact execPassStart_goesOn _ s
  | acz => exact execAcz_goesOn _ s
  | acld => exact execAcld_goesOn _ s
  | acmov => exact execAcmov_goesOn _ s
  | acst => exact execAcst_goesOn _ s
  | alut => exact execAlut_goesOn _ s
  | osopen | osopenX => exact osopenMeaning_goesOn _ _ s
  | ossub => exact execOssub_goesOn _ s
  | osclose => exact execOsclose_goesOn _ s
  | streamTileRead => exact execStreamTileRead_goesOn _ _ _ s
  | aspill => exact execAspill_goesOn _ s
  | afill => exact execAfill_goesOn _ s
  | aown => exact execAown_goesOn _ s
  | batchDecision => exact execBatchDecision_goesOn _ _ s
  | entryBegin => exact execEntryBegin_goesOn _ _ s
  | entryComplete => exact execEntryComplete_goesOn _ _ s
  | engineWindowWrite => exact execEngineWindowWrite_goesOn _ _ s
  | queueHalt => exact execQueueHalt_goesOn _ _ _ _ s
  | deferredReport => exact execDeferredReport_goesOn _ s
  | integrity => exact execIntegrity_goesOn _ _ s
  | walkResult => exact execWalkResult_goesOn _ _ s
  | homePerform => exact execHomePerform_goesOn _ s
  | stampAnnouncement => exact execStampAnnouncement_goesOn _ _ s
  | scrub => exact execScrub_goesOn _ _ _ s
  | writeAck => exact execWriteAck_goesOn _ _ _ s
  | inboundPostedWrite => exact execInboundPostedWrite_goesOn _ _ s
  | inboundRead => exact execInboundRead_goesOn _ _ s
  | atsTranslationRequest => exact execAtsTranslationRequest_goesOn _ s
  | atsInvalidationTimeout => exact execAtsInvalidationTimeout_goesOn _ _ s
  | pageRequest => exact execPageRequest_goesOn _ _ _ _ _ s
  | completionTimeout => exact execCompletionTimeout_goesOn _ s
  | bezelStore => exact execBezelStore_goesOn _ s
  | claspCounterAdd => exact execClaspCounterAdd_goesOn _ s
  | remoteWriteAck => exact execRemoteWriteAck_goesOn _ _ s
  | reductionContribution => exact execReductionContribution_goesOn _ _ s
  | reductionTimeout => exact execReductionTimeout_goesOn _ s
  | launchCopy => exact execLaunchCopy_goesOn _ s
  | dependencePoll => exact execDependencePoll_goesOn _ s
  | placeGang => exact execPlaceGang_goesOn _ _ s
  | chunkArrival => exact execChunkArrival_goesOn _ s
  | stealMessage => exact execStealMessage_goesOn _ _ s
  | stealAnswer => exact execStealAnswer_goesOn _ _ s
  | groupRelease => exact execGroupRelease_goesOn _ s
  | launchComplete => exact execLaunchComplete_goesOn _ s
  | turnEnd => exact execTurnEnd_goesOn _ s
  | gangSave => exact execGangSave_goesOn _ s
  | gangRestore => exact execGangRestore_goesOn _ s
  | registerWrite => exact execRegisterWrite_goesOn _ _ _ _ s
  | create => exact execCreate_goesOn s
  | admitCall => exact execAdmit_goesOn s
  | release => exact execRelease_goesOn s
  | ways => exact execWays_goesOn s
  | attest => exact execAttest_goesOn s
  | destroy => exact execDestroy_goesOn s
  | idekey => exact execIdekey_goesOn s
  | enter => exact execEnter_goesOn s
  | genbCompletion => exact execGenbCompletion_goesOn _ s
  | distributorReply => exact execDistributorReply_goesOn _ s

/-- The outcome of an instruction, taken apart. -/
theorem exec_next (i : Instr) (s : State) : ∃ t, exec i s = .next t := exec_goesOn i s

end Sys2Proof.Machine
end

section
/-!
PROOF. Taking a trap (18 R323, R324): the first level from the routed one upward whose trap is not in progress is entered, and nothing else of the group's
data, of memory or of another group changes.
-/

namespace Sys2Proof.Machine

/-! The level. -/

theorem Group.priv_setPriv (g : Group) {m : Nat} (h : m < 4) : (g.setPriv m).priv = m := by
  have := g.gsw.isLt
  simp only [Group.priv, Group.setPriv, bitsOf, putBits, BitVec.toNat_ofNat]
  omega

theorem Group.priv_setStep (g : Group) (b : Bool) : (g.setStep b).priv = g.priv := by
  have := g.gsw.isLt
  have := b.toNat_le
  simp only [Group.priv, Group.setStep, bitsOf, putBits, BitVec.toNat_ofNat]
  omega

/-- The first free level is the one below which every level from m up has a trap in progress. -/
theorem Group.freeLevel_eq (g : Group) {m n : Nat} (hmn : m ≤ n) (hn : n < 4) (hfree : g.act n = false) (hbusy : ∀ k, m ≤ k → k < n → g.act k = true) :
    g.freeLevel m = n := by
  unfold Group.freeLevel
  have h0 := hbusy 0; have h1 := hbusy 1; have h2 := hbusy 2
  have hn4 : n = 0 ∨ n = 1 ∨ n = 2 ∨ n = 3 := by omega
  have hm4 : m = 0 ∨ m = 1 ∨ m = 2 ∨ m = 3 := by omega
  rcases hn4 with rfl | rfl | rfl | rfl <;> rcases hm4 with rfl | rfl | rfl | rfl <;> simp_all

theorem State.trapLevel_congr {s s' : State} {gid : Nat} (hw : (s'.group gid).world = (s.group gid).world) (hp : (s'.group gid).priv = (s.group gid).priv)
    (hc : (s'.core (coreOf gid)).troute = (s.core (coreOf gid)).troute) (cause : Nat) (pr : Bool) : s'.trapLevel gid cause pr = s.trapLevel gid cause pr := by
  have hl : (s'.core (coreOf gid)).level cause = (s.core (coreOf gid)).level cause := by
    unfold Core.level; rw [hc]
  unfold State.trapLevel
  simp only
  rw [hw, hp, hl]

/-! Entry. -/

/-- The trap registers of the level entered, R323. -/
def Group.entryRegs (g : Group) (t : TrapInfo) (m : Nat) (dbl : Bool) : TrapRegs :=
  { g.tr m with
    cause := BitVec.ofNat 8 t.cause, addr := t.addr, lanes := t.lanes, pc := t.pc, priv := BitVec.ofNat 2 g.priv,
    tstat := BitVec.ofNat 8 (1 + (if dbl then 2 else 0) + (if g.step then 4 else 0) + (if t.defr.isSome then 8 else 0)),
    dpc := (t.defr.map Prod.fst).getD (g.tr m).dpc, dlanes := (t.defr.map Prod.snd).getD (g.tr m).dlanes,
    park := g.live &&& ~~~t.lanes, sleep := g.sleeping t.pc }

/-- Lanes sent to an address. -/
def Group.sendTo (g : Group) (ls : List Nat) (pc : DWord) : Group := ls.foldl (fun g l => g.setLane l { g.lane l with pc := pc }) g

theorem Group.enter_eq (g : Group) (t : TrapInfo) (m : Nat) (dbl : Bool) (tvec : DWord) :
    g.enter t m dbl tvec =
      { (((((g.setTr m (g.entryRegs t m dbl)).setPriv m).setStep false).sendTo t.lanes.lanes tvec).desched) with
        wait := .none, looksAgain := false, resume := none,
        pend := { g.pend with step := false, noBreak := none } } := rfl

/-- A group's registers are its values, its tags and the generations of its lanes. -/
theorem Group.reg_congr {g h : Group} (hv : h.v = g.v) (ht : h.tag = g.tag) (hg : ∀ l, (h.lane l).gen = (g.lane l).gen) (l r : Nat) : h.reg l r = g.reg l r := by
  unfold Group.reg
  rw [hv, ht, hg]

theorem Group.lane_desched (g : Group) (l : Nat) : g.desched.lane l = { g.lane l with laOk := 0 } :=
  Tab.get_map Lane.vacant Lane.vacant (fun _ (x : Lane) => { x with laOk := 0 }) g.lanes l rfl

theorem Group.gen_desched (g : Group) (l : Nat) : (g.desched.lane l).gen = (g.lane l).gen := by rw [Group.lane_desched]

theorem Group.gen_sendTo (g : Group) (ls : List Nat) (pc : DWord) (l : Nat) : ((g.sendTo ls pc).lane l).gen = (g.lane l).gen :=
  foldl_const (fun (g : Group) (k : Nat) => g.setLane k { g.lane k with pc := pc }) (fun g => (g.lane l).gen)
    (fun g k => by rw [Group.lane_setLane]; split <;> simp_all) ls g

theorem Group.sendTo_v (g : Group) (ls : List Nat) (pc : DWord) : (g.sendTo ls pc).v = g.v :=
  foldl_const _ Group.v (fun g k => g.setLane_v k _) ls g
theorem Group.sendTo_tag (g : Group) (ls : List Nat) (pc : DWord) : (g.sendTo ls pc).tag = g.tag :=
  foldl_const _ Group.tag (fun g k => g.setLane_tag k _) ls g
theorem Group.sendTo_trap (g : Group) (ls : List Nat) (pc : DWord) : (g.sendTo ls pc).trap = g.trap :=
  foldl_const _ Group.trap (fun g k => g.setLane_trap k _) ls g
theorem Group.sendTo_gsw (g : Group) (ls : List Nat) (pc : DWord) : (g.sendTo ls pc).gsw = g.gsw :=
  foldl_const _ Group.gsw (fun g k => g.setLane_gsw k _) ls g

theorem Group.enter_reg (g : Group) (t : TrapInfo) (m : Nat) (dbl : Bool) (tvec : DWord) (l r : Nat) : (g.enter t m dbl tvec).reg l r = g.reg l r := by
  rw [Group.enter_eq]
  refine Group.reg_congr ?_ ?_ ?_ l r
  · simp only [Group.desched_v, Group.sendTo_v, Group.setStep_v, Group.setPriv_v, Group.setTr_v]
  · simp only [Group.desched_tag, Group.sendTo_tag, Group.setStep_tag, Group.setPriv_tag, Group.setTr_tag]
  · intro k
    refine (Group.gen_desched _ k).trans ((Group.gen_sendTo _ _ _ k).trans ?_)
    simp only [Group.lane, Group.setStep_lanes, Group.setPriv_lanes, Group.setTr_lanes]

theorem Group.enter_tr (g : Group) (t : TrapInfo) (m : Nat) (dbl : Bool) (tvec : DWord) : (g.enter t m dbl tvec).tr m = g.entryRegs t m dbl := by
  have h : (g.enter t m dbl tvec).trap = (g.setTr m (g.entryRegs t m dbl)).trap := by
    rw [Group.enter_eq]
    simp only [Group.desched_trap, Group.sendTo_trap, Group.setStep_trap, Group.setPriv_trap]
  calc (g.enter t m dbl tvec).tr m = (g.setTr m (g.entryRegs t m dbl)).tr m := by unfold Group.tr; rw [h]
    _ = g.entryRegs t m dbl := by rw [Group.tr_setTr, if_pos rfl]

theorem Group.enter_priv (g : Group) (t : TrapInfo) {m : Nat} (hm : m < 4) (dbl : Bool) (tvec : DWord) : (g.enter t m dbl tvec).priv = m := by
  have h : (g.enter t m dbl tvec).gsw = (((g.setTr m (g.entryRegs t m dbl)).setPriv m).setStep false).gsw := by
    rw [Group.enter_eq]
    simp only [Group.desched_gsw, Group.sendTo_gsw]
  calc (g.enter t m dbl tvec).priv = (((g.setTr m (g.entryRegs t m dbl)).setPriv m).setStep false).priv := by unfold Group.priv; rw [h]
    _ = m := by rw [Group.priv_setStep, Group.priv_setPriv _ hm]

theorem tstat_entry (a b c : Bool) (x : BitVec 8) (h : x = BitVec.ofNat 8 (1 + (if a then 2 else 0) + (if b then 4 else 0) + (if c then 8 else 0))) :
    x.getLsbD 0 = true ∧ x.getLsbD 3 = c := by
  subst h
  cases a <;> cases b <;> cases c <;> decide

/-! The trap. -/

/-- Signet may stop the group that traps, and touches no group otherwise. -/
theorem State.signetStops_group (s : State) (gid cause n k : Nat) :
    (s.signetStops gid cause n).group k = s.group k ∨ (k = gid ∧ (s.signetStops gid cause n).group k = { s.group gid with status := .stopped }) := by
  unfold State.signetStops
  split
  · rw [State.setIpend, State.group_setCore, State.stopGroup, State.group_setGroup]
    split
    · exact .inr ⟨‹_›, rfl⟩
    · exact .inl rfl
  · exact .inl rfl

/-- The state in which a trap is routed: the group asks for no extended registers any more. -/
def State.leavesXacq (s : State) (gid : Nat) : State :=
  s.setCore (coreOf gid) { s.core (coreOf gid) with xacqs := (s.core (coreOf gid)).xacqs.filter (fun x => x ≠ gid) }

theorem State.leavesXacq_group (s : State) (gid k : Nat) : (s.leavesXacq gid).group k = s.group k := rfl

theorem State.leavesXacq_trapLevel (s : State) (gid cause : Nat) (pr : Bool) : (s.leavesXacq gid).trapLevel gid cause pr = s.trapLevel gid cause pr := by
  have hc : ((s.leavesXacq gid).core (coreOf gid)).troute = (s.core (coreOf gid)).troute := by unfold State.leavesXacq; rw [State.core_setCore_self]
  exact State.trapLevel_congr (s := s) (s' := s.leavesXacq gid) rfl rfl hc cause pr

/-- A trap whose level is free, of a group whose registers Signet need not put away. -/
theorem State.trap_eq_enter (s : State) (gid : Nat) (t : TrapInfo) {n : Nat} (hn : n < 4) (hl : (s.group gid).freeLevel (s.trapLevel gid t.cause t.pr) = n)
    (hw : isSystem gid = false ∨ (s.group gid).world = 0 ∨ n ≠ 2) :
    ∃ dbl tvec, s.trap gid t = ((s.leavesXacq gid).setGroup gid ((s.group gid).enter t n dbl tvec)).signetStops gid t.cause n := by
  have hlv := s.leavesXacq_trapLevel gid t.cause t.pr
  have hf : (isSystem gid && (s.group gid).world != 0 && n == 2) = false := by
    rcases hw with h | h | h <;> simp [h]
  refine ⟨n != s.trapLevel gid t.cause t.pr, Tab.get 0 ((s.leavesXacq gid).core (coreOf gid)).tvec n, ?_⟩
  have hn' : n ≠ 4 := by omega
  unfold State.trap
  have hx : s.setCore (coreOf gid) { s.core (coreOf gid) with xacqs := (s.core (coreOf gid)).xacqs.filter (fun x => x ≠ gid) } = s.leavesXacq gid := rfl
  simp only [hx, State.leavesXacq_group, hlv, hl, if_neg hn', hf]
  simp

/-- Taking a trap, R323, R324. -/
theorem State.trap_tookTrap (s : State) (gid : Nat) (t : TrapInfo) : s.TookTrap (s.trap gid t) gid t.cause t.addr t.lanes t.pc t.defr t.pr := by
  intro n hmn hn hfree hbusy hw
  obtain ⟨dbl, tvec, he⟩ := s.trap_eq_enter gid t hn (Group.freeLevel_eq _ hmn hn hfree hbusy) hw
  have hgroup : ∃ st, (s.trap gid t).group gid = { (s.group gid).enter t n dbl tvec with status := st } := by
    rcases State.signetStops_group ((s.leavesXacq gid).setGroup gid ((s.group gid).enter t n dbl tvec)) gid t.cause n gid with h | ⟨-, h⟩ <;>
      rw [he, h, State.group_setGroup_self]
    · exact ⟨_, rfl⟩
    · exact ⟨_, rfl⟩
  have hothers : ∀ k, k ≠ gid → (s.trap gid t).group k = s.group k := by
    intro k hk
    rcases State.signetStops_group ((s.leavesXacq gid).setGroup gid ((s.group gid).enter t n dbl tvec)) gid t.cause n k with h | ⟨h, -⟩
    · rw [he, h, State.group_setGroup, if_neg hk, State.leavesXacq_group]
    · exact absurd h hk
  obtain ⟨st, hst⟩ := hgroup
  have htr : ((s.trap gid t).group gid).tr n = (s.group gid).entryRegs t n dbl := by
    rw [hst]; exact Group.enter_tr _ t n dbl tvec
  obtain ⟨hact, hdef⟩ := tstat_entry dbl (s.group gid).step t.defr.isSome _ (rfl : ((s.group gid).entryRegs t n dbl).tstat = _)
  simp only [Group.act, htr]
  refine ⟨BitVec.toNat_ofNat .., rfl, rfl, rfl, hact, ?_, hdef, ?_, ?_, s.trap_mem gid t, hothers⟩
  · rw [hst]; exact Group.enter_priv _ t hn dbl tvec
  · intro d hd
    simp [Group.entryRegs, hd]
  · intro l r _
    rw [hst]; exact Group.enter_reg _ t n dbl tvec l r

/-- A trap is the same whatever a state before it counts of the issue: what it is taken from is the group's levels and registers. -/
theorem State.TookTrap.of_group {s s' t : State} {gid cause : Nat} {addr : DWord} {lanes : Mask} {pc : DWord} {defr : Option (DWord × Mask)} {pr : Bool}
    (h : s'.TookTrap t gid cause addr lanes pc defr pr) (hlv : s'.trapLevel gid cause pr = s.trapLevel gid cause pr)
    (htrap : (s'.group gid).trap = (s.group gid).trap) (hworld : (s'.group gid).world = (s.group gid).world)
    (hreg : ∀ l r, (s'.group gid).reg l r = (s.group gid).reg l r) (hmem : s'.mem = s.mem) (hothers : ∀ k, k ≠ gid → s'.group k = s.group k) :
    s.TookTrap t gid cause addr lanes pc defr pr := by
  have hact : ∀ k, (s'.group gid).act k = (s.group gid).act k := fun k => by unfold Group.act Group.tr; rw [htrap]
  intro n hmn hn hfree hbusy hw
  obtain ⟨h1, h2, h3, h4, h5, h6, h7, h8, h9, h10, h11⟩ := h n (hlv ▸ hmn) hn (by rw [hact, hfree]) (fun k hk hkn => by rw [hact, hbusy k (hlv ▸ hk) hkn])
    (by rw [hworld]; exact hw)
  exact ⟨h1, h2, h3, h4, h5, h6, h7, h8, fun l r hl => (h9 l r hl).trans (hreg l r), h10.trans hmem, fun k hk => (h11 k hk).trans (hothers k hk)⟩

end Sys2Proof.Machine
end

section
/-!
PROOF. A turn (18 R329, 11 R226, 03 R51 to R53): the step of a group whose turn has come, from the words fetched at its issue address.
-/

namespace Sys2Proof

/-! What decodes is well formed. -/

theorem decodeBase_wellFormed {w0 : Nat} {i : Instr} (h : decodeBase w0 = .ok i) : WellFormed i = true := by
  unfold decodeBase at h
  simp only at h
  repeat' split at h
  all_goals simp_all

theorem decodeShort_wellFormed {w0 lit : Nat} {i : Instr} (h : decodeShort w0 lit = .ok i) : WellFormed i = true := by
  unfold decodeShort at h
  simp only at h
  repeat' split at h
  all_goals simp_all

theorem decodeExt_wellFormed {w0 w1 w2 : Nat} {lit : Option (BitVec 64)} {i : Instr} (h : decodeExt w0 w1 w2 lit = .ok i) : WellFormed i = true := by
  unfold decodeExt at h
  simp only at h
  repeat' split at h
  all_goals simp_all

theorem decodeWords_wellFormed {w0 w1 w2 w3 w4 : Nat} {i : Instr} (h : decodeWords w0 w1 w2 w3 w4 = .ok i) : WellFormed i = true := by
  unfold decodeWords at h
  split at h
  · exact decodeBase_wellFormed h
  · exact decodeShort_wellFormed h
  · exact decodeExt_wellFormed h
  · exact decodeExt_wellFormed h

namespace Machine

/-! The step of a turn. -/

theorem State.step_exec {s s' t u : State} {gid : Nat} {i : Instr} (hp : s.plan = s'.planIssue gid) (ht : s'.turnOf gid = .exec i t)
    (he : exec i t = .next u) : step s = .next (u.afterIssue i gid (t.group gid).issueNo) := by
  unfold step
  rw [hp, State.planIssue, ht]
  simp only [he]
  rfl

theorem State.step_done {s s' t : State} {gid : Nat} (hp : s.plan = s'.planIssue gid) (ht : s'.turnOf gid = .done t) : step s = .next (t.pass 4 none) := by
  unfold step
  rw [hp, State.planIssue, ht]

/-- A group's turn comes from the head of the agenda, or as the next issue when nothing else is due. -/
theorem State.plan_turn {s s0 : State} {gid : Nat}
    (h : (∃ r, s.agenda = .issue gid :: r ∧ s0 = { s with agenda := r, cur := gid }) ∨
      (s.agenda = [] ∧ s.due = none ∧ s.nextGroup = some gid ∧ s0 = { s with cur := gid })) :
    ∃ s' : State, s.plan = s'.planIssue gid ∧ s0 = { s' with cur := gid } := by
  rcases h with ⟨r, ha, h0⟩ | ⟨ha, hd, hn, h0⟩
  · exact ⟨{ s with agenda := r }, by unfold State.plan; rw [ha], h0⟩
  · exact ⟨s, by unfold State.plan; rw [ha]; simp only [hd, hn], h0⟩

/-- A group that can issue, with no trap before its issue, fetches at its issue address. -/
theorem State.turnOf_fetch {s s0 : State} {gid : Nat} {pc : DWord} (h0 : s0 = { s with cur := gid }) (hc : s0.canIssue gid = true)
    (ht : s0.pendingTrap gid = none) (ha : (s0.group gid).issueAddr = some pc) : s.turnOf gid = s0.fetchTurn gid pc := by
  subst h0
  unfold State.turnOf
  simp only
  rw [if_pos hc, ht]
  simp only
  rw [ha]

/-- The issue at which a fetched word is no instruction counts as one (18 R337). -/
def Group.illegalIssue (g : Group) (now : Nat) : Group :=
  { g with lastIssue := now, readySince := now + 4, issueNo := g.issueNo + 1, faulted := true }

/-- The trap of words that are no instruction (03 R53). -/
def State.illegalTrap (s : State) (gid : Nat) (pc : DWord) (w : Nat) : State :=
  (s.setGroup gid ((s.group gid).illegalIssue s.clock)).trap gid
    { cause := cIllegal, lanes := (s.group gid).atPc pc, addr := BitVec.ofNat 64 w, pc := pc, defr := none, pr := false }

theorem State.illegalTrap_tookTrap (s : State) (gid : Nat) (pc : DWord) (w : Nat) :
    s.TookTrap (s.illegalTrap gid pc w) gid cIllegal (BitVec.ofNat 64 w) ((s.group gid).atPc pc) pc none := by
  have hg : (s.setGroup gid ((s.group gid).illegalIssue s.clock)).group gid = (s.group gid).illegalIssue s.clock := State.group_setGroup_self ..
  have ht := (s.setGroup gid ((s.group gid).illegalIssue s.clock)).trap_tookTrap gid
    { cause := cIllegal, lanes := (s.group gid).atPc pc, addr := BitVec.ofNat 64 w, pc := pc, defr := none, pr := false }
  refine ht.of_group (State.trapLevel_congr (s := s) (s' := s.setGroup gid ((s.group gid).illegalIssue s.clock)) ?_ ?_ rfl _ _) ?_ ?_ ?_ rfl ?_
  · rw [hg]; rfl
  · rw [hg]; rfl
  · rw [hg]; rfl
  · rw [hg]; rfl
  · intro l r
    rw [hg]; exact Group.reg_congr rfl rfl (fun _ => rfl) l r
  · intro k hk
    rw [State.group_setGroup, if_neg hk]

section
variable {s s1 : State} {gid : Nat} {pc : DWord} {ws : List Nat} (hf : s.fetchInstr gid (s.group gid).priv pc = .ok ws s1)
include hf

theorem State.fetchTurn_exec {i : Instr} (hd : decodeWords (ws.getD 0 0) (ws.getD 1 0) (ws.getD 2 0) (ws.getD 3 0) (ws.getD 4 0) = .ok i)
    (hl : (s1.ctxOf i).latchesAt ≤ s1.clock) : s.fetchTurn gid pc = .exec i s1 := by
  unfold State.fetchTurn
  rw [hf]
  simp only [hd]
  rw [if_pos hl]

theorem State.fetchTurn_held {i : Instr} (hd : decodeWords (ws.getD 0 0) (ws.getD 1 0) (ws.getD 2 0) (ws.getD 3 0) (ws.getD 4 0) = .ok i)
    (hl : s1.clock < (s1.ctxOf i).latchesAt) :
    s.fetchTurn gid pc = .done (s1.setGroup gid { s1.group gid with readySince := (s1.ctxOf i).latchesAt, blocked := false }) := by
  unfold State.fetchTurn
  rw [hf]
  simp only [hd]
  rw [if_neg (by omega)]

theorem State.fetchTurn_illegal {e : Reject} (hd : decodeWords (ws.getD 0 0) (ws.getD 1 0) (ws.getD 2 0) (ws.getD 3 0) (ws.getD 4 0) = .error e) :
    s.fetchTurn gid pc = .done (s1.illegalTrap gid pc (if ws.getD 0 0 % 4 ≥ 2 then ws.getD 0 0 + 2 ^ 32 * ws.getD 1 0 else ws.getD 0 0)) := by
  unfold State.fetchTurn
  rw [hf]
  simp only [hd]
  rfl

end

/-- A step of the table that is no instruction takes no cycles. -/
theorem State.step_event {s : State} {i : Instr} {r : List Act} (h : s.agenda = .event i :: r) :
    ∃ t, exec i { s with agenda := r } = .next t ∧ step s = .next (t.pass 0 none) := by
  obtain ⟨t, ht⟩ := exec_next i { s with agenda := r }
  refine ⟨t, ht, ?_⟩
  unfold step State.plan
  rw [h]
  simp only [ht]
  rfl

/-- Every state has a next one. -/
theorem State.step_next (s : State) : ∃ t, step s = .next t := by
  unfold step
  split
  · next i t who _ =>
    obtain ⟨u, hu⟩ := exec_next i t
    rw [hu]
    exact ⟨_, rfl⟩
  · exact ⟨_, rfl⟩

end Machine
end Sys2Proof
end

section
/-!
PROOF. What a read through the caches can change of memory: bytes of tags, and these only when a region is sealed (23 R385, R387).
-/

namespace Sys2Proof.Machine

/-- The same regions are sealed, and the bytes that hold no tag are as before; all of them are when no region is sealed. -/
def State.TagsOnly (s t : State) : Prop :=
  (∀ x, t.sealedAt x = s.sealedAt x) ∧ ∀ b, (tagByte b = false ∨ ∀ x, s.sealedAt x = none) → t.byteAt b = s.byteAt b

namespace State.TagsOnly
theorem refl (s : State) : s.TagsOnly s := ⟨fun _ => rfl, fun _ _ => rfl⟩
theorem trans {a b c : State} (h : a.TagsOnly b) (k : b.TagsOnly c) : a.TagsOnly c := by
  obtain ⟨hs, hb⟩ := h
  obtain ⟨ks, kb⟩ := k
  refine ⟨fun x => (ks x).trans (hs x), fun b hn => (kb b ?_).trans (hb b hn)⟩
  exact hn.imp id fun ho x => (hs x).trans (ho x)
theorem ite {s a b : State} {p : Prop} [Decidable p] (h : s.TagsOnly a) (k : s.TagsOnly b) : s.TagsOnly (if p then a else b) := by split <;> assumption
theorem foldl {α : Type} (f : State → α → State) (h : ∀ (s : State) (a : α), s.TagsOnly (f s a)) (L : List α) (s : State) : s.TagsOnly (L.foldl f s) := by
  induction L generalizing s with
  | nil => exact refl s
  | cons a r ih => exact (h s a).trans (ih (f s a))
end State.TagsOnly

/-! Updates that are not writes of memory. -/

/-- A byte is read from memory and the clearing bits of its die, the owner of a region from the owners of its die. -/
theorem State.tagsOnly_of_dies {s t : State} (hm : t.mem = s.mem) (hd : ∀ d, (t.die d).clearing = (s.die d).clearing ∧ (t.die d).owner = (s.die d).owner) :
    s.TagsOnly t := by
  refine ⟨fun x => ?_, fun b _ => ?_⟩
  · unfold State.sealedAt
    rw [(hd _).2]
  · unfold State.byteAt State.clearingAt
    rw [(hd _).1, hm]
theorem State.tagsOnly_setDie (s : State) (d : Nat) {x : Die} (hc : x.clearing = (s.die d).clearing) (ho : x.owner = (s.die d).owner) :
    s.TagsOnly (s.setDie d x) := by
  refine State.tagsOnly_of_dies rfl fun k => ?_
  rw [State.die_setDie]
  split
  · next h => rw [h]; exact ⟨hc, ho⟩
  · exact ⟨rfl, rfl⟩
theorem State.tagsOnly_setCore (s : State) (c : Nat) (x : Core) : s.TagsOnly (s.setCore c x) := State.tagsOnly_of_dies rfl fun _ => ⟨rfl, rfl⟩
theorem State.tagsOnly_setIo (s : State) (d : Nat) (x : IoDie) : s.TagsOnly (s.setIo d x) := State.tagsOnly_of_dies rfl fun _ => ⟨rfl, rfl⟩
theorem State.tagsOnly_draw (s : State) : s.TagsOnly s.draw := State.tagsOnly_of_dies rfl fun _ => ⟨rfl, rfl⟩

/-! Sealing writes a tag. -/

theorem sealTag_length (keys : List (BitVec 64)) (pa : Nat) (world : BitVec 12) (plain : List Byte) : (sealTag keys pa world plain).length ≤ 8 :=
  List.length_take_le ..

/-- The place of a tag is a place of tags. -/
theorem tagByte_tagAddr {lpa a : Nat} (h : lpa < 0x020000000000) (h1 : tagAddr lpa ≤ a) (h2 : a < tagAddr lpa + 8) : tagByte a = true := by
  unfold tagAddr at h1 h2
  have ha : a < 0x020000000000 := by omega
  have hlo : 0x04000000 ≤ a % 2 ^ 36 := by omega
  have hhi : a % 2 ^ 36 < 0x80000000 := by omega
  rw [tagByte, decide_eq_true ha, decide_eq_true hlo, decide_eq_true hhi]
  rfl

theorem State.owner_unclear (s : State) (pa d : Nat) : ((s.unclear pa).die d).owner = (s.die d).owner := by
  unfold State.unclear
  split
  · change ((s.setDie _ _).die d).owner = _
    rw [State.die_setDie]
    split
    · next h => rw [h]
    · rfl
  · rfl
theorem State.owner_storeBytes (s : State) (pa : Nat) (bs : List Byte) (d : Nat) : ((s.storeBytes pa bs).die d).owner = (s.die d).owner := by
  induction bs generalizing s pa with
  | nil => rfl
  | cons b r ih => exact (ih (s.storeByte pa b) (pa + 1)).trans (s.owner_unclear pa d)
theorem State.sealedAt_storeBytes (s : State) (pa : Nat) (bs : List Byte) (x : Nat) : (s.storeBytes pa bs).sealedAt x = s.sealedAt x := by
  unfold State.sealedAt
  rw [State.owner_storeBytes]

theorem State.sealedAt_lt {s : State} {lpa : Nat} {w : BitVec 12} (h : s.sealedAt lpa = some w) : lpa < 0x020000000000 := by
  unfold State.sealedAt at h
  split at h
  · assumption
  · cases h

theorem State.tagsOnly_sealSector (s : State) (lpa : Nat) : s.TagsOnly (s.sealSector lpa) := by
  unfold State.sealSector
  split
  · next w hw =>
    refine .ite (.refl s) ⟨s.sealedAt_storeBytes _ _, fun b hb => ?_⟩
    rw [State.byteAt_storeBytes]
    refine if_neg fun ⟨h1, h2⟩ => ?_
    rcases hb with hb | hb
    · have h3 : (s.tagOf w lpa).length ≤ 8 := sealTag_length _ _ _ _
      have := tagByte_tagAddr (State.sealedAt_lt hw) h1 (by omega)
      rw [hb] at this; cases this
    · rw [hb] at hw; cases hw
  · exact .refl s

/-! The memory-side cache. -/

theorem State.tagsOnly_activate (s : State) (d lpa : Nat) : s.TagsOnly (s.activate d lpa) := s.tagsOnly_setDie d rfl rfl
theorem State.tagsOnly_locketHit (s : State) (d lpa : Nat) : s.TagsOnly (s.locketHit d lpa) := s.tagsOnly_setDie d rfl rfl
theorem State.tagsOnly_movedBad (s : State) (d sec src : Nat) (moved : Bool) : s.TagsOnly (s.movedBad d sec src moved) :=
  .ite (s.tagsOnly_setCore _ _) (.refl s)
theorem State.tagsOnly_evictMsc (s : State) (d sec : Nat) : s.TagsOnly (s.evictMsc d sec) := by
  unfold State.evictMsc
  extract_lets x dirty src s1
  have h1 : s.TagsOnly s1 := s.tagsOnly_setDie d rfl rfl
  exact .ite ((h1.trans (State.tagsOnly_movedBad _ _ _ _ _)).trans (State.tagsOnly_activate _ _ _)) h1
theorem Die.pinLine_data (x : Die) (sec : Nat) (ws : List Nat) : (x.pinLine sec ws).clearing = x.clearing ∧ (x.pinLine sec ws).owner = x.owner := by
  unfold Die.pinLine
  extract_lets
  split <;> exact ⟨rfl, rfl⟩
theorem State.tagsOnly_takeMsc (s : State) (d sec : Nat) : s.TagsOnly (s.takeMsc d sec) := by
  unfold State.takeMsc
  extract_lets others loose s1 x
  have h1 : s.TagsOnly s1 := .ite (.refl s) (s.tagsOnly_draw.trans (State.tagsOnly_evictMsc _ _ _))
  obtain ⟨hc, ho⟩ := Die.pinLine_data { x with mschere := Tab.set false x.mschere sec true } sec (x.windowsAt (256 * sec))
  exact .ite (.refl s) (h1.trans (State.tagsOnly_setDie _ _ hc ho))
theorem State.tagsOnly_reachMsc (s : State) (d lpa : Nat) (alloc write : Bool) : s.TagsOnly (s.reachMsc d lpa alloc write) := by
  unfold State.reachMsc
  refine .ite (.refl s) (.ite (s.tagsOnly_locketHit d lpa) ?_)
  have h : s.TagsOnly (if alloc then (s.locketHit d lpa).takeMsc d (lpa / 256) else s.locketHit d lpa) :=
    .ite ((s.tagsOnly_locketHit d lpa).trans (State.tagsOnly_takeMsc _ _ _)) (s.tagsOnly_locketHit d lpa)
  exact .ite (h.trans (State.tagsOnly_activate _ _ _)) h

theorem State.tagsOnly_countCorrected (s : State) (d : Nat) (files : Bool) (n : Nat) : s.TagsOnly (s.countCorrected d files n) := s.tagsOnly_setDie d rfl rfl
theorem State.tagsOnly_reads (s : State) (d : Nat) (files : Bool) (place : Nat) : s.TagsOnly (s.reads d files place) :=
  (s.tagsOnly_countCorrected _ _ _).trans (State.tagsOnly_draw _)

/-! The L2. -/

theorem State.tagsOnly_evictSector (s : State) (d sec : Nat) : s.TagsOnly (s.evictSector d sec) := by
  unfold State.evictSector
  extract_lets x dirty hbm s1 s2 s3 x3
  have h1 : s.TagsOnly s1 := by refine .trans (s.tagsOnly_setDie d ?_ ?_) (State.tagsOnly_sealSector _ _) <;> rfl
  have h2 : s.TagsOnly s2 := h1.trans (State.tagsOnly_movedBad _ _ _ _ _)
  have h3 : s.TagsOnly s3 := .ite (h2.trans ((State.tagsOnly_locketHit _ _ _).trans (State.tagsOnly_takeMsc _ _ _))) h2
  exact .ite (s.tagsOnly_setDie d rfl rfl) (h3.trans (State.tagsOnly_setDie _ _ rfl rfl))
theorem State.tagsOnly_roomL2 (s : State) (d sec : Nat) (w : BitVec 12) : s.TagsOnly (s.roomL2 d sec w) := by
  unfold State.roomL2
  exact .ite (.refl s) (s.tagsOnly_draw.trans (.foldl _ (fun s k => s.tagsOnly_evictSector d k) _ _))
/-- A read at a home slice. -/
theorem State.tagsOnly_touchHome (s : State) (h lpa : Nat) (grain : Bool) : s.TagsOnly (s.touchHome h lpa grain false) := by
  unfold State.touchHome
  extract_lets sec here s0 w s1 x1 s2 x2 s3 x3
  have h0 : s.TagsOnly s0 := s.tagsOnly_reads h false lpa
  have h1 : s0.TagsOnly s1 := (s0.tagsOnly_reachMsc _ _ _ _).trans (State.tagsOnly_roomL2 _ _ _ _)
  have h2 : s0.TagsOnly s2 := .ite (.refl s0) (.ite h1 (h1.trans (State.tagsOnly_setDie _ _ rfl rfl)))
  have h3 : s0.TagsOnly s3 := s0.tagsOnly_reachMsc _ _ _ _
  exact .ite (h0.trans (h2.trans (State.tagsOnly_setDie _ _ rfl rfl))) (h0.trans (.ite (h3.trans (State.tagsOnly_setDie _ _ rfl rfl)) h3))

/-! Messages and stamps. -/

theorem State.tagsOnly_crossed (s : State) (l : Nat × Nat) : s.TagsOnly (s.crossed l) := by
  unfold State.crossed
  exact .ite (s.tagsOnly_setDie _ rfl rfl) (s.tagsOnly_setIo _ _)
theorem State.tagsOnly_travels (s : State) (src dst : Nat) : s.TagsOnly (s.travels src dst) := by
  unfold State.travels
  exact .ite (.refl s) (.foldl _ State.tagsOnly_crossed _ _)
theorem State.tagsOnly_carried (s : State) (src dst : Nat) (k : Tab (BitVec 24)) : s.TagsOnly (s.carried src dst k) := by
  unfold State.carried
  have h := s.tagsOnly_travels src dst
  exact .ite (.refl s) (.ite (h.trans (State.tagsOnly_setDie _ _ rfl rfl)) (h.trans (State.tagsOnly_setIo _ _ _)))
theorem State.tagsOnly_mergeStamp (s : State) (d : Nat) (m : Tab (BitVec 24)) : s.TagsOnly (s.mergeStamp d m) := by
  unfold State.mergeStamp State.raiseK
  exact .ite (.refl s) (.ite (s.tagsOnly_setDie _ rfl rfl) (s.tagsOnly_setIo _ _))

end Sys2Proof.Machine
end

section
/-!
PROOF. A fetched word of which no cache holds a copy: the four bytes at its home, the lowest address least significant (01 R13, 11 R204, R226).
-/

namespace Sys2Proof

/-! Bytes of a list, of memory and of a sector. -/

/-- The table of a list numbered from n on, without its default values. -/
theorem Tab.get_zip {α : Type} [DecidableEq α] (d : α) (xs : List α) (n j : Nat) :
    Tab.get d (((List.range' n xs.length).zip xs).filter (fun p => p.2 != d)) j = if j < n then d else xs.getD (j - n) d := by
  induction xs generalizing n with
  | nil => simp [Tab.get]
  | cons b r ih =>
    have hrest := ih (n + 1)
    simp only [List.length_cons, List.range'_succ, List.zip_cons_cons, List.filter_cons]
    by_cases hj : j = n
    · subst hj
      rw [if_pos (Nat.lt_succ_self j)] at hrest
      by_cases hb : b = d <;> simp [hb, Tab.get, hrest]
    · have hskip : Tab.get d (if (b != d) = true then (n, b) :: ((List.range' (n + 1) r.length).zip r).filter (fun p => p.2 != d)
          else ((List.range' (n + 1) r.length).zip r).filter (fun p => p.2 != d)) j = if j < n + 1 then d else r.getD (j - (n + 1)) d := by
        split
        · exact (if_neg hj).trans hrest
        · exact hrest
      rw [hskip]
      by_cases hlt : j < n
      · rw [if_pos hlt, if_pos (by omega)]
      · obtain ⟨k, rfl⟩ : ∃ k, j = n + 1 + k := ⟨j - (n + 1), by omega⟩
        have h1 : n + 1 + k - n = k + 1 := by omega
        have h2 : n + 1 + k - (n + 1) = k := by omega
        rw [if_neg (by omega), if_neg hlt, h1, h2, List.getD_cons_succ]

namespace Machine

theorem Tab.get_ofBytes (bs : List Byte) (j : Nat) : Tab.get 0 (Tab.ofBytes bs) j = bs.getD j 0 := by
  unfold Tab.ofBytes
  rw [List.range_eq_range', Tab.get_zip 0 bs 0 j, if_neg (Nat.not_lt_zero j), Nat.sub_zero]

theorem State.bytesAt_getD (s : State) (n l k : Nat) (h : k < n) : (s.bytesAt l n).getD k 0 = s.byteAt (l + k) := by
  induction n generalizing l k with
  | zero => omega
  | succ n ih =>
    cases k with
    | zero => rfl
    | succ k =>
      have : l + (k + 1) = l + 1 + k := by omega
      rw [State.bytesAt, List.getD_cons_succ, ih (l + 1) k (by omega), this]

/-- What a reader's copy of n bytes of memory gives back. -/
theorem Reader.read_codeSector (r : Reader) (s : State) (l n : Nat) (m off : Nat) (h : off + m ≤ n) :
    (r.codeSector (s.bytesAt l n)).read off m = s.bytesAt (l + off) m := by
  induction m generalizing off with
  | zero => rfl
  | succ m ih =>
    have hb : Tab.get 0 (r.codeSector (s.bytesAt l n)).bytes off = s.byteAt (l + off) := (Tab.get_ofBytes _ _).trans (s.bytesAt_getD n l off (by omega))
    rw [Sector.read, State.bytesAt, hb, ih (off + 1) (by omega), Nat.add_assoc]

theorem State.bytesAt_congr {s t : State} {n l : Nat} (h : ∀ i < n, t.byteAt (l + i) = s.byteAt (l + i)) : t.bytesAt l n = s.bytesAt l n := by
  induction n generalizing l with
  | zero => rfl
  | succ n ih =>
    rw [State.bytesAt, State.bytesAt, ih fun i hi => by rw [Nat.add_assoc, Nat.add_comm 1 i]; exact h (i + 1) (by omega)]
    exact congrArg (· :: _) (h 0 (by omega))

/-! The sector of an address. -/

/-- Memory of HBM4E, of the spread window and of CXL. -/
theorem regionOf_memory {pool pa : Nat} (h : (regionOf pool pa).memory = true) :
    pa < 0x020000000000 ∨ (0x040000000000 ≤ pa ∧ pa < 0x080000000000 ∧ pa - 0x040000000000 < 32 * (pool * 2 ^ 28)) ∨
      (0x080000000000 ≤ pa ∧ pa < 0x0C0000000000) := by
  unfold regionOf at h
  repeat' split at h
  all_goals simp only [Region.memory, Bool.false_eq_true] at h
  all_goals omega

theorem regionOf_hbm (pool : Nat) {pa : Nat} (h : pa < 0x020000000000) : regionOf pool pa = .hbm (pa / 2 ^ 36) := by
  unfold regionOf
  rw [if_pos h]
theorem regionOf_spread {pool pa : Nat} (h1 : 0x040000000000 ≤ pa) (h2 : pa < 0x080000000000) (h3 : pa - 0x040000000000 < 32 * (pool * 2 ^ 28)) :
    regionOf pool pa = .spread := by
  unfold regionOf
  rw [if_neg (by omega), if_neg (by omega), if_pos h2, if_pos h3]
theorem regionOf_cxl (pool : Nat) {pa : Nat} (h1 : 0x080000000000 ≤ pa) (h2 : pa < 0x0C0000000000) : regionOf pool pa = .cxl := by
  unfold regionOf
  rw [if_neg (by omega), if_neg (by omega), if_neg (by omega), if_pos h2]

/-- The bytes of a sector of memory follow one another at its home as they do in the address space, and the sector is in one region. -/
theorem sector_memory {pool pa : Nat} (h : (regionOf pool pa).memory = true) :
    regionOf pool (pa / 256 * 256) = regionOf pool pa ∧ localOf pool (pa / 256 * 256) + pa % 256 = localOf pool pa := by
  unfold localOf
  rcases regionOf_memory h with h1 | ⟨h1, h2, h3⟩ | ⟨h1, h2⟩
  · have hd : pa / 256 * 256 / 2 ^ 36 = pa / 2 ^ 36 := by omega
    rw [regionOf_hbm pool h1, regionOf_hbm pool (by omega), hd]
    exact ⟨rfl, by rw [if_neg (by simp), if_neg (by simp)]; omega⟩
  · have hb : (pa / 256 * 256 - 0x040000000000) / 2048 = (pa - 0x040000000000) / 2048 := by omega
    have hm : (pa / 256 * 256 - 0x040000000000) % 2048 + pa % 256 = (pa - 0x040000000000) % 2048 := by omega
    have k1 : 0x040000000000 ≤ pa / 256 * 256 := by omega
    have k2 : pa / 256 * 256 < 0x080000000000 := by omega
    have k3 : pa / 256 * 256 - 0x040000000000 < 32 * (pool * 2 ^ 28) := Nat.lt_of_le_of_lt (Nat.sub_le_sub_right (Nat.div_mul_le_self pa 256) _) h3
    rw [regionOf_spread h1 h2 h3, regionOf_spread k1 k2 k3, if_pos rfl, if_pos rfl, spreadLocal, spreadLocal, hb, ← hm]
    exact ⟨rfl, by omega⟩
  · rw [regionOf_cxl pool h1 h2, regionOf_cxl pool (by omega) (by omega)]
    exact ⟨rfl, by rw [if_neg (by simp), if_neg (by simp)]; omega⟩

theorem cxlHole_sector (pa : Nat) : cxlHole (pa / 256 * 256) = cxlHole pa := by
  have h1 : 0x080000000000 ≤ pa / 256 * 256 ↔ 0x080000000000 ≤ pa := by omega
  have h2 : pa / 256 * 256 < 0x0C0000000000 ↔ pa < 0x0C0000000000 := by omega
  have h3 : pa / 256 * 256 / 2 ^ 28 = pa / 2 ^ 28 := by omega
  rw [cxlHole, cxlHole, decide_eq_decide.2 h1, decide_eq_decide.2 h2, h3]

/-! The read. -/

/-- A reader finds no copy of a sector in its die's L2: what it reads is the memory of the sector's home, seals written meanwhile apart. -/
theorem State.l2Read_home {s t : State} {r : Reader} {pa n : Nat} {bs : List Byte} (h : s.l2Read r pa n = .ok bs t) (hx : cxlHole pa = false)
    (hr : regionOf (s.pool r.src) pa ≠ .hole) (hc : Tab.find (s.die r.src).l2 (pa / 256) = none) :
    ∃ s2, s.TagsOnly s2 ∧ bs = s2.bytesAt (localOf (s.pool r.src) pa) n := by
  have hplace : s.placeOf (s.pool r.src) pa = (localOf (s.pool r.src) pa, s.targetOf (s.pool r.src) pa, s) := by
    unfold State.placeOf
    rw [if_neg hr]
  have hcopy : s.copyAt r.src (pa / 256) r.world = none := by unfold State.copyAt; rw [hc]
  unfold State.l2Read at h
  rw [if_neg (by simp [hx]), hplace] at h
  simp only [hcopy] at h
  split at h
  · next home _ =>
    split at h
    · cases h
    · split at h
      · cases h
      · injection h with h _
        exact ⟨_, ((((s.tagsOnly_carried _ _ _).trans (State.tagsOnly_touchHome _ _ _ _)).trans (State.tagsOnly_carried _ _ _ _)).trans
          (State.tagsOnly_mergeStamp _ _ _)), h.symm⟩
  · cases h

section
variable {s : State} {cid pa : Nat} {r : Reader}

theorem State.l1iSound_none (h : Tab.find (s.core cid).l1i (pa / 256) = none) : s.l1iSound cid r pa = s := by
  unfold State.l1iSound unsound
  simp [h]
theorem State.l2iSound_none (h : ∀ q, Tab.find (Tab.get [] (s.die r.src).l2i q) (pa / 256) = none) : s.l2iSound cid r pa = s := by
  unfold State.l2iSound unsound
  simp [h]
theorem hitIn_none {t : Tab Sector} {sec : Nat} (h : Tab.find t sec = none) (asid : BitVec 12) (gen : BitVec 10) (world : BitVec 12) :
    hitIn t sec asid gen world = none := by
  unfold hitIn; rw [h]

/-- A sector fetched with no copy in the L2I or the L2. -/
theorem State.fetchSector_home {t : State} {bs : List Byte} (h : s.fetchSector cid r pa = .ok bs t)
    (hi : ∀ q, Tab.find (Tab.get [] (s.die r.src).l2i q) (pa / 256) = none) (hc : Tab.find (s.die r.src).l2 (pa / 256) = none) (hx : cxlHole pa = false)
    (hr : (regionOf (s.pool r.src) pa).memory = true) : ∃ s2, s.TagsOnly s2 ∧ bs = s2.bytesAt (localOf (s.pool r.src) (pa / 256 * 256)) 256 := by
  have hsec : pa / 256 * 256 / 256 = pa / 256 := by omega
  have hreg : regionOf (s.pool r.src) (pa / 256 * 256) ≠ .hole := by
    rw [(sector_memory hr).1]
    intro hh
    rw [hh] at hr; cases hr
  unfold State.fetchSector at h
  simp only [hitIn_none (hi _), ite_self, State.l2iSound_none hi] at h
  split at h
  · next hl =>
    injection h with h _
    subst h
    exact State.l2Read_home hl ((cxlHole_sector pa).trans hx) hreg (by rw [hsec]; exact hc)
  · next hn => exact absurd h (hn _ _)

/-- A word fetched with no copy in any cache. -/
theorem State.fetchMiss_home {t : State} {w : Nat} (h : s.fetchMiss cid r pa = .ok w t)
    (hi : ∀ q, Tab.find (Tab.get [] (s.die r.src).l2i q) (pa / 256) = none) (hc : Tab.find (s.die r.src).l2 (pa / 256) = none) (hx : cxlHole pa = false)
    (hr : (regionOf (s.pool r.src) pa).memory = true) (ha : pa % 4 = 0)
    (hs : (∀ i < 4, tagByte (localOf (s.pool r.src) pa + i) = false) ∨ ∀ x, s.sealedAt x = none) :
    w = ofBytesLE (s.bytesAt (localOf (s.pool r.src) pa) 4) := by
  unfold State.fetchMiss at h
  split at h
  · next bs s1 hf =>
    injection h with h _
    obtain ⟨s2, ⟨_, hbytes⟩, rfl⟩ := State.fetchSector_home hf hi hc hx hr
    rw [← h, Reader.read_codeSector _ _ _ _ _ _ (by omega), (sector_memory hr).2]
    exact congrArg ofBytesLE (State.bytesAt_congr fun i hlt => hbytes _ (hs.imp (fun ht => ht i hlt) id))
  · cases h
  · cases h

end

/-- A word that is fetched has its address translated; with no copy in any cache it is the bytes at the home. -/
theorem State.fetchWord_home {s t : State} {gid w priv : Nat} {va : DWord} (h : s.fetchWord gid va priv = .ok w t) :
    ∃ pa dev leaf, s.translate gid (s.group gid).k.casid va.toNat .fetch priv = .ok pa dev leaf ∧
      (Tab.find (s.core (coreOf gid)).l1i (pa / 256) = none → (∀ q, Tab.find (Tab.get [] (s.die (dieOf gid)).l2i q) (pa / 256) = none) →
        Tab.find (s.die (dieOf gid)).l2 (pa / 256) = none → cxlHole pa = false → beyondPool (s.pool (dieOf gid)) pa = false → pa % 4 = 0 →
        ((∀ i < 4, tagByte (localOf (s.pool (dieOf gid)) pa + i) = false) ∨ ∀ x, s.sealedAt x = none) →
        w = ofBytesLE (s.bytesAt (localOf (s.pool (dieOf gid)) pa) 4)) := by
  unfold State.fetchWord at h
  simp only at h
  split at h
  · cases h
  · cases h
  · next pa dev leaf htr =>
    refine ⟨pa, dev, leaf, htr, fun h1 hi hc hx hb ha hs => ?_⟩
    split at h
    · cases h
    · next hmem =>
      have hr : (regionOf (s.pool (dieOf gid)) pa).memory = true := by simpa [hb] using hmem
      rw [hitIn_none h1, State.l1iSound_none h1] at h
      simp only at h
      split at h
      · cases h
      · exact State.fetchMiss_home (r := (s.group gid).fetcher (dieOf gid) priv) h hi hc hx hr ha hs

end Machine
end Sys2Proof
end

section
/-! The statements of the family, settled. -/

namespace Sys2Proof.Settled

/-- Settles O57: each length's words read back field by field, and the opcode map gives back the instruction at its place. -/
theorem decodeEncodeAgree : Obligations.DecodeEncodeAgree := fun _ rest hwf he => decode_encodeBytes rest hwf he

/-- Settles O58: the decoder is run on each word. -/
theorem decodeWords : Obligations.DecodeWords := ⟨rfl, rfl, rfl, rfl, rfl, rfl, rfl, rfl⟩

/-- Settles O56: a turn is the fetch of the words at the issue address and then the instruction they decode to, or its trap; a fetched word comes from its home;
and no row of the table faults or is refused. -/
theorem stepRunsTheDecodedInstruction : Obligations.StepRunsTheDecodedInstruction := by
  refine ⟨fun s s0 s1 gid pc ws hturn hcan htrap haddr hfetch => ?_, fun s s1 gid w va _ hw => Machine.State.fetchWord_home hw,
    fun s i r h => Machine.State.step_event h, Machine.State.step_next⟩
  obtain ⟨s', hplan, h0⟩ := Machine.State.plan_turn hturn
  have ht := Machine.State.turnOf_fetch h0 hcan htrap haddr
  refine ⟨fun i hd => ⟨decodeWords_wellFormed hd, fun hl => ?_, fun hl => ?_⟩, fun e hd => ?_⟩
  · obtain ⟨t, he⟩ := Machine.exec_next i s1
    exact ⟨t, he, Machine.State.step_exec hplan (ht.trans (Machine.State.fetchTurn_exec hfetch hd hl)) he⟩
  · exact Machine.State.step_done hplan (ht.trans (Machine.State.fetchTurn_held hfetch hd hl))
  · exact ⟨_, Machine.State.step_done hplan (ht.trans (Machine.State.fetchTurn_illegal hfetch hd)), Machine.State.illegalTrap_tookTrap s1 gid pc _⟩

end Sys2Proof.Settled
end

section
/-!
PROOF. A result whose system core has left the request's world changes no register of the core's group: it goes to the registers that Signet holds of that
world (23 R381, assumption 14).
-/

namespace Sys2Proof.Machine

@[simp] theorem Group.reg_setEmpty (g : Group) (q : Nat) (b : Bool) (l r : Nat) : (g.setEmpty q b).reg l r = g.reg l r := rfl

@[simp] theorem Group.reg_unblocked (g : Group) (n l r : Nat) : (g.unblocked n).reg l r = g.reg l r := by
  unfold Group.unblocked
  split <;> rfl

/-- A group's update that keeps its registers keeps those of every group. -/
theorem State.reg_setGroup {s : State} {gid : Nat} {g : Group} (hg : ∀ l r, g.reg l r = (s.group gid).reg l r) (k l r : Nat) :
    ((s.setGroup gid g).group k).reg l r = (s.group k).reg l r := by
  rw [State.group_setGroup]
  split
  · next hk => rw [hk, hg]
  · rfl

theorem State.reg_unblock (s : State) (gid k l r : Nat) : ((s.unblock gid).group k).reg l r = (s.group k).reg l r := by
  unfold State.unblock
  split
  · exact State.reg_setGroup (fun l r => Group.reg_unblocked _ _ l r) k l r
  · rfl

/-- A request's end makes its registers full and changes the value of none. -/
theorem State.reg_settle (s : State) (q : Req) (k l r : Nat) : ((s.settle q).group k).reg l r = (s.group k).reg l r := by
  have h0 : (((s.dropReq q.id).unblock q.gid).group k).reg l r = (s.group k).reg l r := State.reg_unblock _ _ _ _ _
  unfold State.settle
  split
  · exact h0
  · split
    · next n _ =>
      refine List.foldlRecOn (motive := fun u : State => (u.group k).reg l r = (s.group k).reg l r) _ _ h0 fun u hu i _ => ?_
      split
      · exact hu
      · exact (State.reg_setGroup (fun l r => Group.reg_setEmpty _ _ _ l r) k l r).trans hu
    · exact h0

@[simp] theorem State.groups_mergeBack (s : State) (q : Req) : (s.mergeBack q).groups = s.groups := by
  unfold State.mergeBack
  split
  · split
    · exact (s.caching_mergeStamp _ _).groups
    · rfl
  · rfl

@[simp] theorem State.groups_acquire (s : State) (gid : Nat) (sc : Scope) : (s.acquire gid sc).groups = s.groups := by
  simp only [State.acquire]
  split <;> split <;> rfl

/-- The result of a world that its system core has left reaches no group. -/
theorem State.groups_deliver_left {s : State} {q : Req} (hs : isSystem q.gid = true) (hw : (s.group q.gid).world ≠ q.world) :
    (s.deliver q).groups = s.groups := by
  simp [State.deliver, hs, hw]

theorem State.reg_finish_left {s : State} {q : Req} (hs : isSystem q.gid = true) (hw : (s.group q.gid).world ≠ q.world) (k l r : Nat) :
    ((s.finish q).group k).reg l r = (s.group k).reg l r := by
  have hg : ∀ u : State, u.groups = s.groups → (((u.deliver q).settle q).group k).reg l r = (s.group k).reg l r := by
    intro u hu
    have hug : u.group = s.group := by funext j; simp only [State.group, hu]
    rw [State.reg_settle]
    simp only [State.group, State.groups_deliver_left hs (hug ▸ hw), hu]
  refine hg _ ?_
  split
  · rw [State.groups_acquire, State.groups_mergeBack]
  · exact State.groups_mergeBack s q

end Sys2Proof.Machine
end

section
/-!
PROOF. A run into that case: a load of world 1 is on its way when a trap takes its system core out of the world (23 R381). The trap leaves the lane's
generation as it was.
-/

namespace Sys2Proof.Machine

/-- The load: lane 0, in the generation that ENTER gave it, awaits 7 in r0 for world 1. -/
def loadOfWorld1 : Req :=
  { id := 1, gid := 65536, src := 32, op := .load, tgt := .mem 0, dev := false, pa := 0x100002000, lpa := 0x100002000, va := 0x2000, width := 4,
    data := 0, members := [⟨0, 2, 0, 0⟩], dst := .v 0, cls := .ca, ord := .rlx, use := .none, scope := .grp, num := none, stamp := [], asid := 0,
    gen := 0, world := 1, vdev := 0, ctxid := 0, level := 1, pc := 0, issueNo := 0,
    performed := true, result := [(0, 7)], mst := none, fill := none, span := (0, 0), since := 0 }

/-- System core 0 of the west I/O die after ENTER of world 1, its load on its way. -/
def inWorld1 : State :=
  { State.reset with
    boot := none, groups := [(65536, (Group.system.entered 1 0).markEmpty (.v 0) 4)], reqs := [loadOfWorld1], seq := 2, hosts := [⟨2048, Group.system⟩] }

/-- The same core after a trap SOFTWARE, which is routed to level 2: Signet holds the registers of world 1. -/
def outOfWorld1 : State := inWorld1.trap 65536 { cause := cSoftware, lanes := 1, addr := 0, pc := 0, defr := none, pr := false }

end Sys2Proof.Machine
end

section
/-!
PROOF. The reset state: the groups that are resident, and the level of each cause (02 R35, 18 R322).
-/

namespace Sys2Proof.Machine

theorem State.group_reset (gid : Nat) : State.reset.group gid = if gid = 65536 ∨ gid = 67584 then Group.system else Group.vacant := by
  simp only [State.group, State.reset, Tab.get]
  split <;> simp_all

theorem State.resident_reset (gid : Nat) : (State.reset.group gid).resident = decide (gid = 65536 ∨ gid = 67584) := by
  rw [State.group_reset]
  split
  · next h => rw [decide_eq_true h]; rfl
  · next h => rw [decide_eq_false h]; rfl

/-- Every cause is routed to level 2, INTEGRITY to level 3. -/
theorem Core.level_reset : ∀ c, 1 ≤ c → c ≤ 24 → Core.reset.level c = if c = 0x15 then 3 else 2 := by
  have h : ∀ c < 25, 1 ≤ c → Core.reset.level c = if c = 0x15 then 3 else 2 := by decide
  exact fun c h1 h24 => h c (by omega) h1

end Sys2Proof.Machine
end

section
/-! The statements of the family of the sequential machine, settled. -/

namespace Sys2Proof.Settled
open Machine

/-- Refutes O36: the statement asks for the data in the registers of the core's group whenever the lane's generation stands, and leaves out the world. A
system core that has left the request's world takes no result of it (23 R381, assumption 14): the load of `outOfWorld1` returns 7 to the registers that
Signet holds, and r0 of the core's group stays 0. -/
theorem not_returnsFillTheirRegisters : ¬ Obligations.ReturnsFillTheirRegisters := by
  intro h
  obtain ⟨hload, -⟩ := h outOfWorld1 1 loadOfWorld1 rfl rfl
  obtain ⟨t, ht, -, -, hdst⟩ := hload rfl (by decide) nofun none
  have ht' : outOfWorld1.finish loadOfWorld1 = t := Host.Outcome.next.inj ht
  obtain ⟨hreg, -⟩ := hdst 0 rfl
  have h7 : (t.group 65536).reg 0 0 = 7#32 := hreg (by decide) (by decide) ⟨0, 2, 0, 0⟩ (by decide) (by decide) 7 rfl 0 (by decide)
  have h0 : (t.group 65536).reg 0 0 = 0#32 := by
    rw [← ht', State.reg_finish_left (by decide) (by decide)]
    rfl
  rw [h0] at h7
  exact absurd h7 (by decide)

/-- Settles O60: the reset state lists the groups of the two system cores and no core, die or I/O die, so that each of these reads as its reset value. -/
theorem resetState : Obligations.ResetState := by
  refine ⟨State.wf_reset, rfl, rfl, rfl, rfl, State.resident_reset, by decide, fun cid => ⟨Core.level_reset, fun n => ?_, fun q => rfl⟩, fun d => ?_, fun d => ?_⟩
  · exact BitVec.getLsbD_allOnes
  · exact ⟨rfl, rfl, rfl, rfl, rfl, rfl, rfl⟩
  · exact ⟨rfl, rfl, rfl⟩

end Sys2Proof.Settled
end

section
/-! The statement of the family of the opcode table, settled. -/

namespace Sys2Proof.Settled

/-- Settles O55, by cases on the row of the opcode table: each meaning ends in a next state or in the gate of an issue, which stalls, traps or passes. It is
the kind of outcome alone that is proved; which state is answered, that of an event that is not due included, the statement leaves open. -/
theorem everyInstructionGoesOn : Obligations.EveryInstructionGoesOn := Machine.exec_goesOn

end Sys2Proof.Settled
end

section
/-!
Rounding, mode by mode, and what a format's decoder gives back to its rounding (04 R57 to R63).
-/

namespace Sys2Proof

/-! The rounding of a magnitude to an integer: an equation for what is exact, and one per mode for what is not. -/

section
variable {rb m sh : Nat} {neg : Bool}

theorem roundMag_exact {mode : Rnd} (h : m % 2 ^ sh = 0) : roundMag mode rb neg m sh = (m / 2 ^ sh, false) := by
  simp only [roundMag, if_pos h]

theorem roundMag_inexact {mode : Rnd} (h : m % 2 ^ sh ≠ 0) : (roundMag mode rb neg m sh).2 = true := by
  simp only [roundMag, if_neg h]

theorem roundMag_neighbour {mode : Rnd} (h : m % 2 ^ sh ≠ 0) :
    (roundMag mode rb neg m sh).1 = m / 2 ^ sh ∨ (roundMag mode rb neg m sh).1 = m / 2 ^ sh + 1 := by
  simp only [roundMag, if_neg h]
  exact (Decidable.em _).elim (fun hup => .inr (if_pos hup)) (fun hdown => .inl (if_neg hdown))

theorem roundMag_rtz (h : m % 2 ^ sh ≠ 0) : (roundMag .rtz rb neg m sh).1 = m / 2 ^ sh := by
  simp [roundMag, h]

theorem roundMag_rup (h : m % 2 ^ sh ≠ 0) :
    (roundMag .rup rb neg m sh).1 = if neg then m / 2 ^ sh else m / 2 ^ sh + 1 := by
  cases neg <;> simp [roundMag, h]

theorem roundMag_rdn (h : m % 2 ^ sh ≠ 0) :
    (roundMag .rdn rb neg m sh).1 = if neg then m / 2 ^ sh + 1 else m / 2 ^ sh := by
  simp [roundMag, h]

theorem roundMag_rodd (h : m % 2 ^ sh ≠ 0) :
    (roundMag .rodd rb neg m sh).1 = if m / 2 ^ sh % 2 = 0 then m / 2 ^ sh + 1 else m / 2 ^ sh := by
  simp [roundMag, h]

theorem roundMag_rne (h : m % 2 ^ sh ≠ 0) :
    (roundMag .rne rb neg m sh).1 =
      if 2 ^ sh < 2 * (m % 2 ^ sh) ∨ 2 * (m % 2 ^ sh) = 2 ^ sh ∧ m / 2 ^ sh % 2 = 1 then m / 2 ^ sh + 1 else m / 2 ^ sh := by
  simp [roundMag, h]

theorem roundMag_rna (h : m % 2 ^ sh ≠ 0) :
    (roundMag .rna rb neg m sh).1 = if 2 ^ sh ≤ 2 * (m % 2 ^ sh) then m / 2 ^ sh + 1 else m / 2 ^ sh := by
  simp [roundMag, h]

theorem roundMag_rsr (h : m % 2 ^ sh ≠ 0) :
    (roundMag .rsr rb neg m sh).1 =
      if 2 ^ 32 ≤ m % 2 ^ sh * 2 ^ 32 / 2 ^ sh + rb then m / 2 ^ sh + 1 else m / 2 ^ sh := by
  simp [roundMag, h]

/-- Away from a tie the two modes that round to nearest agree. -/
theorem roundMag_nearest {mode : Rnd} (hmode : mode = .rne ∨ mode = .rna) (h : m % 2 ^ sh ≠ 0) :
    (2 * (m % 2 ^ sh) < 2 ^ sh → (roundMag mode rb neg m sh).1 = m / 2 ^ sh) ∧
    (2 ^ sh < 2 * (m % 2 ^ sh) → (roundMag mode rb neg m sh).1 = m / 2 ^ sh + 1) := by
  obtain rfl | rfl := hmode
  · rw [roundMag_rne h]
    exact ⟨fun hlt => if_neg (by omega), fun hgt => if_pos (Or.inl hgt)⟩
  · rw [roundMag_rna h]
    exact ⟨fun hlt => if_neg (by omega), fun hgt => if_pos (by omega)⟩

/-- At a tie `rne` takes the even neighbour and `rna` the one of larger magnitude. -/
theorem roundMag_tie {mode : Rnd} (h : m % 2 ^ sh ≠ 0) (htie : 2 * (m % 2 ^ sh) = 2 ^ sh) :
    (mode = .rne → (roundMag mode rb neg m sh).1 % 2 = 0) ∧ (mode = .rna → (roundMag mode rb neg m sh).1 = m / 2 ^ sh + 1) := by
  refine ⟨?_, ?_⟩
  · rintro rfl
    rw [roundMag_rne h]
    split <;> omega
  · rintro rfl
    rw [roundMag_rna h, if_pos (Nat.le_of_eq htie.symm)]

end

/-! The normal numbers of a format. The rounding and the decoder draw the line above the largest one by different tests, which agree. -/

/-- The exponent field and the fraction field are of a finite number: they pass the rounding's test of overflow. -/
def Fmt.Finite (f : Fmt) (ef fr : Nat) : Prop :=
  ¬(f.maxE < ef ∨ ef = f.maxE ∧ f.topFinite ∧ fr = 2 ^ f.fb - 1)

/-- The decoder's test: the top exponent field is of an infinity or a NaN, in .e4m3 only with the top fraction. -/
theorem Fmt.finite_iff {f : Fmt} {ef fr : Nat} (hpos : 0 < ef) (hef : ef < 2 ^ f.eb) :
    f.Finite ef fr ↔ ¬(ef = 2 ^ f.eb - 1 ∧ (f.topFinite → fr = 2 ^ f.fb - 1)) := by
  rw [Fmt.Finite, Fmt.maxE]
  cases f.topFinite <;> simp <;> omega

/-! The rounding of a value that the format holds. Such a value is already spaced by the format's unit, so that `roundMag` has nothing to do. -/

section
variable {f : Fmt} {mode : Rnd} {sat neg : Bool} {rb fr : Nat}

@[simp] theorem Fmt.round_zero {e : Int} : f.round mode sat rb neg 0 e = (f.sign neg 0, 0) := rfl

theorem Fmt.round_subnormal (hfr : fr < 2 ^ f.fb) : f.round mode sat rb neg fr f.qmin = (f.sign neg fr, 0) := by
  obtain rfl | hne := Nat.eq_zero_or_pos fr
  · exact Fmt.round_zero
  have hlog : Nat.log2 fr < f.fb := (Nat.log2_lt (Nat.ne_of_gt hne)).mpr hfr
  have hq : max (f.qmin + (Nat.log2 fr : Int) - f.fb) f.qmin = f.qmin := by omega
  have hk : fr ≠ 2 ^ (f.fb + 1) := by rw [Nat.pow_succ]; omega
  simp only [Fmt.round, if_neg (Nat.ne_of_gt hne), hq, Int.le_refl, Int.sub_self, Int.toNat_zero, Nat.pow_zero, Nat.mul_one, if_true, if_neg hk,
    if_pos hfr, Fl.when, Bool.false_eq_true, if_false]

theorem Fmt.round_normal {ef : Nat} (hfr : fr < 2 ^ f.fb) (hef : 0 < ef) (hfinite : f.Finite ef fr) :
    f.round mode sat rb neg (2 ^ f.fb + fr) (f.qmin + (ef - 1 : Nat)) = (f.sign neg (ef * 2 ^ f.fb + fr), 0) := by
  obtain ⟨n, rfl⟩ := Nat.exists_eq_add_one_of_ne_zero (Nat.ne_of_gt hef)
  have hne : 2 ^ f.fb + fr ≠ 0 := by have := Nat.two_pow_pos f.fb; omega
  have hlog : Nat.log2 (2 ^ f.fb + fr) = f.fb :=
    (Nat.log2_eq_iff hne).mpr ⟨Nat.le_add_right _ _, by rw [Nat.pow_succ]; omega⟩
  have hq : max (f.qmin + (n : Int) + (f.fb : Int) - f.fb) f.qmin = f.qmin + n := by omega
  have hk : 2 ^ f.fb + fr ≠ 2 ^ (f.fb + 1) := by rw [Nat.pow_succ]; omega
  have hn : f.qmin + (n : Int) - f.qmin = n := by omega
  rw [Fmt.Finite, ← gt_iff_lt] at hfinite
  simp only [Fmt.round, if_neg hne, Nat.add_sub_cancel, hlog, hq, Int.le_refl, Int.sub_self, Int.toNat_zero, Nat.pow_zero, Nat.mul_one, if_true,
    if_neg hk, if_neg (Nat.not_lt.mpr (Nat.le_add_right (2 ^ f.fb) fr)), hn, Int.toNat_natCast, Nat.add_sub_cancel_left, if_neg hfinite, Fl.when,
    Bool.false_eq_true, if_false]

end

/-! The fields of a pattern, R57. In every format the exponent and the fraction fill the bits below the sign. -/

section
variable {f : Fmt} {bits : Nat}

/-- A sign, an exponent field and a fraction field are the pattern they were read from. -/
theorem Fmt.sign_fields (hw : f.w = f.eb + f.fb + 1) (hb : bits < 2 ^ f.w) :
    f.sign (bits.testBit (f.w - 1)) (bits / 2 ^ f.fb % 2 ^ f.eb * 2 ^ f.fb + bits % 2 ^ f.fb) = bits := by
  have hsign : f.w - 1 = f.fb + f.eb := by omega
  have hmag : bits / 2 ^ f.fb % 2 ^ f.eb * 2 ^ f.fb + bits % 2 ^ f.fb = bits % 2 ^ (f.w - 1) := by
    rw [hsign, Nat.pow_add, Nat.mod_mul, Nat.add_comm, Nat.mul_comm]
  have hdiv : bits / 2 ^ (f.w - 1) < 2 := Nat.div_lt_of_lt_mul (by rwa [← Nat.pow_succ, show (f.w - 1).succ = f.w by omega])
  have hbits := Nat.div_add_mod bits (2 ^ (f.w - 1))
  rw [hmag, Fmt.sign, Nat.testBit_eq_decide_div_mod_eq, Nat.mod_eq_of_lt hdiv]
  obtain h | h := Nat.le_one_iff_eq_zero_or_eq_one.mp (Nat.lt_succ_iff.mp hdiv) <;>
    · rw [h] at hbits ⊢
      simpa using hbits

/-- What a finite pattern is: its fields name a subnormal, or a normal number. -/
theorem Fmt.decode_eq_fin {neg : Bool} {ef fr m : Nat} {e : Int} (hb : bits < 2 ^ f.w) (hef : bits / 2 ^ f.fb % 2 ^ f.eb = ef)
    (hfr : bits % 2 ^ f.fb = fr) (h : f.decode bits = .fin neg m e) :
    bits.testBit (f.w - 1) = neg ∧
      (ef = 0 ∧ fr = m ∧ f.qmin = e ∨ 0 < ef ∧ f.Finite ef fr ∧ 2 ^ f.fb + fr = m ∧ f.qmin + (ef - 1 : Nat) = e) := by
  have hlt : ef < 2 ^ f.eb := hef ▸ Nat.mod_lt _ (Nat.two_pow_pos _)
  simp only [Fmt.decode, Nat.mod_eq_of_lt hb, hef, hfr] at h
  obtain hzero | hpos := Nat.eq_zero_or_pos ef
  · (repeat' split at h) <;> simp_all
  · rw [Fmt.finite_iff hpos hlt]
    (repeat' split at h) <;> simp_all

/-- A finite pattern is what its own value rounds to, in every mode: the value is not rounded and no flag is raised. -/
theorem Fmt.round_decode {mode : Rnd} {sat neg : Bool} {rb m : Nat} {e : Int} (hw : f.w = f.eb + f.fb + 1) (hb : bits < 2 ^ f.w)
    (h : f.decode bits = .fin neg m e) : f.round mode sat rb neg m e = (bits, 0) := by
  have hfr : bits % 2 ^ f.fb < 2 ^ f.fb := Nat.mod_lt _ (Nat.two_pow_pos _)
  have hbits := Fmt.sign_fields hw hb
  obtain ⟨rfl, ⟨hef, rfl, rfl⟩ | ⟨hpos, hfinite, rfl, rfl⟩⟩ := Fmt.decode_eq_fin hb rfl rfl h
  · rw [Fmt.round_subnormal hfr]
    simpa [hef] using hbits
  · rw [Fmt.round_normal hfr hpos hfinite, hbits]

end

end Sys2Proof
end

section
/-! The statement of the family of the numbers, settled. -/

namespace Sys2Proof.Settled

/-- Settles O9: each mode's choice is its own equation of `roundMag`, and a value read from a pattern is already spaced by the format's unit. -/
theorem roundingPicksANeighbour : Obligations.RoundingPicksANeighbour := by
  have hw : ∀ f ∈ [Fmt.f64, Fmt.f32, Fmt.f16, Fmt.bf16, Fmt.e4m3, Fmt.e5m2], f.w = f.eb + f.fb + 1 := by decide
  refine ⟨fun mode rb neg m sh => ?_, fun f hf mode sat rb bits neg m e hb h => Fmt.round_decode (hw f hf) hb h⟩
  by_cases hr : m % 2 ^ sh = 0
  · simp [roundMag_exact hr, hr]
  refine ⟨iff_of_true (roundMag_inexact hr) hr, fun h => absurd h hr, fun _ => ⟨roundMag_neighbour hr, ?rtz, ?rup, ?rdn, ?rodd,
    fun hmode => roundMag_nearest hmode hr, roundMag_tie hr, ?rsr⟩⟩
  case rtz => rintro rfl; exact roundMag_rtz hr
  case rup => rintro rfl; simp [roundMag_rup hr]
  case rdn => rintro rfl; simp [roundMag_rdn hr]
  case rodd => rintro rfl; rw [roundMag_rodd hr]; split <;> omega
  case rsr => rintro rfl; simp [roundMag_rsr hr]

end Sys2Proof.Settled
end
